-- ==== Sys2Proof/Word.lean ====
section
/-! DEFINITION. The words of the hall lines and ports, and the two containers of the model: a bank (a fixed
number of like things) and a table by number (a sparse list of records, kept in one canonical form). -/

namespace Sys2Proof

abbrev Byte := BitVec 8
abbrev Half := BitVec 16
abbrev Word := BitVec 32

/-- `n` like things, numbered from 0: the 24 channels, the 32 slots, the 3 seats of a booth. -/
structure Bank (α : Type) (n : Nat) where
  cells : List α
  size : cells.length = n
deriving DecidableEq, Repr

namespace Bank
variable {α β : Type} {n : Nat}

def get (b : Bank α n) (i : Fin n) : α := b.cells[i.val]'(by rw [b.size]; exact i.isLt)

def set (b : Bank α n) (i : Fin n) (x : α) : Bank α n :=
  ⟨b.cells.set i.val x, by rw [List.length_set]; exact b.size⟩

def modify (b : Bank α n) (i : Fin n) (f : α → α) : Bank α n := b.set i (f (b.get i))

def fill (n : Nat) (x : α) : Bank α n := ⟨List.replicate n x, by rw [List.length_replicate]⟩

def map (f : α → β) (b : Bank α n) : Bank β n :=
  ⟨b.cells.map f, by rw [List.length_map]; exact b.size⟩

/-- The bank whose i-th thing is `f i`. -/
def build (f : Fin n → α) : Bank α n :=
  ⟨(List.finRange n).map f, by rw [List.length_map, List.length_finRange]⟩

end Bank

/-- Records by number, the numbers strictly rising. -/
abbrev Table (α : Type) := List (Nat × α)

namespace Table
variable {α : Type}

/-- The canonical form: the numbers rise strictly. -/
abbrev Sorted (t : Table α) : Prop := t.Pairwise (fun a b => a.1 < b.1)

def find? : Table α → Nat → Option α
  | [], _ => none
  | (k, x) :: t, n => if k = n then some x else find? t n

/-- Writes record `n`, in its place. -/
def put : Table α → Nat → α → Table α
  | [], n, x => [(n, x)]
  | (k, y) :: t, n, x =>
    if n < k then (n, x) :: (k, y) :: t
    else if n = k then (n, x) :: t
    else (k, y) :: put t n x

/-- Removes record `n`. -/
def remove (t : Table α) (n : Nat) : Table α := t.filter (fun e => e.1 != n)

end Table

end Sys2Proof
end

