-- ==== Sys2Proof/Syntax.lean ====
section
/-! DEFINITION. The commands of the DF24: one constructor per row of `spec/opcode_table.json`, with the operands
its rules give. A parameter of a request stands at the width that R184 gives its kind, so that every value a
frame can carry, in its range or out of it, is a value of the operand. -/

namespace Sys2Proof

/-- The three command ports (00, 1.3). -/
inductive Port where
  | console | desk1 | desk2
deriving DecidableEq, Repr

/-- Channel `c` of the manual is `c - 1` here: channels 1..24. -/
abbrev Chan := Fin 24
/-- Language slots 0..31. -/
abbrev Slot := Fin 32
/-- Booth `b` of the manual is `b - 1` here: booths 1..32. -/
abbrev Booth := Fin 32
/-- Seat `k` of the manual is `k - 1` here: seats 1..3. -/
abbrev Seat := Fin 3
/-- Tariff classes 0..7. -/
abbrev TClass := Fin 8

/-- The two outputs of a booth (R35). -/
inductive Side where
  | a | b
deriving DecidableEq, Repr

/-- The 35 request codes of the table of section 12.2. -/
inductive ReqCode where
  | status | readTable | subscribe | noticeFetch | noticeWait | deviceReset | clockSet
  | langDefine | langRemove | chanAssign | override | routeRefresh
  | boothSet | boothClear | boothCut | relaySet
  | receiverEnrol | receiverWithdraw | receiverReinstate | receiverClearFlags | hallSet
  | hireOpen | issue | returnReceiver | lost | depositAdjust | hireDue
  | tariffSet | quote | close | snapshot | snapshotRead | sessionOpen | sessionClose | accountsClear
deriving DecidableEq, Repr

/-- A source parameter as a frame carries it: a kind byte and a number byte (R184). -/
structure SourceBytes where
  kind : Byte
  number : Byte
deriving DecidableEq, Repr

/-- The settings that CHAN_ASSIGN carries after its target (R17). -/
structure AssignArgs where
  slot : Byte
  policy : Byte
  fallback : SourceBytes
  gapHold : Byte
  offerTime : Byte
deriving DecidableEq, Repr

/-- The settings that BOOTH_SET carries after its booth (R36). -/
structure BoothArgs where
  seats : Byte
  outputA : Byte
  outputB : Option Byte
  mode : Byte
  offerTime : Byte
  autoFloor : Byte
deriving DecidableEq, Repr

/-- The tariff terms that TARIFF_SET carries after its class (R143). -/
structure TariffArgs where
  defined : Bool
  quantum : Half
  grace : Half
  rate : Half
  dayCap : Word
  lossFee : Word
deriving DecidableEq, Repr

/-- The parameters of CLOSE (R160). -/
structure CloseArgs where
  ticket : Half
  changeCount : Word
  generation : Half
  condition : Byte
  first : Byte
deriving DecidableEq, Repr

/-- A report as it arrives on the collector line, after its start byte (R106, R186). -/
structure ReportBytes where
  hall : Half
  receiver : Half
  serial : Word
  tag : Half
  battery : Byte
  crc : Half
deriving DecidableEq, Repr

/-- One constructor per row of the opcode table. `p` is the port, `tag` the tag of the request's frame. -/
inductive Instr where
  -- supply, reset and time
  | powerOn
  | mainSupplyFail
  | backupDomainPowerLoss
  | resetLineAssert
  | resetLineRelease
  | secondEvent
  -- expiries and line ends
  | gapHoldExpiry (c : Chan)
  | offerExpiry (c : Chan)
  | directoryRepeat
  | directorySendEnd
  | routeOrderSent
  | noticeWaitTimeout (p : Port)
  | dueAlarm
  -- the booth line
  | pollStart
  | pollSent
  | boothReply (bytes : List Byte)
  | replyWindowExpiry
  | seatOn (b : Booth) (seat : Byte)
  | seatOff (b : Booth) (seat : Byte)
  | coughDown (b : Booth) (seat : Byte)
  | coughUp (b : Booth) (seat : Byte)
  | give (b : Booth) (seat : Byte)
  | outputSelect (b : Booth) (y : Side)
  | relaySelect (b : Booth) (channel : Byte)
  -- the collector line
  | collectorReport (r : ReportBytes)
  | reportTaken
  -- the ports
  | portBreak (p : Port)
  | breakEnd (p : Port)
  | badCrcFrame (p : Port) (content : List Byte)
  | unknownRequest (p : Port) (content : List Byte)
  | status (p : Port) (tag : Byte)
  | readTable (p : Port) (tag : Byte) (table : Byte) (start : Half) (count : Byte) (ticket : Half)
  | subscribe (p : Port) (tag : Byte) (kinds : Half)
  | noticeFetch (p : Port) (tag : Byte)
  | noticeWait (p : Port) (tag : Byte) (timeout : Byte)
  | deviceReset (p : Port) (tag : Byte)
  | clockSet (p : Port) (tag : Byte) (value : Word)
  | langDefine (p : Port) (tag : Byte) (slot : Byte) (langTag : Half) (label : List Byte)
  | langRemove (p : Port) (tag : Byte) (slot : Byte)
  | chanAssign (p : Port) (tag : Byte) (target : Byte) (args : AssignArgs)
  | override (p : Port) (tag : Byte) (on : Bool)
  | routeRefresh (p : Port) (tag : Byte)
  | boothSet (p : Port) (tag : Byte) (booth : Byte) (args : BoothArgs)
  | boothClear (p : Port) (tag : Byte) (booth : Byte)
  | boothCut (p : Port) (tag : Byte) (booth : Byte)
  | relaySet (p : Port) (tag : Byte) (booth : Byte) (source : SourceBytes)
  | receiverEnrol (p : Port) (tag : Byte) (number : Half) (serial : Word)
  | receiverWithdraw (p : Port) (tag : Byte) (number : Half)
  | receiverReinstate (p : Port) (tag : Byte) (number : Half)
  | receiverClearFlags (p : Port) (tag : Byte) (number : Half)
  | hallSet (p : Port) (tag : Byte) (code : Half)
  | hireOpen (p : Port) (tag : Byte) (tariffClass : Byte) (deposit : Word) (due : Option Word)
  | issue (p : Port) (tag : Byte) (ticket : Half) (number : Half)
  | returnReceiver (p : Port) (tag : Byte) (number : Half)
  | lost (p : Port) (tag : Byte) (number : Half)
  | depositAdjust (p : Port) (tag : Byte) (ticket : Half) (minus : Bool) (magnitude : Word)
  | hireDue (p : Port) (tag : Byte) (ticket : Half) (due : Option Word)
  | tariffSet (p : Port) (tag : Byte) (tariffClass : Byte) (args : TariffArgs)
  | quote (p : Port) (tag : Byte) (ticket : Half) (first : Byte)
  | close (p : Port) (tag : Byte) (args : CloseArgs)
  | snapshot (p : Port) (tag : Byte)
  | sessionClose (p : Port) (tag : Byte)
  | jobStart
  | quoteCompletion
  | closeCompletion
  | snapshotRead (p : Port) (tag : Byte) (part : Byte) (start : Byte) (count : Byte)
  | sessionOpen (p : Port) (tag : Byte)
  | accountsClear (p : Port) (tag : Byte)
  | responseFrameSent (p : Port)
deriving DecidableEq, Repr

end Sys2Proof
end

