-- ==== Sys2Proof/Config.lean ====
section
/-! DEFINITION. The capacities and limits of the part (00, 1.7 and 1.8), and the two values the spec leaves open. -/

namespace Sys2Proof.Config

/-- The last value of the hall clock (R2), of U, V and on-air seconds (R29, R53), of a hire's change count before
it wraps (R119), and of the session counters opened and closed (R166). -/
def countMax : Nat := 4294967295
/-- The amount limit (00, 1.5). -/
def amountLimit : Nat := 4294967295
/-- The total limit (00, 1.5). -/
def totalLimit : Nat := 281474976710655
/-- The last value of turns and of a receiver's hire count (R54, R101). -/
def smallMax : Nat := 65535
def gapHoldMax : Nat := 60
def offerTimeMin : Nat := 5
def offerTimeMax : Nat := 120
def relayHopLimit : Nat := 3
def receiverCount : Nat := 4096
def hireMax : Nat := 512
def lineMax : Nat := 16
def intakeMax : Nat := 64
def urgentMax : Nat := 8
def routineMax : Nat := 32
def missMax : Nat := 3
def eventMax : Nat := 4
def directoryRepeat : Nat := 2
def lowBattery : Nat := 2
def daySeconds : Nat := 86400
def payloadMax : Nat := 240
def replyMax : Nat := 514

/-- The settlement of a hire (R152). -/
inductive Settlement where
  | owed | even | refund
deriving DecidableEq, Repr

/-- The byte that stands for a settlement in a HIRE_CLOSED notice (R162). No table of chapter 12 numbers the
settlements: a free value (log 12, DESIGN CHOICE, safe: no statement can rest on a value of it). -/
opaque settlementByte : Settlement → Byte

/-- Whether the turn end that began the hold of a channel since the last second event came together with the second event
of this draw (R25, R29). The commands do not say so: a free value (log 15, DESIGN CHOICE, safe: no statement can rest on a
value of it). -/
opaque turnEndMeets (draw : Nat) (c : Chan) : Bool

end Sys2Proof.Config
end

