-- ==== Sys2Proof/WellFormed.lean ====
section
/-! DEFINITION. Which terms of `Instr` some event of the hall lines or ports can be. The widths of the operands
already hold every other parameter to what its frame can carry. -/

namespace Sys2Proof

/-- A content is delimited by a length byte (R171); a request frame has L of 2..32 and LANG_DEFINE spends 6 of
them before its label (R172, R184); a reply has a first byte and ends with its 514th (R91, R186). -/
def WellFormed : Instr → Bool
  | .badCrcFrame _ content => content.length ≤ 255
  | .unknownRequest _ content => content.length ≤ 255
  | .langDefine _ _ _ _ label => label.length ≤ 26
  | .boothReply bytes => 1 ≤ bytes.length && bytes.length ≤ Config.replyMax
  | _ => true

end Sys2Proof
end

