-- ==== Sys2Proof/Decode.lean ====
section
/-! DEFINITION. From bits and bytes to commands. The opcode table gives no row any bits, so no word spells a
command; what the part does decode is bytes: frames on the ports (R171, R172, R184, R185) and reports on the
collector line (R186). The encoder of request frames stands beside the decoder. -/

namespace Sys2Proof

/-- No row of `spec/opcode_table.json` gives bits ("fields" is empty in each, and none has "fixed"), so no word
spells a command (log 19). -/
def decodeTableWord (_nbits _w : Nat) : Option Instr := none

/-! ## Numbers and the CRC -/

/-- A number in `k` bytes, most significant byte first (R184). -/
def numBytes : Nat → Nat → List Byte
  | 0, _ => []
  | k + 1, n => BitVec.ofNat 8 (n / 256 ^ k) :: numBytes k n

def half (a b : Byte) : Half := BitVec.ofNat 16 (a.toNat * 256 + b.toNat)

def word (a b c d : Byte) : Word :=
  BitVec.ofNat 32 (((a.toNat * 256 + b.toNat) * 256 + c.toNat) * 256 + d.toNat)

/-- One bit of the CRC-16, polynomial x^16+x^12+x^5+1, unreflected (section 12.2). -/
def crcBit (c : Half) : Half := if c.msb then (c <<< 1) ^^^ 0x1021#16 else c <<< 1

def crcByte (c : Half) (b : Byte) : Half :=
  let c := c ^^^ (b.setWidth 16 <<< 8)
  crcBit (crcBit (crcBit (crcBit (crcBit (crcBit (crcBit (crcBit c)))))))

/-- The CRC-16 of the ports and the hall lines: initial value 0xFFFF, no final inversion (section 12.2, R186). -/
def crc16 (bytes : List Byte) : Half := bytes.foldl crcByte 0xFFFF#16

/-! ## Request codes (section 12.2) -/

def ReqCode.byte : ReqCode → Byte
  | .status => 0x01 | .readTable => 0x02 | .subscribe => 0x03 | .noticeFetch => 0x04 | .noticeWait => 0x05
  | .deviceReset => 0x06 | .clockSet => 0x07
  | .langDefine => 0x10 | .langRemove => 0x11 | .chanAssign => 0x12 | .override => 0x13 | .routeRefresh => 0x14
  | .boothSet => 0x20 | .boothClear => 0x21 | .boothCut => 0x22 | .relaySet => 0x23
  | .receiverEnrol => 0x30 | .receiverWithdraw => 0x31 | .receiverReinstate => 0x32
  | .receiverClearFlags => 0x33 | .hallSet => 0x34
  | .hireOpen => 0x40 | .issue => 0x41 | .returnReceiver => 0x42 | .lost => 0x43 | .depositAdjust => 0x44
  | .hireDue => 0x45
  | .tariffSet => 0x50 | .quote => 0x51 | .close => 0x52 | .snapshot => 0x53 | .snapshotRead => 0x54
  | .sessionOpen => 0x55 | .sessionClose => 0x56 | .accountsClear => 0x57

def ReqCode.all : List ReqCode :=
  [.status, .readTable, .subscribe, .noticeFetch, .noticeWait, .deviceReset, .clockSet,
   .langDefine, .langRemove, .chanAssign, .override, .routeRefresh,
   .boothSet, .boothClear, .boothCut, .relaySet,
   .receiverEnrol, .receiverWithdraw, .receiverReinstate, .receiverClearFlags, .hallSet,
   .hireOpen, .issue, .returnReceiver, .lost, .depositAdjust, .hireDue,
   .tariffSet, .quote, .close, .snapshot, .snapshotRead, .sessionOpen, .sessionClose, .accountsClear]

def ReqCode.ofByte (b : Byte) : Option ReqCode := ReqCode.all.find? (fun c => c.byte == b)

/-- The console requests (R173). -/
def ReqCode.console : ReqCode → Bool
  | .langDefine | .langRemove | .chanAssign | .override | .routeRefresh
  | .boothSet | .boothClear | .boothCut | .relaySet
  | .tariffSet | .clockSet | .sessionOpen | .sessionClose
  | .receiverEnrol | .receiverWithdraw | .receiverReinstate | .receiverClearFlags | .hallSet
  | .accountsClear | .deviceReset => true
  | _ => false

/-! ## Parameters (R184, R185) -/

/-- A yes/no byte of a request; any other value is malformed. -/
def yesNo (b : Byte) : Option Bool := if b = 0 then some false else if b = 1 then some true else none

/-- An optional field: its presence byte and the value its value bytes make. The value bytes of an absent field
are not looked at (log 22). -/
def optional {α : Type} (presence : Byte) (v : α) : Option (Option α) :=
  (yesNo presence).map (fun yes => if yes then some v else none)

/-- The sign byte of a signed delta: is it minus? -/
def minusSign (b : Byte) : Option Bool := if b = 0x2B then some false else if b = 0x2D then some true else none

/-- Test 5 of R172: the request that a frame's parameters spell, where they have the number of bytes and the form
that the request's layout gives. -/
def parseParams (p : Port) (tag : Byte) : ReqCode → List Byte → Option Instr
  | .status, [] => some (.status p tag)
  | .readTable, [table, s1, s0, count, t1, t0] => some (.readTable p tag table (half s1 s0) count (half t1 t0))
  | .subscribe, [k1, k0] => some (.subscribe p tag (half k1 k0))
  | .noticeFetch, [] => some (.noticeFetch p tag)
  | .noticeWait, [t] => some (.noticeWait p tag t)
  | .deviceReset, [] => some (.deviceReset p tag)
  | .clockSet, [a, b, c, d] => some (.clockSet p tag (word a b c d))
  | .langDefine, slot :: t1 :: t0 :: n :: label =>
    if label.length = n.toNat then some (.langDefine p tag slot (half t1 t0) label) else none
  | .langRemove, [slot] => some (.langRemove p tag slot)
  | .chanAssign, [target, slot, policy, fk, fn, gap, offer] =>
    some (.chanAssign p tag target ⟨slot, policy, ⟨fk, fn⟩, gap, offer⟩)
  | .override, [on] => (yesNo on).map (fun v => .override p tag v)
  | .routeRefresh, [] => some (.routeRefresh p tag)
  | .boothSet, [booth, seats, a, bp, bv, mode, offer, af] =>
    (optional bp bv).map (fun ob => .boothSet p tag booth ⟨seats, a, ob, mode, offer, af⟩)
  | .boothClear, [booth] => some (.boothClear p tag booth)
  | .boothCut, [booth] => some (.boothCut p tag booth)
  | .relaySet, [booth, k, n] => some (.relaySet p tag booth ⟨k, n⟩)
  | .receiverEnrol, [n1, n0, a, b, c, d] => some (.receiverEnrol p tag (half n1 n0) (word a b c d))
  | .receiverWithdraw, [n1, n0] => some (.receiverWithdraw p tag (half n1 n0))
  | .receiverReinstate, [n1, n0] => some (.receiverReinstate p tag (half n1 n0))
  | .receiverClearFlags, [n1, n0] => some (.receiverClearFlags p tag (half n1 n0))
  | .hallSet, [c1, c0] => some (.hallSet p tag (half c1 c0))
  | .hireOpen, [cl, d3, d2, d1, d0, pr, t3, t2, t1, t0] =>
    (optional pr (word t3 t2 t1 t0)).map (fun due => .hireOpen p tag cl (word d3 d2 d1 d0) due)
  | .issue, [t1, t0, n1, n0] => some (.issue p tag (half t1 t0) (half n1 n0))
  | .returnReceiver, [n1, n0] => some (.returnReceiver p tag (half n1 n0))
  | .lost, [n1, n0] => some (.lost p tag (half n1 n0))
  | .depositAdjust, [t1, t0, sg, m3, m2, m1, m0] =>
    (minusSign sg).map (fun minus => .depositAdjust p tag (half t1 t0) minus (word m3 m2 m1 m0))
  | .hireDue, [t1, t0, pr, d3, d2, d1, d0] =>
    (optional pr (word d3 d2 d1 d0)).map (fun due => .hireDue p tag (half t1 t0) due)
  | .tariffSet, [cl, df, p1, p0, g1, g0, r1, r0, m3, m2, m1, m0, f3, f2, f1, f0] =>
    (yesNo df).map (fun v =>
      .tariffSet p tag cl ⟨v, half p1 p0, half g1 g0, half r1 r0, word m3 m2 m1 m0, word f3 f2 f1 f0⟩)
  | .quote, [t1, t0, first] => some (.quote p tag (half t1 t0) first)
  | .close, [t1, t0, c3, c2, c1, c0, g1, g0, cond, first] =>
    some (.close p tag ⟨half t1 t0, word c3 c2 c1 c0, half g1 g0, cond, first⟩)
  | .snapshot, [] => some (.snapshot p tag)
  | .snapshotRead, [part, start, count] => some (.snapshotRead p tag part start count)
  | .sessionOpen, [] => some (.sessionOpen p tag)
  | .sessionClose, [] => some (.sessionClose p tag)
  | .accountsClear, [] => some (.accountsClear p tag)
  | _, _ => none

/-- The request that a frame's content (its bytes from the tag through the last parameter) spells, where it passes
tests 1, 2 and 5 of R172. -/
def parseContent (p : Port) : List Byte → Option Instr
  | tag :: code :: params =>
    if params.length ≤ 30 then (ReqCode.ofByte code).bind (fun c => parseParams p tag c params) else none
  | _ => none

/-! ## The encoder -/

def halfBytes (h : Half) : List Byte := numBytes 2 h.toNat
def wordBytes (w : Word) : List Byte := numBytes 4 w.toNat
def yesNoByte (v : Bool) : Byte := if v then 1 else 0
def optionalByte : Option Byte → List Byte
  | none => [0, 0]
  | some v => [1, v]
def optionalWord : Option Word → List Byte
  | none => 0 :: numBytes 4 0
  | some v => 1 :: wordBytes v

/-- A request's port, tag, code and parameter bytes; `none` for a command that is no request. -/
def Instr.request : Instr → Option (Port × Byte × ReqCode × List Byte)
  | .status p tag => some (p, tag, .status, [])
  | .readTable p tag table start count ticket =>
    some (p, tag, .readTable, [table] ++ halfBytes start ++ [count] ++ halfBytes ticket)
  | .subscribe p tag kinds => some (p, tag, .subscribe, halfBytes kinds)
  | .noticeFetch p tag => some (p, tag, .noticeFetch, [])
  | .noticeWait p tag t => some (p, tag, .noticeWait, [t])
  | .deviceReset p tag => some (p, tag, .deviceReset, [])
  | .clockSet p tag v => some (p, tag, .clockSet, wordBytes v)
  | .langDefine p tag slot lt label =>
    some (p, tag, .langDefine, [slot] ++ halfBytes lt ++ [BitVec.ofNat 8 label.length] ++ label)
  | .langRemove p tag slot => some (p, tag, .langRemove, [slot])
  | .chanAssign p tag target a =>
    some (p, tag, .chanAssign,
      [target, a.slot, a.policy, a.fallback.kind, a.fallback.number, a.gapHold, a.offerTime])
  | .override p tag on => some (p, tag, .override, [yesNoByte on])
  | .routeRefresh p tag => some (p, tag, .routeRefresh, [])
  | .boothSet p tag booth a =>
    some (p, tag, .boothSet,
      [booth, a.seats, a.outputA] ++ optionalByte a.outputB ++ [a.mode, a.offerTime, a.autoFloor])
  | .boothClear p tag booth => some (p, tag, .boothClear, [booth])
  | .boothCut p tag booth => some (p, tag, .boothCut, [booth])
  | .relaySet p tag booth s => some (p, tag, .relaySet, [booth, s.kind, s.number])
  | .receiverEnrol p tag n serial => some (p, tag, .receiverEnrol, halfBytes n ++ wordBytes serial)
  | .receiverWithdraw p tag n => some (p, tag, .receiverWithdraw, halfBytes n)
  | .receiverReinstate p tag n => some (p, tag, .receiverReinstate, halfBytes n)
  | .receiverClearFlags p tag n => some (p, tag, .receiverClearFlags, halfBytes n)
  | .hallSet p tag code => some (p, tag, .hallSet, halfBytes code)
  | .hireOpen p tag cl deposit due => some (p, tag, .hireOpen, [cl] ++ wordBytes deposit ++ optionalWord due)
  | .issue p tag ticket n => some (p, tag, .issue, halfBytes ticket ++ halfBytes n)
  | .returnReceiver p tag n => some (p, tag, .returnReceiver, halfBytes n)
  | .lost p tag n => some (p, tag, .lost, halfBytes n)
  | .depositAdjust p tag ticket minus m =>
    some (p, tag, .depositAdjust, halfBytes ticket ++ [if minus then 0x2D else 0x2B] ++ wordBytes m)
  | .hireDue p tag ticket due => some (p, tag, .hireDue, halfBytes ticket ++ optionalWord due)
  | .tariffSet p tag cl a =>
    some (p, tag, .tariffSet,
      [cl, yesNoByte a.defined] ++ halfBytes a.quantum ++ halfBytes a.grace ++ halfBytes a.rate ++
        wordBytes a.dayCap ++ wordBytes a.lossFee)
  | .quote p tag ticket first => some (p, tag, .quote, halfBytes ticket ++ [first])
  | .close p tag a =>
    some (p, tag, .close,
      halfBytes a.ticket ++ wordBytes a.changeCount ++ halfBytes a.generation ++ [a.condition, a.first])
  | .snapshot p tag => some (p, tag, .snapshot, [])
  | .snapshotRead p tag part start count => some (p, tag, .snapshotRead, [part, start, count])
  | .sessionOpen p tag => some (p, tag, .sessionOpen, [])
  | .sessionClose p tag => some (p, tag, .sessionClose, [])
  | .accountsClear p tag => some (p, tag, .accountsClear, [])
  | _ => none

/-- The content of a request's frame: tag, code, parameters (section 12.2). -/
def Instr.content (i : Instr) : List Byte :=
  match i.request with
  | some (_, tag, code, params) => tag :: code.byte :: params
  | none => []

/-- A whole frame on a port, in either direction: sync, length, content, CRC (section 12.2). -/
def frameBytes (content : List Byte) : List Byte :=
  let covered := BitVec.ofNat 8 content.length :: content
  0xA5 :: covered ++ numBytes 2 (crc16 covered).toNat

/-! ## Receive framing (R171, R186) -/

/-- The command that one complete frame makes on its port: a bad CRC, a request, or a frame that is none. -/
def frameCommand (p : Port) (content : List Byte) (crc : Half) : Instr :=
  if crc16 (BitVec.ofNat 8 content.length :: content) = crc then
    match parseContent p content with
    | some i => i
    | none => .unknownRequest p content
  else .badCrcFrame p content

/-- The receive framing of a line: between frames, or within one with the bytes received so far, the newest last. -/
inductive Framing where
  | between
  | within (bytes : List Byte)
deriving DecidableEq, Repr

/-- One byte on a port's receive line (R171): a byte between frames that is not the sync value is discarded, the
byte after a sync is the length L, and L + 2 bytes more complete the frame. -/
def portByte (p : Port) : Framing → Byte → Framing × Option Instr
  | .between, b => if b = 0xA5 then (.within [], none) else (.between, none)
  | .within [], b => (.within [b], none)
  | .within (l :: rest), b =>
    let got := rest ++ [b]
    if got.length = l.toNat + 2 then
      let crc := half (got.getD l.toNat 0) (got.getD (l.toNat + 1) 0)
      (.between, some (frameCommand p (got.take l.toNat) crc))
    else (.within (l :: got), none)

/-- The commands that bytes on a port's receive line make, oldest first, and the framing they leave. -/
def portLine (p : Port) : Framing → List Byte → Framing × List Instr
  | f, [] => (f, [])
  | f, b :: bs =>
    let (f', i) := portByte p f b
    let (f'', is) := portLine p f' bs
    (f'', i.toList ++ is)

/-- The 13 bytes after the start byte of a collector report (R186). -/
def parseReport : List Byte → Option ReportBytes
  | [h1, h0, n1, n0, s3, s2, s1, s0, t1, t0, battery, c1, c0] =>
    some ⟨half h1 h0, half n1 n0, word s3 s2 s1 s0, half t1 t0, battery, half c1 c0⟩
  | _ => none

/-- The bytes of a report that its CRC covers: every byte after the start byte and before the CRC (R186). -/
def ReportBytes.covered (r : ReportBytes) : List Byte :=
  halfBytes r.hall ++ halfBytes r.receiver ++ wordBytes r.serial ++ halfBytes r.tag ++ [r.battery]

/-- One byte on the collector line: 0xC3 begins a report, whose next 13 bytes are taken whatever their values. -/
def collectorByte : Framing → Byte → Framing × Option Instr
  | .between, b => if b = 0xC3 then (.within [], none) else (.between, none)
  | .within got, b =>
    if got.length = 12 then (.between, (parseReport (got ++ [b])).map .collectorReport)
    else (.within (got ++ [b]), none)

end Sys2Proof
end

