-- ==== Sys2Proof/Machine/State.lean ====
section
/-! DEFINITION. The state of the DF24: the retained store and the time base (the backup domain), the general
domain, the levels of the inputs, and the queue of waiting commands. Every field is plain data. A count is a
`Nat`; the operations hold, clamp or wrap it as its rule says, and `Safety.lean` gives the ranges. -/

namespace Sys2Proof.Machine
open Sys2Proof

/-! ## The plan unit's types (chapter 2) -/

structure LangName where
  tag : Nat
  label : List Byte
deriving DecidableEq, Repr

/-- R13. The slot is defined exactly when it has a name; `channel` is present exactly when it is assigned. -/
structure LangSlot where
  name : Option LangName
  channel : Option Chan
  u : Nat
  v : Nat
  uMark : Nat
  vMark : Nat
deriving DecidableEq, Repr

inductive ClaimPolicy where
  | first | last | offer
deriving DecidableEq, Repr

/-- What a channel carries while UNCOVERED (R16). -/
inductive Fallback where
  | floor
  | silent
  | channel (x : Chan)
deriving DecidableEq, Repr

/-- The settings of a channel (R16). -/
structure ChanSettings where
  slot : Option Slot
  policy : ClaimPolicy
  fallback : Fallback
  gapHold : Nat
  offerTime : Nat
deriving DecidableEq, Repr

inductive Coverage where
  | unassigned | covered | holding | uncovered
deriving DecidableEq, Repr

/-- A channel's route source (R33). -/
inductive Source where
  | floor
  | silent
  | channel (x : Chan)
  | booth (b : Booth)
deriving DecidableEq, Repr

structure Holder where
  booth : Booth
  seat : Seat
deriving DecidableEq, Repr

/-- The live state of a channel (R16, section 2.3). `remaining` is 0 while the channel is not HOLDING (log 37). `fresh` is the
model's own: a turn end has begun the hold since the last second event (R25, log 15). -/
structure ChanLive where
  coverage : Coverage
  holder : Option Holder
  source : Source
  remaining : Nat
  fresh : Bool
deriving DecidableEq, Repr

/-- One entry of the directory (R31): tag 0 and an empty label where the channel is UNASSIGNED. -/
structure DirEntry where
  coverage : Coverage
  tag : Nat
  label : List Byte
deriving DecidableEq, Repr

/-- The content of the directory without its sequence (R31). -/
structure DirContent where
  entries : Bank DirEntry 24
  override : Bool
deriving DecidableEq, Repr

/-- A directory as it is sent (R32). -/
structure Directory where
  content : DirContent
  sequence : Nat
deriving DecidableEq, Repr

/-! ## The booth unit's types (chapters 3 to 5) -/

inductive HandoverMode where
  | direct | courtesy | timed
deriving DecidableEq, Repr

/-- The settings of a configured booth (R35). -/
structure BoothSettings where
  seats : Nat
  outputA : Chan
  outputB : Option Chan
  mode : HandoverMode
  offerTime : Nat
  autoFloor : Bool
deriving DecidableEq, Repr

/-- R53, R54. -/
structure SeatAcc where
  onAir : Nat
  turns : Nat
deriving DecidableEq, Repr

inductive SeatState where
  | off | live | cough | waiting
deriving DecidableEq, Repr

/-- R56. -/
inductive Indication where
  | engaged | cut | lapsed | withdrawn | noChannel | relayRefused | busy
deriving DecidableEq, Repr

/-- A listening source (R74). -/
inductive Listen where
  | floor
  | channel (r : Chan)
deriving DecidableEq, Repr

/-- R88. -/
inductive Presence where
  | unconfigured | pending | present | absent
deriving DecidableEq, Repr

/-- The live state of a booth: seats (R39), output selection (R35), mute state (R48), transient indication (R56),
listening sources and auto-floor hold (R74), presence record (R88). -/
structure BoothLive where
  seats : Bank SeatState 3
  selection : Side
  muted : Bool
  indication : Option Indication
  chosen : Listen
  effective : Listen
  autoHold : Bool
  presence : Presence
  misses : Nat
  lastGood : Option Nat
deriving DecidableEq, Repr

inductive OfferKind where
  | inBooth | across
deriving DecidableEq, Repr

/-- R58. -/
structure Offer where
  kind : OfferKind
  waitBooth : Booth
  waitSeat : Seat
  holdBooth : Booth
  holdSeat : Seat
  remaining : Nat
deriving DecidableEq, Repr

/-- The orders of the route line (R33, R48, R75). -/
inductive RouteOrder where
  | route (c : Chan) (source : Source)
  | listen (b : Booth) (source : Listen)
  | mute (b : Booth) (muted : Bool)
deriving DecidableEq, Repr

/-! ## The booth line's types (chapter 6) -/

/-- What a poll tells its booth (R55, R87). -/
structure Tally where
  booth : Booth
  seats : List SeatState
  offerPending : Bool
  selection : Side
  channel : Chan
  chosen : Listen
  effective : Listen
  relayCoverage : Option Coverage
  autoFloor : Bool
  autoHold : Bool
  indication : Option Indication
deriving DecidableEq, Repr

/-- An event of a good reply (R92): a seat's parameter is a byte, which may name no seat of the booth. -/
inductive ReplyEvent where
  | seatOn (seat : Byte)
  | seatOff (seat : Byte)
  | coughDown (seat : Byte)
  | coughUp (seat : Byte)
  | give (seat : Byte)
  | outputSelect (y : Side)
  | relaySelect (channel : Byte)
deriving DecidableEq, Repr

inductive MissCause where
  | badCheck | wrongBooth | tooMany | noReply
deriving DecidableEq, Repr

/-- The poll cycle in progress (R90, R98): its poll being sent, its window open, or its reply's events being handed
on. A voided cycle that has reached its handing is closed at once (R98). -/
inductive PollCycle where
  | idle
  | sending (b : Booth) (tally : Tally) (voided : Bool)
  | window (b : Booth) (voided : Bool)
  | handing (b : Booth) (events : List ReplyEvent)
deriving DecidableEq, Repr

/-! ## The receiver register's types (chapter 7) -/

inductive ReceiverState where
  | unenrolled | stock | hired | lost | withdrawn
deriving DecidableEq, Repr

structure HireLink where
  ticket : Nat
  line : Nat
deriving DecidableEq, Repr

/-- A language other than NONE and the mark that is present with it (R101). -/
structure Tuning where
  slot : Slot
  mark : Nat
deriving DecidableEq, Repr

/-- R101. `tuned` holds the fields language and mark: absent stands for language NONE and no mark. -/
structure Receiver where
  serial : Option Word
  state : ReceiverState
  link : Option HireLink
  tuned : Option Tuning
  lastHeard : Option Nat
  battery : Option Nat
  astray : Bool
  sighted : Bool
  hireCount : Nat
deriving DecidableEq, Repr

/-- An entry of the intake buffer (R107). -/
structure Report where
  receiver : Nat
  serial : Word
  tag : Nat
  battery : Nat
  arrival : Nat
deriving DecidableEq, Repr

/-! ## The hire table's types (chapter 8) -/

inductive LineState where
  | out | back | lost
deriving DecidableEq, Repr

/-- R120. -/
structure Line where
  receiver : Nat
  issue : Nat
  ended : Option Nat
  state : LineState
  credit : Nat
deriving DecidableEq, Repr

/-- R119; the ticket is the hire's number in the table. -/
structure Hire where
  tariffClass : TClass
  deposit : Nat
  openedBy : Port
  openTime : Nat
  due : Option Nat
  overdue : Bool
  changeCount : Nat
  lines : List Line
deriving DecidableEq, Repr

/-! ## The accounting unit's types (chapters 9 and 10) -/

/-- P, G, R, M and F of R142. -/
structure Terms where
  quantum : Nat
  grace : Nat
  rate : Nat
  dayCap : Nat
  lossFee : Nat
deriving DecidableEq, Repr

/-- R142: the class is defined exactly when it has terms. -/
structure Tariff where
  terms : Option Terms
  generation : Nat
deriving DecidableEq, Repr

structure PortTotals where
  closes : Nat
  collected : Nat
  refunded : Nat
deriving DecidableEq, Repr

/-- One thing for each port. -/
structure PerPort (α : Type) where
  console : α
  desk1 : α
  desk2 : α
deriving DecidableEq, Repr

def PerPort.get {α : Type} (x : PerPort α) : Port → α
  | .console => x.console
  | .desk1 => x.desk1
  | .desk2 => x.desk2

def PerPort.set {α : Type} (x : PerPort α) (p : Port) (v : α) : PerPort α :=
  match p with
  | .console => { x with console := v }
  | .desk1 => { x with desk1 := v }
  | .desk2 => { x with desk2 := v }

/-- R164. -/
structure Accounts where
  hiresClosed : Nat
  timeCharges : Nat
  lossFees : Nat
  depositsApplied : Nat
  collected : Nat
  refunded : Nat
  ports : PerPort PortTotals
deriving DecidableEq, Repr

inductive SessionState where
  | none | opened | closed
deriving DecidableEq, Repr

/-- R165. -/
structure Session where
  state : SessionState
  number : Nat
  openTime : Option Nat
  closeTime : Option Nat
deriving DecidableEq, Repr

/-- R166. -/
structure SessionCounters where
  opened : Nat
  closed : Nat
  collected : Nat
  refunded : Nat
deriving DecidableEq, Repr

/-- A line of a work copy (R158): for an OUT line the end is the clock at the copy and the credit the credit to
date (R141). -/
structure CopyLine where
  receiver : Nat
  state : LineState
  issue : Nat
  ended : Nat
  credit : Nat
deriving DecidableEq, Repr

/-- The work copy of a hire (R158). -/
structure WorkCopy where
  ticket : Nat
  deposit : Nat
  changeCount : Nat
  tariffClass : TClass
  terms : Terms
  generation : Nat
  time : Nat
  lines : List CopyLine
deriving DecidableEq, Repr

/-- A job's request with its parameters (R155). -/
inductive JobRequest where
  | quote (ticket : Half) (first : Byte)
  | close (args : CloseArgs)
  | snapshot
  | sessionClose
deriving DecidableEq, Repr

structure Job where
  port : Port
  request : JobRequest
deriving DecidableEq, Repr

/-- The job in flight: a QUOTE or a CLOSE that has passed its start, with its work copy (R156). -/
structure Flight where
  port : Port
  request : JobRequest
  copy : WorkCopy
deriving DecidableEq, Repr

structure StatementLang where
  slot : Slot
  tag : Nat
  label : List Byte
  channel : Chan
  covered : Nat
  uncovered : Nat
  peak : Nat
  listeners : Nat
deriving DecidableEq, Repr

structure StatementSeat where
  booth : Booth
  seat : Seat
  acc : SeatAcc
deriving DecidableEq, Repr

/-- A statement copy (R168). -/
structure Statement where
  number : Nat
  state : SessionState
  openTime : Nat
  time : Nat
  counters : SessionCounters
  languages : List StatementLang
  seats : List StatementSeat
deriving DecidableEq, Repr

/-! ## The port controllers' types (chapter 11) -/

/-- The outcome codes (R173), in the order of their table. -/
inductive Answer where
  | done | empty | busy | denied | unknown | malformed | badArg | notFound | wrongState | full | inUse | stale
  | conditionFalse | loop | cancelled
deriving DecidableEq, Repr

inductive RestartKind where
  | power | line | command | port
deriving DecidableEq, Repr

/-- R12. -/
structure StartRecord where
  kind : RestartKind
  cleared : Bool
deriving DecidableEq, Repr

inductive Manner where
  | direct | give | turnEnd | expiry
deriving DecidableEq, Repr

/-- The kinds of notice with their subject fields (R12, R21, R24, R72, R73, R85, R97, R113, R135, R143, R162). -/
inductive NoticeBody where
  | restarted (kind : RestartKind) (cleared : Bool)
  | boothAbsent (b : Booth) (previous : Presence) (cause : MissCause) (lastGood : Option Nat) (seat : Option Seat)
      (channel : Option Chan)
  | channelUncovered (c : Chan) (tag : Nat) (fallback : Fallback)
  | hireOverdue (ticket : Nat) (due : Nat) (out : Nat) (openedBy : Port)
  | receiverSighted (receiver : Nat) (ticket : Option Nat) (heardAt : Nat)
  | receiverAstray (receiver : Nat) (serial : Word) (heardAt : Nat) (hireCount : Nat)
  | boothPresent (b : Booth) (previous : Presence)
  | channelCovered (c : Chan) (tag : Nat) (b : Booth) (seat : Seat)
  | handover (c : Chan) (tag : Nat) (manner : Manner) (kind : Option OfferKind) (fromBooth : Booth) (fromSeat : Seat)
      (toBooth : Booth) (toSeat : Seat)
  | handoverLapsed (c : Chan) (tag : Nat) (kind : OfferKind) (waitBooth : Booth) (waitSeat : Seat) (holdBooth : Booth)
      (holdSeat : Seat)
  | relayFallback (b : Booth) (c : Chan) (tag : Nat) (fallback : Fallback)
  | hireClosed (ticket : Nat) (closedBy : Port) (total : Nat) (settlement : Config.Settlement) (amount : Nat)
      (lostLines : Nat)
  | foundAfterClose (receiver : Nat) (serial : Word) (lastHeard : Option Nat) (returnedOn : Port)
  | batteryLow (receiver : Nat) (battery : Nat) (ticket : Nat)
  | tariffChanged (k : TClass) (generation : Nat) (defined : Bool)
deriving DecidableEq, Repr

/-- A queued notice (section 11.4); its overrun indication is set when it is delivered. -/
structure Notice where
  time : Nat
  body : NoticeBody
deriving DecidableEq, Repr

/-- The timeout applied and the remaining seconds of a pending NOTICE_WAIT (R170, R180). -/
structure Wait where
  applied : Nat
  remaining : Nat
deriving DecidableEq, Repr

/-- The request in progress of a port (R170). -/
structure InProgress where
  code : ReqCode
  tag : Byte
  wait : Option Wait
deriving DecidableEq, Repr

/-- A built response frame (section 12.2). -/
structure TxFrame where
  tag : Byte
  answer : Answer
  payload : List Byte
deriving DecidableEq, Repr

/-- R170. `subscriptions` is the subscription set of R184: bit k − 1 stands for notice kind k. -/
structure PortState where
  inProgress : Option InProgress
  urgent : List Notice
  routine : List Notice
  subscriptions : Half
  overrun : Bool
  framing : Framing
  transmit : List TxFrame
deriving DecidableEq, Repr

/-! ## The domains -/

/-- The retained store (the table of section 1.2). -/
structure Retained where
  slots : Bank LangSlot 32
  plan : Bank ChanSettings 24
  dirSeq : Nat
  booths : Bank (Option BoothSettings) 32
  seatAcc : Bank (Bank SeatAcc 3) 32
  receivers : Table Receiver
  hallCode : Half
  listeners : Bank Nat 32
  peaks : Bank Nat 32
  hires : Table Hire
  nextTicket : Nat
  tariffs : Bank Tariff 8
  accounts : Accounts
  session : Session
  counters : SessionCounters
deriving DecidableEq, Repr

/-- An expiry of the second event just counted that its block has not yet taken (log 4). -/
inductive Due where
  | gapHold (c : Chan)
  | offer (c : Chan)
  | directory
  | alarm
  | wait (p : Port)
deriving DecidableEq, Repr

/-- The general domain (the table of section 1.2); `due` is the model's own (log 4). -/
structure General where
  chans : Bank ChanLive 24
  override : Bool
  dirSending : Option Directory
  dirPending : Bool
  dirCount : Nat
  routeSending : Option RouteOrder
  routeList : List RouteOrder
  booths : Bank BoothLive 32
  offers : Bank (Option Offer) 24
  scanPos : Option Booth
  cycle : PollCycle
  intake : List Report
  intakeFraming : Framing
  jobs : List Job
  flight : Option Flight
  snapshot : Option Statement
  start : StartRecord
  ports : PerPort PortState
  due : List Due
deriving DecidableEq, Repr

/-- Which supplies are present (R5): the main supply; the backup supply alone; neither. -/
inductive Supply where
  | main | backup | none
deriving DecidableEq, Repr

/-- R5. -/
inductive Mark where
  | valid | invalid
deriving DecidableEq, Repr

/-- The machine. `pending` is the queue of commands that wait to be taken, oldest first. `draws` is the model's own: how many
second events the blocks have taken, at which the free value `Config.turnEndMeets` is read (R25, log 15). -/
structure State where
  pending : List Instr
  supply : Supply
  lineAsserted : Bool
  heldStart : Option Bool
  breaks : PerPort Bool
  clock : Nat
  mark : Mark
  ret : Retained
  gen : General
  draws : Nat
deriving DecidableEq, Repr

/-- No command of the DF24 stops the part: a request is answered, an event is ignored, a frame is discarded. The
type has no constructor, so no step faults (safe). -/
inductive Fault where
deriving DecidableEq, Repr

/-- The reasons a step can be refused. -/
inductive Refusal where
  /-- Raised by an arm of `exec` whose command has no meaning yet; no arm raises it now. Safe. -/
  | notModelled (mnemonic : String)
deriving DecidableEq, Repr

/-! ## Values after a full reset -/

def LangSlot.blank : LangSlot := ⟨none, none, 0, 0, 0, 0⟩
def ChanSettings.blank : ChanSettings := ⟨none, .first, .floor, 10, 30⟩
def SeatAcc.zero : SeatAcc := ⟨0, 0⟩
def PortTotals.zero : PortTotals := ⟨0, 0, 0⟩
def Accounts.zero : Accounts :=
  ⟨0, 0, 0, 0, 0, 0, ⟨PortTotals.zero, PortTotals.zero, PortTotals.zero⟩⟩
def SessionCounters.zero : SessionCounters := ⟨0, 0, 0, 0⟩

/-- A record that is not listed (R101, after a full reset). -/
def Receiver.unenrolled : Receiver := ⟨none, .unenrolled, none, none, none, none, false, false, 0⟩

/-- The retained store after a full reset clears it (R7, R13, R16, R31, R35, R54, R101, R105, R114, R119, R122,
R142, R164, R165, R166). -/
def Retained.cleared : Retained where
  slots := Bank.fill 32 LangSlot.blank
  plan := Bank.fill 24 ChanSettings.blank
  dirSeq := 0
  booths := Bank.fill 32 none
  seatAcc := Bank.fill 32 (Bank.fill 3 SeatAcc.zero)
  receivers := []
  hallCode := 0
  listeners := Bank.fill 32 0
  peaks := Bank.fill 32 0
  hires := []
  nextTicket := 1
  tariffs := Bank.fill 8 ⟨none, 0⟩
  accounts := Accounts.zero
  session := ⟨.none, 0, none, none⟩
  counters := SessionCounters.zero

/-- The live state of a booth after a general reset (R57, R74, R88, R35). -/
def BoothLive.afterReset (settings : Option BoothSettings) : BoothLive where
  seats := Bank.fill 3 .off
  selection := .a
  muted := false
  indication := none
  chosen := .floor
  effective := .floor
  autoHold := false
  presence := if settings.isSome then .pending else .unconfigured
  misses := 0
  lastGood := none

/-- The default subscriptions of a port (R176): kinds 2 to 5, 7 to 13 and 15 for the console; kinds 4 to 6 and
12 to 15 for a desk. -/
def defaultSubscriptions : Port → Half
  | .console => 0x5FDE
  | .desk1 | .desk2 => 0x7838

/-- A port after a reset, before its RESTARTED notice is queued (R170). -/
def PortState.afterReset (p : Port) : PortState where
  inProgress := none
  urgent := []
  routine := []
  subscriptions := defaultSubscriptions p
  overrun := false
  framing := .between
  transmit := []

def restartedNotice (time : Nat) (kind : RestartKind) (cleared : Bool) : Notice := ⟨time, .restarted kind cleared⟩

/-- A port after a reset, with its RESTARTED notice (R11, R12). -/
def PortState.restarted (p : Port) (time : Nat) (kind : RestartKind) (cleared : Bool) : PortState :=
  { PortState.afterReset p with urgent := [restartedNotice time kind cleared] }

/-- The directory of a part with no slot assigned. -/
def emptyDirectory : DirContent := ⟨Bank.fill 24 ⟨.unassigned, 0, []⟩, false⟩

/-- The full set of R34 after a full reset, less its first order: every channel SILENT, every booth listening to the
floor and not muted. -/
def resetOrders : List RouteOrder :=
  (List.finRange 24).tail.map (fun c => .route c .silent) ++
  (List.finRange 32).map (fun b => .listen b .floor) ++
  (List.finRange 32).map (fun b => .mute b false)

/-- The general domain after the general reset that completes a full reset. -/
def General.afterFullReset : General where
  chans := Bank.fill 24 ⟨.unassigned, none, .silent, 0, false⟩
  override := false
  dirSending := some ⟨emptyDirectory, 0⟩
  dirPending := false
  dirCount := 0
  routeSending := some (.route 0 .silent)
  routeList := resetOrders
  booths := Bank.fill 32 (BoothLive.afterReset none)
  offers := Bank.fill 24 none
  scanPos := none
  cycle := .idle
  intake := []
  intakeFraming := .between
  jobs := []
  flight := none
  snapshot := none
  start := ⟨.power, true⟩
  ports := ⟨PortState.restarted .console 0 .power true, PortState.restarted .desk1 0 .power true,
    PortState.restarted .desk2 0 .power true⟩
  due := []

/-- The machine right after a full reset: the part has been powered with its validity mark INVALID and the reset has
completed, with the reset line released and no port in a break (R7, log 1), and no draw made (log 15). -/
def State.reset : State where
  pending := []
  supply := .main
  lineAsserted := false
  heldStart := none
  breaks := ⟨false, false, false⟩
  clock := 0
  mark := .valid
  ret := Retained.cleared
  gen := General.afterFullReset
  draws := 0

end Sys2Proof.Machine
end

