-- ==== Sys2Proof/Machine/Operands.lean ====
section
/-! DEFINITION. Reading the operands of a command: the thing a number names, where it names one, and the value an
enumeration byte stands for (section 12.6). `none` is a number or a byte outside its range. -/

namespace Sys2Proof.Machine
open Sys2Proof

/-- The thing numbered `n` among `1..k`. -/
def fromOne (k n : Nat) : Option (Fin k) := if h : 1 ≤ n ∧ n ≤ k then some ⟨n - 1, by omega⟩ else none

/-- The thing numbered `n` among `0..k-1`. -/
def fromZero (k n : Nat) : Option (Fin k) := if h : n < k then some ⟨n, h⟩ else none

def chanOf (b : Byte) : Option Chan := fromOne 24 b.toNat
def boothOf (b : Byte) : Option Booth := fromOne 32 b.toNat
def slotOf (b : Byte) : Option Slot := fromZero 32 b.toNat
def classOf (b : Byte) : Option TClass := fromZero 8 b.toNat

/-- A seat of a booth of `count` seats (R40: an event that names a seat outside the seat count is ignored). -/
def seatOf (count : Nat) (b : Byte) : Option Seat :=
  if b.toNat ≤ count then fromOne 3 b.toNat else none

/-- A receiver number 0..4,095. -/
def receiverOf (n : Half) : Option Nat := if n.toNat < Config.receiverCount then some n.toNat else none

/-- A ticket 1..65,535. -/
def ticketOf (t : Half) : Option Nat := if t.toNat = 0 then none else some t.toNat

/-- A slot parameter that may be NONE, 0xFF (R184). The outer `none` is a value out of range. -/
def slotOrNone (b : Byte) : Option (Option Slot) := if b = 0xFF then some none else (slotOf b).map some

def policyOf (b : Byte) : Option ClaimPolicy :=
  match b.toNat with
  | 0 => some .first | 1 => some .last | 2 => some .offer | _ => none

def modeOf (b : Byte) : Option HandoverMode :=
  match b.toNat with
  | 0 => some .direct | 1 => some .courtesy | 2 => some .timed | _ => none

/-- The auto-floor parameter of BOOTH_SET, off 0 or on 1 (log 33): R36 gives the outcome for any other value. -/
def autoFloorOf (b : Byte) : Option Bool :=
  match b.toNat with
  | 0 => some false | 1 => some true | _ => none

/-- A fallback parameter (R16, R184). FLOOR and SILENT carry number 0 (log 16). -/
def fallbackOf (s : SourceBytes) : Option Fallback :=
  match s.kind.toNat with
  | 0 => if s.number = 0 then some .floor else none
  | 1 => if s.number = 0 then some .silent else none
  | 2 => (chanOf s.number).map .channel
  | _ => none

/-- A listening source parameter of RELAY_SET: FLOOR or CHANNEL r (test 1 of R77). -/
def listenOf (s : SourceBytes) : Option Listen :=
  match s.kind.toNat with
  | 0 => if s.number = 0 then some .floor else none
  | 2 => (chanOf s.number).map .channel
  | _ => none

/-- The parameter of RELAY_SELECT: 0 for FLOOR, n for CHANNEL n (R186); a channel outside 1..24 fails test 1 of R77. -/
def relayParam (b : Byte) : Option Listen := if b = 0 then some .floor else (chanOf b).map .channel

/-- `x` held to the range `lo..hi` (00, 1.7.5). -/
def clamp (lo hi x : Nat) : Nat := max lo (min hi x)

/-- `x + d`, held at `top`. -/
def holdAdd (top x d : Nat) : Nat := min top (x + d)

/-- The advance of a counter that wraps from `top` to 0. -/
def wrapNext (top x : Nat) : Nat := if x < top then x + 1 else 0

/-- `x + d` of a total: a raise that would take it past the total limit leaves it at the total limit (R164). -/
def raiseTotal (x d : Nat) : Nat := holdAdd Config.totalLimit x d

end Sys2Proof.Machine
end

