-- ==== Sys2Proof/Machine/Flags.lean ====
section
/-! DEFINITION. The flags of a charge and of a hire (R146 to R152), the flags bytes of the quote record (R187) and
the conditions of a CLOSE (R161). -/

namespace Sys2Proof.Machine
open Sys2Proof

/-- The flags of one line (section 9.3). -/
structure LineFlags where
  rounded : Bool
  capped : Bool
  saturated : Bool
deriving DecidableEq, Repr

/-- The flags of a hire (R152): the three line flags, ESTIMATE, and exactly one of OWED, EVEN and REFUND. -/
structure HireFlags where
  rounded : Bool
  capped : Bool
  saturated : Bool
  estimate : Bool
  settlement : Config.Settlement
deriving DecidableEq, Repr

def bit (n : Nat) (v : Bool) : Nat := if v then 2 ^ n else 0

/-- Bits 0 to 2 (R187). -/
def lineFlagsNat (f : LineFlags) : Nat := bit 0 f.rounded + bit 1 f.capped + bit 2 f.saturated

/-- Bits 0 to 6 (R187). -/
def hireFlagsNat (f : HireFlags) : Nat :=
  bit 0 f.rounded + bit 1 f.capped + bit 2 f.saturated + bit 3 f.estimate +
    bit 4 (f.settlement == .owed) + bit 5 (f.settlement == .even) + bit 6 (f.settlement == .refund)

/-- The conditions of a CLOSE (R161). -/
inductive Condition where
  | any | ifOwed | ifRefund | ifEven | ifNotRefund | ifNotOwed | ifUnsaturated
deriving DecidableEq, Repr

def conditionOf (b : Byte) : Option Condition :=
  match b.toNat with
  | 0 => some .any | 1 => some .ifOwed | 2 => some .ifRefund | 3 => some .ifEven | 4 => some .ifNotRefund
  | 5 => some .ifNotOwed | 6 => some .ifUnsaturated | _ => none

def conditionHolds (k : Condition) (f : HireFlags) : Bool :=
  match k with
  | .any => true
  | .ifOwed => f.settlement == .owed
  | .ifRefund => f.settlement == .refund
  | .ifEven => f.settlement == .even
  | .ifNotRefund => f.settlement == .owed || f.settlement == .even
  | .ifNotOwed => f.settlement == .refund || f.settlement == .even
  | .ifUnsaturated => !f.saturated

end Sys2Proof.Machine
end

