-- ==== Sys2Proof/Machine/Charge.lean ====
section
/-! DEFINITION. The charge of a hire, on a work copy (chapter 9). Every quantity is a whole number, every division
is rounded up, and a value that would pass the amount limit is held at it. -/

namespace Sys2Proof.Machine
open Sys2Proof

/-- A quotient rounded up. -/
def divUp (n d : Nat) : Nat := (n + d - 1) / d

/-- The figures of one line (R150). -/
structure LineCharge where
  receiver : Nat
  state : LineState
  duration : Nat
  credit : Nat
  net : Nat
  quanta : Nat
  timeCharge : Nat
  fee : Nat
  charge : Nat
  flags : LineFlags
deriving DecidableEq, Repr

/-- The fourth stage (R146): the grace is a threshold, not a deduction. -/
def quantaOf (t : Terms) (net : Nat) : Nat := if net ≤ t.grace then 0 else divUp net t.quantum

/-- ROUNDED (R146). -/
def roundedOf (t : Terms) (net : Nat) : Bool := decide (t.grace < net) && net % t.quantum != 0

/-- The day count K (R148). -/
def dayCount (duration : Nat) : Nat := if duration = 0 then 1 else divUp duration Config.daySeconds

/-- The cap K × M, held at the amount limit (R148). -/
def capOf (t : Terms) (duration : Nat) : Nat := min Config.amountLimit (dayCount duration * t.dayCap)

/-- The seven stages for one line (R145 to R149). -/
def lineCharge (t : Terms) (l : CopyLine) : LineCharge :=
  let duration := l.ended - l.issue
  let net := duration - l.credit
  let quanta := quantaOf t net
  let product := quanta * t.rate
  let raw := min Config.amountLimit product
  let overProduct := decide (Config.amountLimit < product)
  let capped := decide (0 < t.dayCap) && decide (capOf t duration < raw)
  let timeCharge := if capped then capOf t duration else raw
  let afterCap := overProduct && !capped
  let fee := if l.state = .lost then t.lossFee else 0
  let charge := min Config.amountLimit (timeCharge + fee)
  let overSum := decide (Config.amountLimit < timeCharge + fee)
  { receiver := l.receiver, state := l.state, duration := duration, credit := l.credit, net := net, quanta := quanta,
    timeCharge := timeCharge, fee := charge - timeCharge, charge := charge,
    flags := ⟨roundedOf t net, capped, afterCap || overSum⟩ }

/-- The figures of a hire (R151, R152). -/
structure HireCharge where
  lines : List LineCharge
  total : Nat
  time : Nat
  fee : Nat
  amount : Nat
  flags : HireFlags
deriving DecidableEq, Repr

/-- The settlement of a total against a deposit, and its amount (R152). -/
def settlementOf (total deposit : Nat) : Config.Settlement × Nat :=
  if deposit < total then (.owed, total - deposit)
  else if total = deposit then (.even, 0)
  else (.refund, deposit - total)

/-- The charge of the hire of a work copy (R151, R152). -/
def hireCharge (w : WorkCopy) : HireCharge :=
  let lines := w.lines.map (lineCharge w.terms)
  let sum := (lines.map LineCharge.charge).sum
  let total := min Config.amountLimit sum
  let time := min Config.amountLimit (lines.map LineCharge.timeCharge).sum
  let (settlement, amount) := settlementOf total w.deposit
  { lines := lines, total := total, time := time, fee := total - time, amount := amount,
    flags :=
      { rounded := lines.any (fun l => l.flags.rounded)
        capped := lines.any (fun l => l.flags.capped)
        saturated := lines.any (fun l => l.flags.saturated) || decide (Config.amountLimit < sum)
        estimate := w.lines.any (fun l => l.state == .out)
        settlement := settlement } }

end Sys2Proof.Machine
end

