-- ==== Sys2Proof/Machine/Layout.lean ====
section
/-! DEFINITION. The bytes of the part's frames and records (chapter 12): the encodings of section 12.6, the fields of
R184, the hall-line formats of R186, the quote record of R187 and the entries of R188. -/

namespace Sys2Proof.Machine
open Sys2Proof

/-! ## Fields (R184) -/

def u8 (n : Nat) : List Byte := numBytes 1 n
def u16 (n : Nat) : List Byte := numBytes 2 n
def u32 (n : Nat) : List Byte := numBytes 4 n
def u48 (n : Nat) : List Byte := numBytes 6 n
def flag (v : Bool) : List Byte := [yesNoByte v]

/-- An optional field of `width` value bytes: the value bytes are zero when it is absent. -/
def optField (width : Nat) : Option Nat → List Byte
  | none => 0 :: numBytes width 0
  | some n => 1 :: numBytes width n

/-- A label at its fixed width of 13 bytes. -/
def labelField (label : List Byte) : List Byte :=
  u8 label.length ++ label ++ List.replicate (12 - label.length) 0x20

def chanNum (c : Chan) : Nat := c.val + 1
def boothNum (b : Booth) : Nat := b.val + 1
def seatNum (k : Seat) : Nat := k.val + 1

/-! ## Encodings (section 12.6) -/

def coverageNum : Coverage → Nat
  | .unassigned => 0 | .covered => 1 | .holding => 2 | .uncovered => 3

def seatStateNum : SeatState → Nat
  | .off => 0 | .live => 1 | .cough => 2 | .waiting => 3

def presenceNum : Presence → Nat
  | .unconfigured => 0 | .pending => 1 | .present => 2 | .absent => 3

def indicationNum : Option Indication → Nat
  | none => 0
  | some .engaged => 1 | some .cut => 2 | some .lapsed => 3 | some .withdrawn => 4 | some .noChannel => 5
  | some .relayRefused => 6 | some .busy => 7

def policyNum : ClaimPolicy → Nat
  | .first => 0 | .last => 1 | .offer => 2

def modeNum : HandoverMode → Nat
  | .direct => 0 | .courtesy => 1 | .timed => 2

def offerKindNum : OfferKind → Nat
  | .inBooth => 1 | .across => 2

def mannerNum : Manner → Nat
  | .direct => 0 | .give => 1 | .turnEnd => 2 | .expiry => 3

def missCauseNum : MissCause → Nat
  | .badCheck => 0 | .wrongBooth => 1 | .tooMany => 2 | .noReply => 3

def receiverStateNum : ReceiverState → Nat
  | .unenrolled => 0 | .stock => 1 | .hired => 2 | .lost => 3 | .withdrawn => 4

def lineStateNum : LineState → Nat
  | .out => 0 | .back => 1 | .lost => 2

def portNum : Port → Nat
  | .console => 0 | .desk1 => 1 | .desk2 => 2

def sessionNum : SessionState → Nat
  | .none => 0 | .opened => 1 | .closed => 2

def restartNum : RestartKind → Nat
  | .power => 0 | .line => 1 | .command => 2 | .port => 3

def sideNum : Side → Nat
  | .a => 0 | .b => 1

def answerNum : Answer → Nat
  | .done => 0 | .empty => 1 | .busy => 2 | .denied => 3 | .unknown => 4 | .malformed => 5 | .badArg => 6
  | .notFound => 7 | .wrongState => 8 | .full => 9 | .inUse => 10 | .stale => 11 | .conditionFalse => 12
  | .loop => 13 | .cancelled => 14

/-- A source: kind FLOOR 0, SILENT 1, CHANNEL 2 or BOOTH 3, then its number (R184). -/
def sourceField : Source → List Byte
  | .floor => [0, 0]
  | .silent => [1, 0]
  | .channel x => 2 :: u8 (chanNum x)
  | .booth b => 3 :: u8 (boothNum b)

def Fallback.source : Fallback → Source
  | .floor => .floor
  | .silent => .silent
  | .channel x => .channel x

def Listen.source : Listen → Source
  | .floor => .floor
  | .channel r => .channel r

def fallbackField (f : Fallback) : List Byte := sourceField f.source
def listenField (l : Listen) : List Byte := sourceField l.source

/-- A slot field that may hold none, or a language field: 0xFF for NONE (R184). -/
def slotField : Option Slot → List Byte
  | none => [0xFF]
  | some s => u8 s.val

/-! ## Notices -/

/-- The notice kinds (section 12.6). -/
def kindNum : NoticeBody → Nat
  | .restarted .. => 1 | .boothAbsent .. => 2 | .channelUncovered .. => 3 | .hireOverdue .. => 4
  | .receiverSighted .. => 5 | .receiverAstray .. => 6 | .boothPresent .. => 7 | .channelCovered .. => 8
  | .handover .. => 9 | .handoverLapsed .. => 10 | .relayFallback .. => 11 | .hireClosed .. => 12
  | .foundAfterClose .. => 13 | .batteryLow .. => 14 | .tariffChanged .. => 15

/-- The class of a kind (R176): kinds 1 to 6 are urgent. -/
def isUrgent (n : NoticeBody) : Bool := kindNum n ≤ 6

def isRestarted (n : NoticeBody) : Bool := kindNum n == 1

/-- The subject fields, in the order in which the sending rule lists them (section 12.2). -/
def subjectFields : NoticeBody → List Byte
  | .restarted kind cleared => u8 (restartNum kind) ++ flag cleared
  | .boothAbsent b previous cause lastGood seat channel =>
    u8 (boothNum b) ++ u8 (presenceNum previous) ++ u8 (missCauseNum cause) ++ optField 4 lastGood ++
      optField 1 (seat.map seatNum) ++ optField 1 (channel.map chanNum)
  | .channelUncovered c tag fallback => u8 (chanNum c) ++ u16 tag ++ fallbackField fallback
  | .hireOverdue ticket due out openedBy => u16 ticket ++ u32 due ++ u8 out ++ u8 (portNum openedBy)
  | .receiverSighted receiver ticket heardAt => u16 receiver ++ optField 2 ticket ++ u32 heardAt
  | .receiverAstray receiver serial heardAt hireCount =>
    u16 receiver ++ u32 serial.toNat ++ u32 heardAt ++ u16 hireCount
  | .boothPresent b previous => u8 (boothNum b) ++ u8 (presenceNum previous)
  | .channelCovered c tag b seat => u8 (chanNum c) ++ u16 tag ++ u8 (boothNum b) ++ u8 (seatNum seat)
  | .handover c tag manner kind fromBooth fromSeat toBooth toSeat =>
    u8 (chanNum c) ++ u16 tag ++ u8 (mannerNum manner) ++ optField 1 (kind.map offerKindNum) ++
      u8 (boothNum fromBooth) ++ u8 (seatNum fromSeat) ++ u8 (boothNum toBooth) ++ u8 (seatNum toSeat)
  | .handoverLapsed c tag kind waitBooth waitSeat holdBooth holdSeat =>
    u8 (chanNum c) ++ u16 tag ++ u8 (offerKindNum kind) ++ u8 (boothNum waitBooth) ++ u8 (seatNum waitSeat) ++
      u8 (boothNum holdBooth) ++ u8 (seatNum holdSeat)
  | .relayFallback b c tag fallback => u8 (boothNum b) ++ u8 (chanNum c) ++ u16 tag ++ fallbackField fallback
  | .hireClosed ticket closedBy total settlement amount lostLines =>
    u16 ticket ++ u8 (portNum closedBy) ++ u32 total ++ [Config.settlementByte settlement] ++ u32 amount ++
      u8 lostLines
  | .foundAfterClose receiver serial lastHeard returnedOn =>
    u16 receiver ++ u32 serial.toNat ++ optField 4 lastHeard ++ u8 (portNum returnedOn)
  | .batteryLow receiver battery ticket => u16 receiver ++ u8 battery ++ u16 ticket
  | .tariffChanged k generation defined => u8 k.val ++ u16 generation ++ flag defined

/-- A delivered notice: kind, flags with bit 0 for overrun, time, subject fields (section 12.2). -/
def noticeBytes (n : Notice) (overrun : Bool) : List Byte :=
  u8 (kindNum n.body) ++ u8 (bit 0 overrun) ++ u32 n.time ++ subjectFields n.body

/-! ## Frames of the ports and the hall lines -/

/-- The bytes of a response frame (section 12.2). -/
def TxFrame.bytes (f : TxFrame) : List Byte := frameBytes (f.tag :: BitVec.ofNat 8 (answerNum f.answer) :: f.payload)

/-- A hall-line frame: its start byte, the bytes its CRC covers, and the CRC (R186). -/
def hallFrame (start : Byte) (body : List Byte) : List Byte := start :: body ++ numBytes 2 (crc16 body).toNat

/-- The poll (R186). -/
def Tally.bytes (t : Tally) : List Byte :=
  hallFrame 0xB1 (u8 (boothNum t.booth) ++ u8 t.seats.length ++ t.seats.flatMap (fun k => u8 (seatStateNum k)) ++
    flag t.offerPending ++ u8 (sideNum t.selection) ++ u8 (chanNum t.channel) ++ listenField t.chosen ++
    listenField t.effective ++ (match t.relayCoverage with | none => [0xFF] | some k => u8 (coverageNum k)) ++
    u8 (bit 0 t.autoFloor + bit 1 t.autoHold) ++ u8 (indicationNum t.indication))

/-- The directory frame (R186). -/
def Directory.bytes (d : Directory) : List Byte :=
  hallFrame 0xD4 (u16 d.sequence ++ flag d.content.override ++
    d.content.entries.cells.flatMap (fun e => u8 (coverageNum e.coverage) ++ u16 e.tag ++ labelField e.label))

/-- A route order (R186). -/
def RouteOrder.bytes (o : RouteOrder) : List Byte :=
  hallFrame 0xE5 (match o with
    | .route c source => u8 1 ++ u8 (chanNum c) ++ sourceField source
    | .listen b source => u8 2 ++ u8 (boothNum b) ++ listenField source
    | .mute b muted => u8 3 ++ u8 (boothNum b) ++ flag muted ++ u8 0)

/-- An event of a reply, from its kind and its parameter (R186). An event of none of the seven kinds, and an
OUTPUT_SELECT whose parameter is neither 0 nor 1, are dropped. -/
def replyEvent (kind param : Byte) : Option ReplyEvent :=
  match kind.toNat with
  | 1 => some (.seatOn param)
  | 2 => some (.seatOff param)
  | 3 => some (.coughDown param)
  | 4 => some (.coughUp param)
  | 5 => some (.give param)
  | 6 => if param = 0 then some (.outputSelect .a) else if param = 1 then some (.outputSelect .b) else none
  | 7 => some (.relaySelect param)
  | _ => none

/-- The events of a reply, in press order. -/
def replyEvents : List Byte → List ReplyEvent
  | kind :: param :: rest => (replyEvent kind param).toList ++ replyEvents rest
  | _ => []

/-- The first three tests of R92 on a reply to the poll of booth `b`: the events of a good reply, or the cause of the
miss. Test 1 asks for a length of 4 + 2 × the event count and a good CRC (R186). -/
def classifyReply (b : Booth) (bytes : List Byte) : Except MissCause (List ReplyEvent) :=
  match bytes with
  | booth :: count :: rest =>
    let body := booth :: count :: rest.take (2 * count.toNat)
    if bytes.length = 4 + 2 * count.toNat ∧ rest.drop (2 * count.toNat) = numBytes 2 (crc16 body).toNat then
      if booth.toNat ≠ boothNum b then .error .wrongBooth
      else if Config.eventMax < count.toNat then .error .tooMany
      else .ok (replyEvents (rest.take (2 * count.toNat)))
    else .error .badCheck
  | _ => .error .badCheck

/-! ## The quote record (R187) -/

def lineEntry (index : Nat) (l : LineCharge) : List Byte :=
  u8 index ++ u16 l.receiver ++ u8 (lineStateNum l.state) ++ u32 l.duration ++ u32 l.credit ++ u32 l.net ++
    u32 l.quanta ++ u32 l.timeCharge ++ u32 l.fee ++ u32 l.charge ++ u8 (lineFlagsNat l.flags)

/-- How many of `have` entries of `size` bytes, `want` at most, fit in `room` bytes. -/
def fits (room size want avail : Nat) : Nat := min (min want avail) (room / size)

/-- The quote record (R159, R187) with its line entries from line index `first`, where `before` bytes of the payload
stand before it (the committed byte of a CLOSE). -/
def quoteRecord (w : WorkCopy) (first before : Nat) : List Byte :=
  let h := hireCharge w
  let rest := h.lines.drop first
  let n := fits (Config.payloadMax - before - 37) 33 rest.length rest.length
  u16 w.ticket ++ flag (!h.flags.estimate) ++ u32 w.changeCount ++ u16 w.generation ++ u32 w.time ++
    u8 w.lines.length ++ u8 first ++ u8 n ++ u32 h.total ++ u32 h.time ++ u32 h.fee ++ u32 w.deposit ++
    u32 h.amount ++ u8 (hireFlagsNat h.flags) ++
    ((rest.take n).zipIdx first).flatMap (fun e => lineEntry e.2 e.1)

/-! ## Table entries (R188) -/

def languageEntry (s : LangSlot) (listeners peak : Nat) : List Byte :=
  flag s.name.isSome ++ u16 ((s.name.map LangName.tag).getD 0) ++ labelField ((s.name.map LangName.label).getD []) ++
    optField 1 (s.channel.map chanNum) ++ u32 s.u ++ u32 s.v ++ u32 s.uMark ++ u32 s.vMark ++ u16 listeners ++ u16 peak

def holderField : Option Holder → List Byte
  | none => [0, 0, 0]
  | some h => 1 :: u8 (boothNum h.booth) ++ u8 (seatNum h.seat)

/-- A CHANNELS entry (R188). The remaining gap-hold seconds of a channel that is not HOLDING are sent as 0 (log 37). -/
def channelEntry (k : ChanSettings) (l : ChanLive) : List Byte :=
  slotField k.slot ++ u8 (policyNum k.policy) ++ fallbackField k.fallback ++ u8 k.gapHold ++ u8 k.offerTime ++
    u8 (coverageNum l.coverage) ++ holderField l.holder ++ sourceField l.source ++ u8 l.remaining

/-- The settings part of a BOOTHS entry: zero for an UNCONFIGURED booth. -/
def boothSettingsFields : Option BoothSettings → List Byte
  | none => List.replicate 8 0
  | some k =>
    flag true ++ u8 k.seats ++ u8 (chanNum k.outputA) ++ optField 1 (k.outputB.map chanNum) ++ u8 (modeNum k.mode) ++
      u8 k.offerTime ++ flag k.autoFloor

def boothEntry (k : Option BoothSettings) (l : BoothLive) : List Byte :=
  boothSettingsFields k ++ u8 (sideNum l.selection) ++ u8 (presenceNum l.presence) ++ u8 l.misses ++
    optField 4 l.lastGood ++ listenField l.chosen ++ listenField l.effective ++ flag l.autoHold ++ flag l.muted ++
    u8 (indicationNum l.indication)

def seatEntry (index : Nat) (state : SeatState) (acc : SeatAcc) : List Byte :=
  u8 index ++ u8 (seatStateNum state) ++ u32 acc.onAir ++ u16 acc.turns

/-- An OFFERS entry: the seven fields of an empty entry are zero, its channel among them (R188). -/
def offerEntry (c : Chan) : Option Offer → List Byte
  | none => List.replicate 7 0
  | some o =>
    u8 (chanNum c) ++ u8 (offerKindNum o.kind) ++ u8 (boothNum o.waitBooth) ++ u8 (seatNum o.waitSeat) ++
      u8 (boothNum o.holdBooth) ++ u8 (seatNum o.holdSeat) ++ u8 o.remaining

def linkField : Option HireLink → List Byte
  | none => [0, 0, 0, 0]
  | some k => 1 :: u16 k.ticket ++ u8 k.line

def receiverEntry (n : Nat) (r : Receiver) : List Byte :=
  u16 n ++ u32 ((r.serial.map BitVec.toNat).getD 0) ++ u8 (receiverStateNum r.state) ++ linkField r.link ++
    slotField (r.tuned.map Tuning.slot) ++ optField 4 (r.tuned.map Tuning.mark) ++ optField 4 r.lastHeard ++
    (match r.battery with | none => [0xFF] | some b => u8 b) ++ flag r.astray ++ flag r.sighted ++ u16 r.hireCount

def outLines (h : Hire) : Nat := h.lines.countP (fun l => l.state == .out)

/-- A hire is firm when none of its lines is OUT (R121). -/
def firm (h : Hire) : Bool := h.lines.all (fun l => l.state != .out)

def hiresEntry (ticket : Nat) (h : Hire) : List Byte :=
  u16 ticket ++ u8 h.tariffClass.val ++ u8 (portNum h.openedBy) ++ u8 h.lines.length ++ u8 (outLines h) ++
    flag (firm h) ++ flag h.overdue ++ u32 h.changeCount

def hireRecord (ticket : Nat) (h : Hire) : List Byte :=
  u16 ticket ++ u8 h.tariffClass.val ++ u32 h.deposit ++ u8 (portNum h.openedBy) ++ u32 h.openTime ++
    optField 4 h.due ++ flag h.overdue ++ u32 h.changeCount ++ u8 h.lines.length

def hireLineEntry (index : Nat) (l : Line) : List Byte :=
  u8 index ++ u16 l.receiver ++ u32 l.issue ++ optField 4 l.ended ++ u8 (lineStateNum l.state) ++ u32 l.credit

def tariffEntry (k : TClass) (t : Tariff) : List Byte :=
  let v := t.terms.getD ⟨0, 0, 0, 0, 0⟩
  u8 k.val ++ flag t.terms.isSome ++ u16 v.quantum ++ u16 v.grace ++ u16 v.rate ++ u32 v.dayCap ++ u32 v.lossFee ++
    u16 t.generation

def portTotalsFields (t : PortTotals) : List Byte := u48 t.closes ++ u48 t.collected ++ u48 t.refunded

def accountsEntry (a : Accounts) : List Byte :=
  u48 a.hiresClosed ++ u48 a.timeCharges ++ u48 a.lossFees ++ u48 a.depositsApplied ++ u48 a.collected ++
    u48 a.refunded ++ portTotalsFields a.ports.console ++ portTotalsFields a.ports.desk1 ++
    portTotalsFields a.ports.desk2

def summaryEntry (t : Statement) : List Byte :=
  u16 t.number ++ u8 (sessionNum t.state) ++ u32 t.openTime ++ u32 t.time ++ u32 t.counters.opened ++
    u32 t.counters.closed ++ u48 t.counters.collected ++ u48 t.counters.refunded

def statementLangEntry (e : StatementLang) : List Byte :=
  u8 e.slot.val ++ u16 e.tag ++ labelField e.label ++ u8 (chanNum e.channel) ++ u32 e.covered ++ u32 e.uncovered ++
    u16 e.peak ++ u16 e.listeners

def statementSeatEntry (e : StatementSeat) : List Byte :=
  u8 (boothNum e.booth) ++ u8 (seatNum e.seat) ++ u32 e.acc.onAir ++ u16 e.acc.turns

end Sys2Proof.Machine
end

