-- ==== Sys2Proof/Machine/Ops.lean ====
section
/-! DEFINITION. The shared operations: reading and writing one item of state, answering a port, sending a notice,
placing a route order, and bringing the directory up to date. Every operation is a total function of the state. -/

namespace Sys2Proof.Machine
open Sys2Proof

/-! ## One item of state -/

def State.chan (s : State) (c : Chan) : ChanLive := s.gen.chans.get c
def State.setChan (s : State) (c : Chan) (x : ChanLive) : State := { s with gen.chans := s.gen.chans.set c x }

def State.settings (s : State) (c : Chan) : ChanSettings := s.ret.plan.get c
def State.setSettings (s : State) (c : Chan) (x : ChanSettings) : State := { s with ret.plan := s.ret.plan.set c x }

def State.slot (s : State) (k : Slot) : LangSlot := s.ret.slots.get k
def State.setSlot (s : State) (k : Slot) (x : LangSlot) : State := { s with ret.slots := s.ret.slots.set k x }

def State.booth (s : State) (b : Booth) : BoothLive := s.gen.booths.get b
def State.setBooth (s : State) (b : Booth) (x : BoothLive) : State := { s with gen.booths := s.gen.booths.set b x }

def State.boothSettings (s : State) (b : Booth) : Option BoothSettings := s.ret.booths.get b
def State.setBoothSettings (s : State) (b : Booth) (x : Option BoothSettings) : State :=
  { s with ret.booths := s.ret.booths.set b x }

def State.seat (s : State) (b : Booth) (k : Seat) : SeatState := (s.booth b).seats.get k
def State.setSeat (s : State) (b : Booth) (k : Seat) (x : SeatState) : State :=
  s.setBooth b { s.booth b with seats := (s.booth b).seats.set k x }

def State.acc (s : State) (b : Booth) (k : Seat) : SeatAcc := (s.ret.seatAcc.get b).get k
def State.setAcc (s : State) (b : Booth) (k : Seat) (x : SeatAcc) : State :=
  { s with ret.seatAcc := s.ret.seatAcc.set b ((s.ret.seatAcc.get b).set k x) }

def State.offer (s : State) (c : Chan) : Option Offer := s.gen.offers.get c
def State.setOffer (s : State) (c : Chan) (x : Option Offer) : State := { s with gen.offers := s.gen.offers.set c x }

def State.port (s : State) (p : Port) : PortState := s.gen.ports.get p
def State.setPort (s : State) (p : Port) (x : PortState) : State := { s with gen.ports := s.gen.ports.set p x }

def State.tariff (s : State) (k : TClass) : Tariff := s.ret.tariffs.get k

/-- The record of a receiver number; a number that is not listed is UNENROLLED. -/
def State.receiver (s : State) (n : Nat) : Receiver := (s.ret.receivers.find? n).getD Receiver.unenrolled
def State.setReceiver (s : State) (n : Nat) (r : Receiver) : State :=
  { s with ret.receivers := s.ret.receivers.put n r }

def State.hire? (s : State) (ticket : Nat) : Option Hire := s.ret.hires.find? ticket
def State.setHire (s : State) (ticket : Nat) (h : Hire) : State := { s with ret.hires := s.ret.hires.put ticket h }

/-- Is the general domain powered and out of reset? Only then does it take events (R6, R10). -/
def State.running (s : State) : Bool := s.supply == .main && !s.lineAsserted

/-- A port's attention line (R182): asserted while a notice is queued, released while the general domain is off or
held in reset. -/
def State.attention (s : State) (p : Port) : Bool :=
  s.running && (!(s.port p).urgent.isEmpty || !(s.port p).routine.isEmpty)

/-- The depth of the job queue (R155). -/
def State.queueDepth (s : State) : Nat := s.gen.jobs.length + (if s.gen.flight.isSome then 1 else 0)

/-! ## Answering a port -/

/-- Appends a frame to the port's transmit list (R170, R173). -/
def transmit (p : Port) (f : TxFrame) (s : State) : State :=
  s.setPort p { s.port p with transmit := (s.port p).transmit ++ [f] }

/-- The response to a request that is taken whole (R173). -/
def answer (p : Port) (tag : Byte) (a : Answer) (payload : List Byte) (s : State) : State :=
  transmit p ⟨tag, a, payload⟩ s

/-- The response to the port's request in progress, which it ends (R173). With no request in progress, nothing. -/
def finish (p : Port) (a : Answer) (payload : List Byte) (s : State) : State :=
  match (s.port p).inProgress with
  | some r => transmit p ⟨r.tag, a, payload⟩ (s.setPort p { s.port p with inProgress := none })
  | none => s

/-! ## Notices (section 11.4) -/

/-- Does a port subscribe to the kind of a notice (R176)? Bit k − 1 of the set stands for kind k. -/
def subscribes (k : PortState) (n : NoticeBody) : Bool := k.subscriptions.getLsbD (kindNum n - 1)

/-- Removes the oldest notice other than RESTARTED (R178). -/
def dropOldest : List Notice → List Notice
  | [] => []
  | n :: rest => if isRestarted n.body then n :: dropOldest rest else rest

/-- A notice joins its queue, under the rule of R178 when the queue is full. -/
def enqueue (n : Notice) (k : PortState) : PortState :=
  if isUrgent n.body then
    if Config.urgentMax ≤ k.urgent.length then
      { k with urgent := dropOldest k.urgent ++ [n], overrun := true }
    else { k with urgent := k.urgent ++ [n] }
  else
    if Config.routineMax ≤ k.routine.length then { k with overrun := true }
    else { k with routine := k.routine ++ [n] }

/-- A notice for one port: a pending NOTICE_WAIT ends and returns it with the timeout applied (R180), clearing the
overrun marker (R178); otherwise it is queued. -/
def giveNotice (p : Port) (n : Notice) (s : State) : State :=
  match (s.port p).inProgress with
  | some ⟨_, _, some w⟩ =>
    finish p .done (u8 w.applied ++ noticeBytes n (s.port p).overrun)
      (s.setPort p { s.port p with overrun := false })
  | _ => s.setPort p (enqueue n (s.port p))

/-- A notice for one port, queued when the port subscribes to its kind at that moment (R177). -/
def offerNotice (n : Notice) (p : Port) (s : State) : State :=
  if subscribes (s.port p) n.body then giveNotice p n s else s

/-- A notice for every port but `skip`, stamped with the clock (R177, R162). -/
def notifyExcept (skip : Option Port) (body : NoticeBody) (s : State) : State :=
  [Port.console, .desk1, .desk2].foldl
    (fun s p => if skip = some p then s else offerNotice ⟨s.clock, body⟩ p s) s

def notify (body : NoticeBody) (s : State) : State := notifyExcept none body s

/-- The next notice to be fetched: the oldest urgent one, or failing that the oldest routine one (R179). -/
def nextNotice (k : PortState) : Option (Notice × PortState) :=
  match k.urgent, k.routine with
  | n :: rest, _ => some (n, { k with urgent := rest })
  | [], n :: rest => some (n, { k with routine := rest })
  | [], [] => none

/-! ## The route line (section 2.7) -/

/-- Two orders have the same subject: the same channel, the same booth listening, the same booth's mute. -/
def sameSubject : RouteOrder → RouteOrder → Bool
  | .route c _, .route d _ => c == d
  | .listen b _, .listen d _ => b == d
  | .mute b _, .mute d _ => b == d
  | _, _ => false

/-- Places an order among the unsent ones: in the place of a waiting order of its subject, else at the end (R33). -/
def placeUnsent (o : RouteOrder) : List RouteOrder → List RouteOrder
  | [] => [o]
  | x :: rest => if sameSubject x o then o :: rest else x :: placeUnsent o rest

/-- An idle route line begins with its oldest unsent order (R33). -/
def routeBegin (s : State) : State :=
  match s.gen.routeSending, s.gen.routeList with
  | none, o :: rest => { s with gen.routeSending := some o, gen.routeList := rest }
  | _, _ => s

def placeOrder (o : RouteOrder) (s : State) : State :=
  routeBegin { s with gen.routeList := placeUnsent o s.gen.routeList }

/-- The effective route of a channel (R28, R33). -/
def effectiveRoute (s : State) (c : Chan) : Source :=
  match (s.settings c).slot with
  | none => .silent
  | some _ => if s.gen.override then .floor else (s.chan c).source

/-- Places a channel route order where the effective route of `c` has changed since `before` (R33); where it has not, none
is placed (log 35). -/
def routeAfter (before : State) (c : Chan) (s : State) : State :=
  if effectiveRoute s c = effectiveRoute before c then s else placeOrder (.route c (effectiveRoute s c)) s

/-- The full set of route orders, as it stands (R34). -/
def fullSet (s : State) : List RouteOrder :=
  (List.finRange 24).map (fun c => .route c (effectiveRoute s c)) ++
  (List.finRange 32).map (fun b => .listen b (s.booth b).effective) ++
  (List.finRange 32).map (fun b => .mute b (s.booth b).muted)

def placeAll (os : List RouteOrder) (s : State) : State := os.foldl (fun s o => placeOrder o s) s

/-! ## The directory line (section 2.6) -/

def dirEntry (s : State) (c : Chan) : DirEntry :=
  match (s.settings c).slot with
  | none => ⟨(s.chan c).coverage, 0, []⟩
  | some k =>
    match (s.slot k).name with
    | none => ⟨(s.chan c).coverage, 0, []⟩
    | some n => ⟨(s.chan c).coverage, n.tag, n.label⟩

/-- The content of the directory as it stands (R31). -/
def dirContent (s : State) : DirContent := ⟨Bank.build (dirEntry s), s.gen.override⟩

/-- A send begins, with the content and sequence as they stand; the count of second events restarts (R32). -/
def dirBegin (s : State) : State :=
  { s with gen.dirSending := some ⟨dirContent s, s.ret.dirSeq⟩, gen.dirPending := false, gen.dirCount := 0 }

/-- A send is due: it begins if the line is idle, and is marked pending otherwise (R32). -/
def dirDue (s : State) : State :=
  if s.gen.dirSending.isNone then dirBegin s else { s with gen.dirPending := true }

/-- The end of an event that found the part as `before`: if the event changed the content of the directory, the
sequence advances by 1 once and a send is due (R31, R32). -/
def dirAfter (before s : State) : State :=
  if dirContent s = dirContent before then s
  else dirDue { s with ret.dirSeq := wrapNext Config.smallMax s.ret.dirSeq }

/-- One event of the blocks, with its directory update. -/
def event (f : State → State) (s : State) : State := dirAfter s (f s)

end Sys2Proof.Machine
end

