-- ==== Sys2Proof/Machine/Plan.lean ====
section
/-! DEFINITION. The plan unit's coverage events (section 2.3) and the booth unit's listening sources that follow
them (chapter 5). -/

namespace Sys2Proof.Machine
open Sys2Proof

/-! ## Listening sources -/

/-- The effective source and the auto-floor hold of a configured booth (R75). -/
def derivedListen (k : BoothSettings) (chosen : Listen) (s : State) : Listen × Bool :=
  match chosen with
  | .floor => (.floor, false)
  | .channel r =>
    if k.autoFloor && (s.chan r).coverage == .uncovered then (.floor, true) else (.channel r, false)

/-- Writes a booth's sources and hold, with a booth listen order where the effective source changes (R75). -/
def setListen (b : Booth) (chosen effective : Listen) (hold : Bool) (s : State) : State :=
  let l := s.booth b
  let s' := s.setBooth b { l with chosen := chosen, effective := effective, autoHold := hold }
  if effective = l.effective then s' else placeOrder (.listen b effective) s'

/-- Makes `chosen` the chosen source of a booth and derives the effective source again (R77). -/
def chooseListen (b : Booth) (chosen : Listen) (s : State) : State :=
  match s.boothSettings b with
  | none => setListen b .floor .floor false s
  | some k => setListen b chosen (derivedListen k chosen s).1 (derivedListen k chosen s).2 s

/-- The tag of the slot a channel carries; 0 where it carries none. -/
def chanTag (s : State) (c : Chan) : Nat :=
  match (s.settings c).slot with
  | none => 0
  | some k => ((s.slot k).name.map LangName.tag).getD 0

/-- One booth follows a change of the coverage of `r` (R82, R83): where the change brings its auto-floor hold to
yes, a RELAY_FALLBACK notice is sent. -/
def followOne (r : Chan) (s : State) (b : Booth) : State :=
  if (s.boothSettings b).isSome && (s.booth b).chosen == .channel r then
    let s' := chooseListen b (.channel r) s
    if (s'.booth b).autoHold && !(s.booth b).autoHold then
      notify (.relayFallback b r (chanTag s' r) (s'.settings r).fallback) s'
    else s'
  else s

/-- The booth unit is handed the new coverage of `r` (R27), booths in ascending number. -/
def relayFollow (r : Chan) (s : State) : State := (List.finRange 32).foldl (followOne r) s

/-- The booth unit is handed a channel that became UNASSIGNED (R86). -/
def relayUnassigned (r : Chan) (s : State) : State :=
  (List.finRange 32).foldl
    (fun s b => if (s.booth b).chosen = .channel r then chooseListen b .floor s else s) s

/-! ## Coverage events -/

/-- Writes the live state of a channel, with its route order (R33), and hands the coverage on (R27). -/
def coverageChange (c : Chan) (x : ChanLive) (notice : State → State) (s : State) : State :=
  relayFollow c (notice (routeAfter s c (s.setChan c x)))

/-- The expiry of a gap hold (R24): UNCOVERED with the fallback route, a CHANNEL_UNCOVERED notice, and auto-floor. Its route
order follows as R33 states: where the channel has its fallback route already, as after the reset of R26, there is none
(log 35, DEDUCED). -/
def uncover (c : Chan) (s : State) : State :=
  let k := s.settings c
  coverageChange c ⟨.uncovered, none, k.fallback.source, 0, false⟩
    (fun s => notify (.channelUncovered c (chanTag s c) k.fallback) s) s

/-- A channel enters HOLDING at a turn end, with the route source given; with a gap hold of 0 it becomes UNCOVERED at once (R23). -/
def enterHolding (c : Chan) (source : Source) (s : State) : State :=
  let gap := (s.settings c).gapHold
  let s := coverageChange c ⟨.holding, none, source, gap, true⟩ id s
  if gap = 0 then uncover c s else s

/-- A turn start on a HOLDING or UNCOVERED channel (R21). Its remaining gap-hold seconds, which R21 discards, are stored and
read as 0 (log 37, DEDUCED). -/
def turnStart (c : Chan) (h : Holder) (s : State) : State :=
  let was := (s.chan c).coverage
  coverageChange c ⟨.covered, some h, .booth h.booth, 0, false⟩
    (fun s => if was = .uncovered then notify (.channelCovered c (chanTag s c) h.booth h.seat) s else s) s

/-- A holder change on a COVERED channel (R22). -/
def holderChange (c : Chan) (h : Holder) (s : State) : State :=
  routeAfter s c (s.setChan c { s.chan c with holder := some h, source := .booth h.booth })

/-- A turn end (R23): the route source stays as it is. -/
def turnEnd (c : Chan) (s : State) : State := enterHolding c (s.chan c).source s

/-! ## The counters (R29) -/

/-- U and V of one slot at a second event, by the coverage its channel has. -/
def countSlot (s : State) (k : LangSlot) : LangSlot :=
  match k.channel with
  | none => k
  | some c =>
    match (s.chan c).coverage with
    | .uncovered => { k with u := holdAdd Config.countMax k.u 1 }
    | .covered => { k with v := holdAdd Config.countMax k.v 1 }
    | _ => k

def countSlots (s : State) : State :=
  if s.gen.override then s else { s with ret.slots := s.ret.slots.map (countSlot s) }

/-- A second event at a channel: the remaining seconds of a HOLDING one decrease by 1 (R24), but for a hold that began with a
turn end taken just before, together with this second event, which is not counted in it (R25). `meets` says whether the
turn end of a fresh hold came together with it (log 15). -/
def countHold (meets : Bool) (l : ChanLive) : ChanLive :=
  { l with
    remaining := if l.coverage = .holding && !(l.fresh && meets) then l.remaining - 1 else l.remaining
    fresh := false }

end Sys2Proof.Machine
end

