-- ==== Sys2Proof/Machine/Booths.lean ====
section
/-! DEFINITION. The booth unit: seats, live turns, offers (chapters 3 and 4) and the relay check (section 5.2). -/

namespace Sys2Proof.Machine
open Sys2Proof

/-! ## Reading a booth -/

/-- The channel of an output (R35). -/
def outputOf (k : BoothSettings) : Side → Chan
  | .a => k.outputA
  | .b => k.outputB.getD k.outputA

/-- The channel of a configured booth's selected output. -/
def selectedChan (k : BoothSettings) (l : BoothLive) : Chan := outputOf k l.selection

def isLive (x : SeatState) : Bool := x == .live || x == .cough

/-- The booth's seat in LIVE or COUGH (R39: there is at most one). -/
def liveSeat (s : State) (b : Booth) : Option Seat := (List.finRange 3).find? (fun k => isLive (s.seat b k))

/-- Is a seat of the booth the holder of a channel on which an offer stands (R55)? -/
def offerPending (s : State) (b : Booth) : Bool :=
  (List.finRange 24).any (fun c => match s.offer c with | some o => o.holdBooth == b | none => false)

/-- The channels on which a seat of the booth waits. -/
def waitingChans (s : State) (b : Booth) : List Chan :=
  (List.finRange 24).filter (fun c => match s.offer c with | some o => o.waitBooth == b | none => false)

/-- The channel on which a seat waits. -/
def seatOffer (s : State) (b : Booth) (k : Seat) : Option Chan :=
  (List.finRange 24).find?
    (fun c => match s.offer c with | some o => o.waitBooth == b && o.waitSeat == k | none => false)

/-! ## Seats -/

def indicate (b : Booth) (i : Option Indication) (s : State) : State :=
  s.setBooth b { s.booth b with indication := i }

/-- A booth is muted while one of its seats is in COUGH; a change of its mute state places a booth mute order (R48). -/
def syncMute (b : Booth) (s : State) : State :=
  let m := (List.finRange 3).any (fun k => s.seat b k == .cough)
  if m = (s.booth b).muted then s
  else placeOrder (.mute b m) (s.setBooth b { s.booth b with muted := m })

def putSeat (b : Booth) (k : Seat) (x : SeatState) (s : State) : State := syncMute b (s.setSeat b k x)

/-- A seat goes LIVE and its turns increase by 1, held at 65,535 (R54, R59, R64). -/
def goLive (b : Booth) (k : Seat) (s : State) : State :=
  let a := s.acc b k
  putSeat b k .live (s.setAcc b k { a with turns := holdAdd Config.smallMax a.turns 1 })

/-! ## Offers -/

/-- An offer passes its channel to its waiting seat (R64), the holder having taken the effects of its own end. -/
def passOffer (c : Chan) (o : Offer) (manner : Manner) (s : State) : State :=
  let s := holderChange c ⟨o.waitBooth, o.waitSeat⟩ (goLive o.waitBooth o.waitSeat (s.setOffer c none))
  notify (.handover c (chanTag s c) manner (some o.kind) o.holdBooth o.holdSeat o.waitBooth o.waitSeat) s

/-- The channel that a holder leaves is settled: an offer that stands passes it, and with none it goes HOLDING (R49). -/
def settleChan (c : Chan) (manner : Manner) (s : State) : State :=
  match s.offer c with
  | some o => passOffer c o manner s
  | none => turnEnd c s

/-- An offer is withdrawn: removed, its waiting seat OFF (R66). -/
def withdrawOffer (c : Chan) (s : State) : State :=
  match s.offer c with
  | some o => putSeat o.waitBooth o.waitSeat .off (s.setOffer c none)
  | none => s

/-- Every offer of the booth's waiting seats is withdrawn (R66). -/
def withdrawAll (b : Booth) (s : State) : State := (waitingChans s b).foldl (fun s c => withdrawOffer c s) s

/-- The turn of a live seat ends and its channel is settled (R49). -/
def endTurn (b : Booth) (k : Seat) (c : Chan) (manner : Manner) (s : State) : State :=
  settleChan c manner (putSeat b k .off s)

/-- The turn of a live seat ends as a cut, with CUT for its booth (R43, R49, R51). -/
def cutTurn (b : Booth) (k : Seat) (c : Chan) (s : State) : State :=
  indicate b (some .cut) (endTurn b k c .turnEnd s)

/-- A LAST claim takes `c` from its holder `x` for `h` (R43): the holder is cut; an offer that stands on `c` passes it
to its waiting seat, which is then cut in the same way; one holder change follows. -/
def claimLast (c : Chan) (x h : Holder) (s : State) : State :=
  let s := indicate x.booth (some .cut) (putSeat x.booth x.seat .off s)
  let s :=
    match s.offer c with
    | none => s
    | some o =>
      indicate o.waitBooth (some .cut) (putSeat o.waitBooth o.waitSeat .off (passOffer c o .turnEnd s))
  holderChange c h s

/-- A booth that is absent or cleared loses its seats (R52). -/
def seatLoss (b : Booth) (s : State) : State :=
  let s := withdrawAll b s
  let s :=
    match s.boothSettings b, liveSeat s b with
    | some k, some h => endTurn b h (selectedChan k (s.booth b)) .turnEnd s
    | _, _ => s
  let s := s.setBooth b { s.booth b with seats := Bank.fill 3 .off, indication := none }
  syncMute b s

/-! ## Button events on seats -/

/-- A SEAT_ON that is a claim on `c`, the channel of the booth's selected output (R41, R42, R62). -/
def claimSeat (b : Booth) (k : Seat) (c : Chan) (s : State) : State :=
  match (s.chan c).coverage, (s.chan c).holder with
  | .unassigned, _ => indicate b (some .noChannel) s
  | .covered, some x =>
    match (s.settings c).policy with
    | .first => indicate b (some .engaged) s
    | .last => goLive b k (claimLast c x ⟨b, k⟩ s)
    | .offer =>
      match s.offer c with
      | some _ => indicate b (some .busy) s
      | none =>
        putSeat b k .waiting
          (s.setOffer c (some ⟨.across, b, k, x.booth, x.seat, (s.settings c).offerTime⟩))
  | _, _ => turnStart c ⟨b, k⟩ (goLive b k s)

/-- A DIRECT handover from seat `h` to seat `k` of one booth (R59), under an ACROSS offer or none (R60). -/
def directHandover (b : Booth) (h k : Seat) (c : Chan) (s : State) : State :=
  let s := goLive b k (putSeat b h .off s)
  let s := s.setOffer c ((s.offer c).map (fun o => { o with holdBooth := b, holdSeat := k }))
  let s := holderChange c ⟨b, k⟩ s
  notify (.handover c (chanTag s c) .direct none b h b k) s

/-- A SEAT_ON from an OFF seat of a booth whose seat `h` is live on `c` (R59, R61). -/
def inBoothRequest (b : Booth) (settings : BoothSettings) (h k : Seat) (c : Chan) (s : State) : State :=
  match settings.mode with
  | .direct => directHandover b h k c s
  | _ =>
    match s.offer c with
    | some _ => indicate b (some .busy) s
    | none => putSeat b k .waiting (s.setOffer c (some ⟨.inBooth, b, k, b, h, settings.offerTime⟩))

/-- SEAT_ON of seat `k` (R40, R41). -/
def seatOnEvent (b : Booth) (settings : BoothSettings) (k : Seat) (s : State) : State :=
  if s.seat b k = .off then
    let c := selectedChan settings (s.booth b)
    match liveSeat s b with
    | none => claimSeat b k c s
    | some h => inBoothRequest b settings h k c s
  else s

/-- SEAT_OFF of seat `k` (R50, R66). -/
def seatOffEvent (b : Booth) (settings : BoothSettings) (k : Seat) (s : State) : State :=
  match s.seat b k with
  | .off => s
  | .waiting =>
    match seatOffer s b k with
    | some c => withdrawOffer c s
    | none => putSeat b k .off s
  | _ => endTurn b k (selectedChan settings (s.booth b)) .turnEnd s

def coughDownEvent (b : Booth) (_settings : BoothSettings) (k : Seat) (s : State) : State :=
  if s.seat b k = .live then putSeat b k .cough s else s

def coughUpEvent (b : Booth) (_settings : BoothSettings) (k : Seat) (s : State) : State :=
  if s.seat b k = .cough then putSeat b k .live s else s

/-- GIVE of seat `k` (R65). -/
def giveEvent (b : Booth) (settings : BoothSettings) (k : Seat) (s : State) : State :=
  let c := selectedChan settings (s.booth b)
  match s.offer c with
  | some o =>
    if isLive (s.seat b k) && o.holdBooth == b && o.holdSeat == k then endTurn b k c .give s else s
  | none => s

/-! ## Output selection (section 3.4) -/

def select (b : Booth) (y : Side) (s : State) : State := s.setBooth b { s.booth b with selection := y }

/-- The booth leaves `c` by an output switch (R46, R49): an IN_BOOTH offer is withdrawn and `c` goes HOLDING; an
ACROSS offer passes `c`; with no offer `c` goes HOLDING. -/
def leaveChan (b : Booth) (c : Chan) (s : State) : State :=
  match s.offer c with
  | some o =>
    match o.kind with
    | .inBooth => turnEnd c (indicate b (some .withdrawn) (withdrawOffer c s))
    | .across => passOffer c o .turnEnd s
  | none => turnEnd c s

/-- An output switch of live seat `k` from `c1` to output `y`, channel `c2` (R46). -/
def outputSwitch (b : Booth) (k : Seat) (c1 c2 : Chan) (y : Side) (s : State) : State :=
  match (s.chan c2).coverage, (s.chan c2).holder with
  | .unassigned, _ => indicate b (some .noChannel) s
  | .covered, some x =>
    match (s.settings c2).policy with
    | .last => leaveChan b c1 (select b y (claimLast c2 x ⟨b, k⟩ s))
    | _ => indicate b (some .engaged) s
  | _, _ => leaveChan b c1 (select b y (turnStart c2 ⟨b, k⟩ s))

/-- OUTPUT_SELECT of output `y` (R45, R46). -/
def outputSelectEvent (b : Booth) (settings : BoothSettings) (y : Side) (s : State) : State :=
  if (y = .b ∧ settings.outputB = none) ∨ y = (s.booth b).selection then s
  else
    match liveSeat s b with
    | some k => outputSwitch b k (selectedChan settings (s.booth b)) (outputOf settings y) y s
    | none =>
      if (waitingChans s b).isEmpty then select b y s
      else indicate b (some .withdrawn) (withdrawAll b (select b y s))

/-! ## The relay check (section 5.2) -/

/-- A configured booth in the relay graph: what it listens to and its outputs (R76). -/
structure RelayArc where
  booth : Booth
  input : Listen
  outputA : Chan
  outputB : Option Chan
deriving DecidableEq, Repr

def RelayArc.outputs (a : RelayArc) : List Chan := a.outputA :: a.outputB.toList

/-- The relay graph of the hall as it stands: settings and chosen sources alone (R76). -/
def relayArcs (s : State) : List RelayArc :=
  (List.finRange 32).filterMap (fun b =>
    (s.boothSettings b).map (fun k => ⟨b, (s.booth b).chosen, k.outputA, k.outputB⟩))

/-- A channel is produced when a configured booth has it as an output (R76). -/
def produced (arcs : List RelayArc) (c : Chan) : Bool := arcs.any (fun a => a.outputs.contains c)

/-- in(b), from the hop counts of the channels (R76). -/
def inputHops (h : Bank Nat 24) : Listen → Nat
  | .floor => 0
  | .channel r => h.get r

/-- One round of R76's definition of h(c); 0 for a channel that is not produced. -/
def hopRound (arcs : List RelayArc) (h : Bank Nat 24) : Bank Nat 24 :=
  Bank.build (fun c =>
    arcs.foldl (fun m a => if a.outputs.contains c then max m (inputHops h a.input + 1) else m) 0)

/-- The length of the longest chain that ends in each channel, counted up to `n` steps. -/
def hopTable (arcs : List RelayArc) : Nat → Bank Nat 24
  | 0 => Bank.fill 24 0
  | n + 1 => hopRound arcs (hopTable arcs n)

/-- The hop counts of a graph with no cycle: no chain over 24 channels has more than 24 steps (R76). -/
def hops (arcs : List RelayArc) : Bank Nat 24 := hopTable arcs 25

/-- A cycle exists (R76): a chain of 25 steps goes through one of the 24 channels twice. -/
def hasCycle (arcs : List RelayArc) : Bool := (hops arcs).cells.any (fun n => decide (24 < n))

/-- Every produced channel has h at most 3 (R76). -/
def withinHopLimit (arcs : List RelayArc) : Bool := (hops arcs).cells.all (fun n => decide (n ≤ Config.relayHopLimit))

/-- One booth's source is assigned, produced and none of its outputs (R76). -/
def sourceAllowed (s : State) (arcs : List RelayArc) (a : RelayArc) : Bool :=
  match a.input with
  | .floor => true
  | .channel r => (s.settings r).slot.isSome && produced arcs r && !a.outputs.contains r

/-- The relay check (R76). -/
def relayCheck (s : State) (arcs : List RelayArc) : Bool :=
  arcs.all (sourceAllowed s arcs) && !hasCycle arcs && withinHopLimit arcs

/-- The graph with booth `b` listening to `src`. -/
def withInput (b : Booth) (src : Listen) (arcs : List RelayArc) : List RelayArc :=
  arcs.map (fun a => if a.booth = b then { a with input := src } else a)

/-- Tests 2 to 6 of R77 for a change of booth `b` to `src`: the outcome of RELAY_SET on the first failure. -/
def listenTests (s : State) (b : Booth) (k : BoothSettings) (src : Listen) : Option Answer :=
  let arcs := relayArcs s
  match src with
  | .floor => none
  | .channel r =>
    if src = (s.booth b).chosen then none
    else if (s.settings r).slot.isNone then some .notFound
    else if !produced arcs r then some .notFound
    else if r = k.outputA ∨ some r = k.outputB then some .loop
    else if hasCycle (withInput b src arcs) then some .loop
    else if !withinHopLimit (withInput b src arcs) then some .loop
    else none

/-- A RELAY_SELECT of booth `b` (R78). -/
def relaySelectEvent (b : Booth) (settings : BoothSettings) (src : Option Listen) (s : State) : State :=
  match src with
  | none => indicate b (some .relayRefused) s
  | some src =>
    match listenTests s b settings src with
    | some _ => indicate b (some .relayRefused) s
    | none => chooseListen b src s

/-- Booths whose chosen channel no configured booth produces any more are set to FLOOR (R81). -/
def relayUnproduced (s : State) : State :=
  let arcs := relayArcs s
  (List.finRange 32).foldl
    (fun s b =>
      match (s.booth b).chosen with
      | .channel r => if produced arcs r then s else chooseListen b .floor s
      | .floor => s) s

/-! ## The tally (R55, R87) -/

def tallyOf (s : State) (b : Booth) (k : BoothSettings) : Tally :=
  let l := s.booth b
  { booth := b
    seats := l.seats.cells.take k.seats
    offerPending := offerPending s b
    selection := l.selection
    channel := selectedChan k l
    chosen := l.chosen
    effective := l.effective
    relayCoverage := match l.chosen with | .floor => none | .channel r => some (s.chan r).coverage
    autoFloor := k.autoFloor
    autoHold := l.autoHold
    indication := l.indication }

/-! ## Second events -/

/-- On-air seconds of one booth's seats (R53). -/
def countOnAir (s : State) (b : Booth) : Bank SeatAcc 3 :=
  Bank.build (fun k =>
    let a := s.acc b k
    if isLive (s.seat b k) then { a with onAir := holdAdd Config.countMax a.onAir 1 } else a)

/-- An offer's remaining seconds decrease by 1 (R68). -/
def countOffer (o : Option Offer) : Option Offer := o.map (fun o => { o with remaining := o.remaining - 1 })

/-- An offer lapses (R69). -/
def lapse (c : Chan) (o : Offer) (s : State) : State :=
  let s := indicate o.waitBooth (some .lapsed) (putSeat o.waitBooth o.waitSeat .off (s.setOffer c none))
  notify (.handoverLapsed c (chanTag s c) o.kind o.waitBooth o.waitSeat o.holdBooth o.holdSeat) s

/-- The expiry of the offer on `c` (R68): forced in a TIMED booth (R70), else a lapse. -/
def expireOffer (c : Chan) (o : Offer) (s : State) : State :=
  match o.kind, (s.boothSettings o.holdBooth).map BoothSettings.mode with
  | .inBooth, some .timed => endTurn o.holdBooth o.holdSeat c .expiry s
  | _, _ => lapse c o s

end Sys2Proof.Machine
end

