-- ==== Sys2Proof/Machine/Register.lean ====
section
/-! DEFINITION. The receiver register and the collector intake (chapter 7), with the additions of closed credit to the
hire table (R130). -/

namespace Sys2Proof.Machine
open Sys2Proof

/-- The state of a record that is known to the hall: STOCK, HIRED or LOST (R102, R106). -/
def inService (r : Receiver) : Bool := r.state == .stock || r.state == .hired || r.state == .lost

/-- Another record than `n` in STOCK, HIRED or LOST holds the serial (R102, R104). -/
def serialInUse (s : State) (n : Nat) (serial : Option Word) : Bool :=
  s.ret.receivers.any (fun e => e.1 != n && inService e.2 && e.2.serial == serial)

/-! ## Credit (R110, R116, R130) -/

/-- A line's credit after `secs` more, held at the line's duration to `now` (R130, R141). -/
def creditUpTo (l : Line) (secs now : Nat) : Nat := l.credit + min secs (now - l.issue - l.credit)

/-- Line `i` of a hire changed by `f`. -/
def updateLine (h : Hire) (i : Nat) (f : Line → Line) : Hire :=
  match h.lines[i]? with
  | some l => { h with lines := h.lines.set i (f l) }
  | none => h

/-- The hire table adds closed credit to the line a hire link names; no other field of the hire changes (R130). -/
def addCredit (link : HireLink) (secs : Nat) (s : State) : State :=
  match s.hire? link.ticket with
  | some h => s.setHire link.ticket (updateLine h link.line (fun l => { l with credit := creditUpTo l secs s.clock }))
  | none => s

/-- Closes the credit of record `n` on its language, if it has one: the seconds go to its line, the mark is removed,
the language is NONE and the listener count falls by 1 (step 1 of R110; R116). -/
def closeCredit (n : Nat) (s : State) : State :=
  let r := s.receiver n
  match r.tuned with
  | none => s
  | some t =>
    let secs := (s.slot t.slot).u - t.mark
    let s :=
      match r.link with
      | some link => addCredit link secs s
      | none => s
    let s := s.setReceiver n { r with tuned := none }
    { s with ret.listeners := s.ret.listeners.modify t.slot (fun k => k - 1) }

/-- Opens the credit of record `n` on slot `b` (step 3 of R110), with the session peak (R114). -/
def openCredit (n : Nat) (b : Slot) (s : State) : State :=
  let s := s.setReceiver n { s.receiver n with tuned := some ⟨b, (s.slot b).u⟩ }
  let count := s.ret.listeners.get b + 1
  { s with
    ret.listeners := s.ret.listeners.set b count
    ret.peaks := s.ret.peaks.modify b (fun k => max k count) }

/-- A slot has left the plan (R115): the credit of its listeners is closed, receivers in ascending number, and its
listener count becomes 0. -/
def slotLeaves (k : Slot) (s : State) : State :=
  let s := s.ret.receivers.foldl
    (fun s e =>
      if e.2.state = .hired ∧ e.2.tuned.map Tuning.slot = some k then closeCredit e.1 s else s) s
  { s with ret.listeners := s.ret.listeners.set k 0 }

/-! ## Taking a report -/

/-- The language of a tag: the defined and assigned slot that holds it, if there is one (R110). -/
def languageOf (s : State) (tag : Nat) : Option Slot :=
  if tag = 0 then none
  else (List.finRange 32).find?
    (fun k => (s.slot k).channel.isSome && (s.slot k).name.map LangName.tag == some tag)

/-- A report for a HIRED receiver changes its language where it differs (R110). -/
def retune (n : Nat) (language : Option Slot) (s : State) : State :=
  if (s.receiver n).tuned.map Tuning.slot = language then s
  else
    let s := closeCredit n s
    match language with
    | none => s
    | some b => openCredit n b s

/-- The register takes one report (R108 to R112). -/
def takeReport (p : Report) (s : State) : State :=
  let r := s.receiver p.receiver
  if inService r && r.serial == some p.serial then
    let heard := { r with lastHeard := some p.arrival, battery := some p.battery }
    match r.state with
    | .hired =>
      let s := s.setReceiver p.receiver heard
      let low := p.battery ≤ Config.lowBattery ∧ ∀ b ∈ r.battery, Config.lowBattery < b
      let s :=
        if low then
          notify (.batteryLow p.receiver p.battery ((r.link.map HireLink.ticket).getD 0)) s
        else s
      retune p.receiver (languageOf s p.tag) s
    | .stock =>
      let s := s.setReceiver p.receiver { heard with astray := true }
      if r.astray then s else notify (.receiverAstray p.receiver p.serial p.arrival r.hireCount) s
    | .lost =>
      let s := s.setReceiver p.receiver { heard with sighted := true }
      if r.sighted then s
      else notify (.receiverSighted p.receiver (r.link.map HireLink.ticket) p.arrival) s
    | _ => s
  else s

/-! ## The intake (R106, R107) -/

/-- The four tests of R106. Test 1 takes the CRC of R186. -/
def reportPasses (s : State) (r : ReportBytes) : Bool :=
  crc16 r.covered == r.crc && decide (r.receiver.toNat < Config.receiverCount) && decide (r.battery.toNat ≤ 15) &&
    s.ret.hallCode != 0 && s.ret.hallCode == r.hall &&
    inService (s.receiver r.receiver.toNat) && (s.receiver r.receiver.toNat).serial == some r.serial

def intakeReport (r : ReportBytes) (s : State) : State :=
  let s := { s with gen.intakeFraming := .between }
  if reportPasses s r && decide (s.gen.intake.length < Config.intakeMax) then
    { s with gen.intake :=
        s.gen.intake ++ [⟨r.receiver.toNat, r.serial, r.tag.toNat, r.battery.toNat, s.clock⟩] }
  else s

/-! ## Console requests of the register (section 7.2): the outcome and the state -/

/-- RECEIVER_ENROL (R102). -/
def enrol (number : Half) (serial : Word) (s : State) : Answer × State :=
  match receiverOf number with
  | none => (.badArg, s)
  | some n =>
    if inService (s.receiver n) || serialInUse s n (some serial) then (.inUse, s)
    else (.done, s.setReceiver n { Receiver.unenrolled with serial := some serial, state := .stock })

/-- RECEIVER_WITHDRAW (R103). -/
def withdraw (number : Half) (s : State) : Answer × State :=
  match receiverOf number with
  | none => (.badArg, s)
  | some n =>
    let r := s.receiver n
    if r.state = .stock ∨ (r.state = .lost ∧ r.link = none) then
      (.done, s.setReceiver n { r with state := .withdrawn, astray := false, sighted := false })
    else (.wrongState, s)

/-- RECEIVER_REINSTATE (R104). -/
def reinstate (number : Half) (s : State) : Answer × State :=
  match receiverOf number with
  | none => (.badArg, s)
  | some n =>
    let r := s.receiver n
    if r.state = .withdrawn then
      if serialInUse s n r.serial then (.inUse, s) else (.done, s.setReceiver n { r with state := .stock })
    else (.wrongState, s)

/-- RECEIVER_CLEAR_FLAGS (R104). A record whose flags are already clear is left as it is. -/
def clearFlags (number : Half) (s : State) : Answer × State :=
  match receiverOf number with
  | none => (.badArg, s)
  | some n =>
    let r := s.receiver n
    if r.astray || r.sighted then (.done, s.setReceiver n { r with astray := false, sighted := false })
    else (.done, s)

end Sys2Proof.Machine
end

