-- ==== Sys2Proof/Machine/Hires.lean ====
section
/-! DEFINITION. The hire table (chapter 8): tickets, lines, and the due alarm. A request's result is its outcome, its
payload and the state. -/

namespace Sys2Proof.Machine
open Sys2Proof

/-- The outcome of a request that its owning block takes whole: the answer, the payload, the state. -/
abbrev Result := Answer × List Byte × State

def raiseCount (h : Hire) : Hire := { h with changeCount := wrapNext Config.countMax h.changeCount }

/-! ## Opening a hire -/

def ticketAfter (t : Nat) : Nat := if t < Config.smallMax then t + 1 else 1

/-- The first ticket from `t` on, round from 65,535 to 1, that no open hire holds (R122). At most as many tickets are
in use as there are hires, so `tries` = the number of hires is enough. -/
def freeTicket (hires : Table Hire) : Nat → Nat → Nat
  | 0, t => t
  | tries + 1, t => if (hires.find? t).isSome then freeTicket hires tries (ticketAfter t) else t

/-- HIRE_OPEN (R122, R123), counted in an OPEN session (R166). -/
def openHire (p : Port) (classByte : Byte) (deposit : Word) (due : Option Word) (s : State) : Result :=
  match classOf classByte with
  | none => (.badArg, [], s)
  | some k =>
    if (s.tariff k).terms.isNone then (.wrongState, [], s)
    else if Config.hireMax ≤ s.ret.hires.length then (.full, [], s)
    else
      let ticket := freeTicket s.ret.hires s.ret.hires.length s.ret.nextTicket
      let dueTime := due.map BitVec.toNat
      let hire : Hire := ⟨k, deposit.toNat, p, s.clock, dueTime, false, 0, []⟩
      let s := s.setHire ticket hire
      let s := { s with ret.nextTicket := ticketAfter ticket }
      let s :=
        if s.ret.session.state = .opened then
          { s with ret.counters.opened := holdAdd Config.countMax s.ret.counters.opened 1 }
        else s
      (.done, u16 ticket ++ u32 hire.openTime ++ optField 4 dueTime, s)

/-! ## Issue, return, loss -/

/-- ISSUE (R124, R125). -/
def issueReceiver (ticket number : Half) (s : State) : Result :=
  match ticketOf ticket, receiverOf number with
  | some t, some n =>
    match s.hire? t with
    | none => (.notFound, [], s)
    | some h =>
      let r := s.receiver n
      match r.state with
      | .unenrolled | .withdrawn => (.notFound, [], s)
      | .hired | .lost => (.wrongState, [], s)
      | .stock =>
        if Config.lineMax ≤ h.lines.length then (.full, [], s)
        else
          let i := h.lines.length
          let h := raiseCount { h with lines := h.lines ++ [⟨n, s.clock, none, .out, 0⟩] }
          let r :=
            { r with state := .hired, link := some ⟨t, i⟩, tuned := none, astray := false,
                     hireCount := holdAdd Config.smallMax r.hireCount 1 }
          (.done, u16 t ++ u8 i ++ u32 s.clock ++ u32 h.changeCount, (s.setHire t h).setReceiver n r)
  | _, _ => (.badArg, [], s)

/-- The line a link names, in its hire. -/
def linkedLine (s : State) (link : HireLink) : Option (Hire × Line) :=
  (s.hire? link.ticket).bind (fun h => (h.lines[link.line]?).map (fun l => (h, l)))

/-- Ends the OUT line of a HIRED receiver with the state given, its credit closed first (R116, R126, R129), and raises
the change count. -/
def endLine (n : Nat) (link : HireLink) (state : LineState) (s : State) : State :=
  let s := closeCredit n s
  match s.hire? link.ticket with
  | none => s
  | some h =>
    s.setHire link.ticket
      (raiseCount (updateLine h link.line (fun l => { l with state := state, ended := some s.clock })))

/-- The fields of a line that a RETURN or LOST response carries: end time, then credit (R126, R127). -/
def endField (s : State) (link : HireLink) : List Byte :=
  match linkedLine s link with
  | some (_, l) => u32 (l.ended.getD 0)
  | none => u32 0

def creditField (s : State) (link : HireLink) : List Byte :=
  match linkedLine s link with
  | some (_, l) => u32 l.credit
  | none => u32 0

def firmField (s : State) (link : HireLink) : List Byte :=
  match s.hire? link.ticket with
  | some h => flag (firm h)
  | none => flag true

/-- RETURN of a HIRED receiver (R126). -/
def returnHired (n : Nat) (link : HireLink) (s : State) : Result :=
  let s := endLine n link .back s
  let s := s.setReceiver n { s.receiver n with state := .stock, link := none }
  (.done, u16 n ++ u16 link.ticket ++ u8 link.line ++ endField s link ++ creditField s link ++ firmField s link, s)

/-- RETURN of a LOST receiver with a hire link (R127). -/
def reverseLoss (n : Nat) (link : HireLink) (s : State) : Result :=
  let s :=
    match s.hire? link.ticket with
    | none => s
    | some h => s.setHire link.ticket (raiseCount (updateLine h link.line (fun l => { l with state := .back })))
  let s := s.setReceiver n { s.receiver n with state := .stock, link := none, sighted := false }
  (.done, u16 n ++ u16 link.ticket ++ u8 link.line ++ endField s link ++ creditField s link, s)

/-- RETURN of a LOST receiver with no hire link (R128). -/
def foundAfterClose (p : Port) (n : Nat) (s : State) : Result :=
  let r := s.receiver n
  let s := s.setReceiver n { r with state := .stock, sighted := false }
  (.done, u16 n, notify (.foundAfterClose n (r.serial.getD 0) r.lastHeard p) s)

/-- RETURN (R126 to R128). -/
def returnOf (p : Port) (number : Half) (s : State) : Result :=
  match receiverOf number with
  | none => (.badArg, [], s)
  | some n =>
    let r := s.receiver n
    match r.state, r.link with
    | .unenrolled, _ | .withdrawn, _ => (.notFound, [], s)
    | .stock, _ => (.wrongState, [], s)
    | .hired, some link => returnHired n link s
    | .hired, none => (.wrongState, [], s)
    | .lost, some link => reverseLoss n link s
    | .lost, none => foundAfterClose p n s

/-- LOST (R129). -/
def loseReceiver (number : Half) (s : State) : Result :=
  match receiverOf number with
  | none => (.badArg, [], s)
  | some n =>
    match (s.receiver n).state, (s.receiver n).link with
    | .hired, some link =>
      let s := endLine n link .lost s
      let s := s.setReceiver n { s.receiver n with state := .lost, sighted := false }
      (.done, u16 n ++ u16 link.ticket ++ u8 link.line ++ endField s link, s)
    | _, _ => (.wrongState, [], s)

/-! ## Deposit and due time -/

/-- DEPOSIT_ADJUST (R131). -/
def adjustDeposit (ticket : Half) (minus : Bool) (magnitude : Word) (s : State) : Result :=
  match ticketOf ticket with
  | none => (.badArg, [], s)
  | some t =>
    match s.hire? t with
    | none => (.notFound, [], s)
    | some h =>
      let m := magnitude.toNat
      if (minus ∧ h.deposit < m) ∨ (!minus ∧ Config.amountLimit < h.deposit + m) then (.badArg, [], s)
      else
        let h := raiseCount { h with deposit := if minus then h.deposit - m else h.deposit + m }
        (.done, u32 h.deposit ++ u32 h.changeCount, s.setHire t h)

/-- A hire is ready for the due alarm at clock `now` (R133). -/
def alarmReady (now : Nat) (h : Hire) : Bool :=
  !h.overdue && (match h.due with | some d => decide (d ≤ now) | none => false) && decide (0 < outLines h)

/-- A hire becomes overdue, with its HIRE_OVERDUE notice (R133, R135). -/
def becomeOverdue (t : Nat) (h : Hire) (s : State) : State :=
  notify (.hireOverdue t (h.due.getD 0) (outLines h) h.openedBy) (s.setHire t { h with overdue := true })

/-- HIRE_DUE (R132). -/
def setDue (ticket : Half) (due : Option Word) (s : State) : Result :=
  match ticketOf ticket with
  | none => (.badArg, [], s)
  | some t =>
    match s.hire? t with
    | none => (.notFound, [], s)
    | some h =>
      let h := { h with due := due.map BitVec.toNat, overdue := false }
      let late := alarmReady s.clock h
      let s := s.setHire t h
      (.done, optField 4 h.due ++ flag late, if late then becomeOverdue t h s else s)

/-- The due alarm of one second event: every hire that is ready becomes overdue, in ascending ticket order (R133). -/
def dueAlarm (s : State) : State :=
  s.ret.hires.foldl (fun s e => if alarmReady s.clock e.2 then becomeOverdue e.1 e.2 s else s) s

/-- The removal of a hire at the commit of its close (R138): every receiver LOST with a link to it loses the link. -/
def removeHire (t : Nat) (s : State) : State :=
  { s with
    ret.hires := s.ret.hires.remove t
    ret.receivers := s.ret.receivers.map (fun e =>
      if e.2.state = .lost ∧ e.2.link.map HireLink.ticket = some t then (e.1, { e.2 with link := none }) else e) }

end Sys2Proof.Machine
end

