-- ==== Sys2Proof/Machine/Accounting.lean ====
section
/-! DEFINITION. The accounting unit (chapter 10): the job queue, quotes and closes, the accounts, the session and the
statement. -/

namespace Sys2Proof.Machine
open Sys2Proof

/-! ## The work copy -/

/-- The open part of an OUT line's credit (R140, R141). -/
def openPart (s : State) (l : Line) : Nat :=
  match (s.receiver l.receiver).tuned with
  | none => 0
  | some t => (s.slot t.slot).u - t.mark

/-- The credit to date of a line (R141). -/
def creditToDate (s : State) (l : Line) : Nat :=
  if l.state = .out then creditUpTo l (openPart s l) s.clock else l.credit

def copyLine (s : State) (l : Line) : CopyLine :=
  { receiver := l.receiver, state := l.state, issue := l.issue
    ended := if l.state = .out then s.clock else l.ended.getD s.clock
    credit := creditToDate s l }

/-- The work copy of a hire, taken in one instant (R158). -/
def workCopy (s : State) (ticket : Nat) (h : Hire) (terms : Terms) : WorkCopy :=
  { ticket := ticket, deposit := h.deposit, changeCount := h.changeCount, tariffClass := h.tariffClass, terms := terms
    generation := (s.tariff h.tariffClass).generation, time := s.clock, lines := h.lines.map (copyLine s) }

/-! ## The statement (R168) -/

def statementLanguages (s : State) : List StatementLang :=
  (List.finRange 32).filterMap (fun k =>
    let l := s.slot k
    l.channel.map (fun c =>
      { slot := k, tag := (l.name.map LangName.tag).getD 0, label := (l.name.map LangName.label).getD [], channel := c
        covered := l.v - l.vMark, uncovered := l.u - l.uMark, peak := s.ret.peaks.get k
        listeners := s.ret.listeners.get k }))

def statementSeats (s : State) : List StatementSeat :=
  (List.finRange 32).flatMap (fun b =>
    match s.boothSettings b with
    | none => []
    | some k => ((List.finRange 3).filter (fun i => decide (i.val < k.seats))).map (fun i => ⟨b, i, s.acc b i⟩))

/-- The statement copy (R168), with the state it is to show. -/
def statementCopy (state : SessionState) (s : State) : Statement :=
  { number := s.ret.session.number, state := state, openTime := s.ret.session.openTime.getD 0, time := s.clock
    counters := s.ret.counters, languages := statementLanguages s, seats := statementSeats s }

/-! ## The start of a job (R156) -/

def startQuote (p : Port) (ticket : Half) (first : Byte) (s : State) : State :=
  match ticketOf ticket, fromZero Config.lineMax first.toNat with
  | some t, some _ =>
    match s.hire? t with
    | none => finish p .notFound [] s
    | some h =>
      match (s.tariff h.tariffClass).terms with
      | none => finish p .wrongState [] s
      | some terms => { s with gen.flight := some ⟨p, .quote ticket first, workCopy s t h terms⟩ }
  | _, _ => finish p .badArg [] s

/-- The start of a CLOSE, its checks in the order of R160. -/
def startClose (p : Port) (a : CloseArgs) (s : State) : State :=
  match ticketOf a.ticket, fromZero Config.lineMax a.first.toNat, conditionOf a.condition with
  | some t, some _, some _ =>
    match s.hire? t with
    | none => finish p .notFound [] s
    | some h =>
      if !firm h then finish p .wrongState [] s
      else
        match (s.tariff h.tariffClass).terms with
        | none => finish p .wrongState [] s
        | some terms =>
          if a.changeCount.toNat ≠ h.changeCount ∨ a.generation.toNat ≠ (s.tariff h.tariffClass).generation then
            finish p .stale [] s
          else { s with gen.flight := some ⟨p, .close a, workCopy s t h terms⟩ }
  | _, _, _ => finish p .badArg [] s

/-- A SNAPSHOT starts and completes (R168). -/
def startSnapshot (p : Port) (s : State) : State :=
  if s.ret.session.state = .opened then
    let t := statementCopy .opened s
    finish p .done (u32 t.time ++ u8 t.languages.length ++ u8 t.seats.length) { s with gen.snapshot := some t }
  else finish p .wrongState [] s

/-- A SESSION_CLOSE starts and completes (R167). -/
def startSessionClose (p : Port) (s : State) : State :=
  if s.ret.session.state = .opened then
    let t := statementCopy .closed s
    let s :=
      { s with
        gen.snapshot := some t
        ret.session := { s.ret.session with state := .closed, closeTime := some s.clock } }
    finish p .done (u16 t.number ++ u32 t.openTime ++ u32 s.clock) s
  else finish p .wrongState [] s

/-- The unit starts its oldest job, when none is in flight (R155, R156). -/
def startJob (s : State) : State :=
  match s.gen.flight, s.gen.jobs with
  | none, j :: rest =>
    let s := { s with gen.jobs := rest }
    match j.request with
    | .quote ticket first => startQuote j.port ticket first s
    | .close args => startClose j.port args s
    | .snapshot => startSnapshot j.port s
    | .sessionClose => startSessionClose j.port s
  | _, _ => s

/-! ## Completion -/

/-- The completion of a QUOTE (R158). -/
def completeQuote (s : State) : State :=
  match s.gen.flight with
  | some ⟨p, .quote _ first, w⟩ =>
    finish p .done (quoteRecord w first.toNat 0) { s with gen.flight := none }
  | _ => s

/-- The accounts totals raised by one commit (R162, R164). -/
def raiseAccounts (p : Port) (deposit : Nat) (h : HireCharge) (a : Accounts) : Accounts :=
  let owed := if h.flags.settlement = .owed then h.amount else 0
  let refund := if h.flags.settlement = .refund then h.amount else 0
  let t := a.ports.get p
  { hiresClosed := raiseTotal a.hiresClosed 1
    timeCharges := raiseTotal a.timeCharges h.time
    lossFees := raiseTotal a.lossFees h.fee
    depositsApplied := raiseTotal a.depositsApplied deposit
    collected := raiseTotal a.collected owed
    refunded := raiseTotal a.refunded refund
    ports := a.ports.set p ⟨raiseTotal t.closes 1, raiseTotal t.collected owed, raiseTotal t.refunded refund⟩ }

/-- The session hire counters raised by one commit (R162, R166). -/
def raiseCounters (h : HireCharge) (k : SessionCounters) : SessionCounters :=
  { k with
    closed := holdAdd Config.countMax k.closed 1
    collected := raiseTotal k.collected (if h.flags.settlement = .owed then h.amount else 0)
    refunded := raiseTotal k.refunded (if h.flags.settlement = .refund then h.amount else 0) }

/-- The commit of a CLOSE by port `p`, one event (R162). -/
def commitClose (p : Port) (w : WorkCopy) (s : State) : State :=
  let h := hireCharge w
  let s := { s with ret.accounts := raiseAccounts p w.deposit h s.ret.accounts }
  let s :=
    if s.ret.session.state = .opened then { s with ret.counters := raiseCounters h s.ret.counters } else s
  let s := removeHire w.ticket s
  notifyExcept (some p)
    (.hireClosed w.ticket p h.total h.flags.settlement h.amount (w.lines.countP (fun l => l.state == .lost))) s

/-- Does the hire still stand as the work copy holds it (R161)? -/
def tokenCurrent (s : State) (w : WorkCopy) : Bool :=
  match s.hire? w.ticket with
  | none => false
  | some h => h.changeCount == w.changeCount && (s.tariff w.tariffClass).generation == w.generation

/-- The completion of a CLOSE (R161, R162). -/
def completeClose (s : State) : State :=
  match s.gen.flight with
  | some ⟨p, .close a, w⟩ =>
    let s := { s with gen.flight := none }
    let payload (committed : Bool) := flag committed ++ quoteRecord w a.first.toNat 1
    if !tokenCurrent s w then finish p .stale (payload false) s
    else if !((conditionOf a.condition).any (fun k => conditionHolds k (hireCharge w).flags)) then
      finish p .conditionFalse (payload false) s
    else finish p .done (payload true) (commitClose p w s)
  | _ => s

/-! ## Requests taken whole (R155) -/

/-- TARIFF_SET (R143). -/
def setTariff (classByte : Byte) (a : TariffArgs) (s : State) : Result :=
  match classOf classByte with
  | none => (.badArg, [], s)
  | some k =>
    let inRange := 60 ≤ a.quantum.toNat ∧ a.quantum.toNat ≤ 14400 ∧ a.grace.toNat ≤ 3600 ∧ a.rate.toNat ≤ 65535
    if a.defined ∧ ¬inRange then (.badArg, [], s)
    else
      let generation := wrapNext Config.smallMax (s.tariff k).generation
      let terms : Option Terms :=
        if a.defined then
          some ⟨a.quantum.toNat, a.grace.toNat, a.rate.toNat, a.dayCap.toNat, a.lossFee.toNat⟩
        else none
      let s := { s with ret.tariffs := s.ret.tariffs.set k ⟨terms, generation⟩ }
      (.done, u8 k.val ++ u16 generation, notify (.tariffChanged k generation a.defined) s)

/-- SESSION_OPEN (R165, R30, R54, R114, R166). -/
def openSession (s : State) : Result :=
  if s.ret.session.state = .opened then (.wrongState, [], s)
  else
    let number := if s.ret.session.number < Config.smallMax then s.ret.session.number + 1 else 1
    let s :=
      { s with
        ret.session := ⟨.opened, number, some s.clock, none⟩
        ret.slots := s.ret.slots.map (fun k => { k with uMark := k.u, vMark := k.v })
        ret.peaks := s.ret.listeners
        ret.seatAcc := Bank.fill 32 (Bank.fill 3 SeatAcc.zero)
        ret.counters := SessionCounters.zero }
    (.done, u16 number ++ u32 s.clock, s)

def isStatementJob : JobRequest → Bool
  | .snapshot | .sessionClose => true
  | _ => false

/-- A SNAPSHOT or SESSION_CLOSE job of any port waits in the queue or is in flight (R169; log 9). -/
def statementPending (s : State) : Bool :=
  s.gen.jobs.any (fun j => isStatementJob j.request) || s.gen.flight.any (fun f => isStatementJob f.request)

/-- The size of an entry of a statement section and its entries (section 12.5, R188). -/
def sectionEntries (t : Statement) (part : Byte) : Option (Nat × List (List Byte)) :=
  match part.toNat with
  | 0 => some (31, [summaryEntry t])
  | 1 => some (29, t.languages.map statementLangEntry)
  | 2 => some (8, t.seats.map statementSeatEntry)
  | _ => none

/-- SNAPSHOT_READ (R169). DESIGN CHOICE (log 39): a read taken between the acceptance of a SNAPSHOT or SESSION_CLOSE and its
start is answered BUSY, as R169's third sentence on such a job says, though its last two have a read that is taken before
the start return the old copy. Here only a read taken before the acceptance returns the old copy. -/
def readSnapshot (part start count : Byte) (s : State) : Answer × List Byte :=
  if 2 < part.toNat then (.badArg, [])
  else if statementPending s then (.busy, [])
  else
    match s.gen.snapshot with
    | none => (.wrongState, [])
    | some t =>
      match sectionEntries t part with
      | none => (.badArg, [])
      | some (size, entries) =>
        let rest := entries.drop start.toNat
        let n := fits (Config.payloadMax - 7) size count.toNat rest.length
        (.done, u32 t.time ++ u16 t.number ++ u8 n ++ (rest.take n).flatten)

end Sys2Proof.Machine
end

