-- ==== Sys2Proof/Machine/Ports.lean ====
section
/-! DEFINITION. The port controllers (chapter 11): tables, subscriptions, fetching notices, and the resets of a port
and of the general domain (chapter 1). -/

namespace Sys2Proof.Machine
open Sys2Proof

/-! ## STATUS and READ_TABLE -/

/-- The payload of STATUS for the asking port (R174). -/
def statusPayload (p : Port) (s : State) : List Byte :=
  let k := s.port p
  u32 s.clock ++ u8 (sessionNum s.ret.session.state) ++ u16 s.ret.session.number ++ flag s.gen.override ++
    u8 s.queueDepth ++ u8 (restartNum s.gen.start.kind) ++ flag s.gen.start.cleared ++ u8 k.urgent.length ++
    u8 k.routine.length ++ flag k.overrun

/-- The payload of a table response: the number of entries returned, whether a further entry follows and its key, then
the entries (section 12.5). -/
def tablePayload (n : Nat) (next : Option Nat) (body : List Byte) : List Byte :=
  u8 n ++ flag next.isSome ++ u16 (next.getD 0) ++ body

/-- A table whose entries have the keys `lo..hi`, read from `start` (R175). -/
def readDense (lo hi size : Nat) (entry : Nat → List Byte) (start count : Nat) : List Byte :=
  let first := max lo start
  let avail := hi + 1 - first
  let n := fits (Config.payloadMax - 4) size count avail
  tablePayload n (if n < avail then some (first + n) else none)
    ((List.range n).flatMap (fun i => entry (first + i)))

/-- READ_TABLE HIRES: the open hires from the first ticket at or above the start (R139). -/
def readHires (s : State) (start count : Nat) : List Byte :=
  let rest := s.ret.hires.filter (fun e => decide (start ≤ e.1))
  let n := fits (Config.payloadMax - 4) 12 count rest.length
  tablePayload n ((rest.drop n).head?.map Prod.fst) ((rest.take n).flatMap (fun e => hiresEntry e.1 e.2))

/-- READ_TABLE HIRE: the record, then its lines from the line index given (R139). The entries counted are the lines
(log 21). -/
def readHire (ticket : Nat) (h : Hire) (start count : Nat) : List Byte :=
  let rest := h.lines.drop start
  let n := fits (Config.payloadMax - 4 - 23) 17 count rest.length
  tablePayload n (if n < rest.length then some (start + n) else none)
    (hireRecord ticket h ++ ((rest.take n).zipIdx start).flatMap (fun e => hireLineEntry e.2 e.1))

/-- An entry of a dense table: `f i` for the thing numbered `i` from 0. -/
def entryAt {k : Nat} (f : Fin k → List Byte) (i : Nat) : List Byte :=
  match fromZero k i with
  | some x => f x
  | none => []

def seatEntryAt (s : State) (i : Nat) : List Byte :=
  match fromZero 32 (i / 3), fromZero 3 (i % 3) with
  | some b, some k => seatEntry i (s.seat b k) (s.acc b k)
  | _, _ => []

/-- READ_TABLE (R175): the answer and the payload. -/
def readTableOf (s : State) (table : Byte) (start : Half) (count : Byte) (ticket : Half) : Answer × List Byte :=
  let a := start.toNat
  let n := count.toNat
  match table.toNat with
  | 0 => (.done, readDense 0 31 38
      (entryAt (fun k : Slot => languageEntry (s.slot k) (s.ret.listeners.get k) (s.ret.peaks.get k))) a n)
  | 1 => (.done, readDense 1 24 13 (fun i => entryAt (fun c : Chan => channelEntry (s.settings c) (s.chan c)) (i - 1)) a n)
  | 2 => (.done, readDense 1 32 23
      (fun i => entryAt (fun b : Booth => boothEntry (s.boothSettings b) (s.booth b)) (i - 1)) a n)
  | 3 => (.done, readDense 0 95 8 (seatEntryAt s) a n)
  | 4 => (.done, readDense 1 24 7 (fun i => entryAt (fun c : Chan => offerEntry c (s.offer c)) (i - 1)) a n)
  | 5 => (.done, readDense 0 4095 27 (fun i => receiverEntry i (s.receiver i)) a n)
  | 6 => (.done, readHires s a n)
  | 7 =>
    match s.hire? ticket.toNat with
    | none => (.notFound, [])
    | some h => (.done, readHire ticket.toNat h a n)
  | 8 => (.done, readDense 0 7 18 (entryAt (fun k : TClass => tariffEntry k (s.tariff k))) a n)
  | 9 => (.done, readDense 0 0 90 (fun _ => accountsEntry s.ret.accounts) a n)
  | _ => (.badArg, [])

/-! ## Subscriptions and notices -/

/-- SUBSCRIBE (R176): bit 15 names no kind; RESTARTED, bit 0, is left out of the set applied. -/
def subscribeTo (p : Port) (kinds : Half) (s : State) : Result :=
  if kinds.msb then (.badArg, [], s)
  else
    let applied := kinds &&& 0x7FFE#16
    (.done, u16 applied.toNat, s.setPort p { s.port p with subscriptions := applied })

/-- Takes the next notice off the port's queues, with the overrun indication it carries; delivering it clears the
marker (R178, R179). -/
def fetchNotice (p : Port) (s : State) : Option (List Byte × State) :=
  (nextNotice (s.port p)).map (fun e =>
    (noticeBytes e.1 (s.port p).overrun, s.setPort p { e.2 with overrun := false }))

/-- NOTICE_FETCH (R179). -/
def noticeFetchOf (p : Port) (tag : Byte) (s : State) : State :=
  match fetchNotice p s with
  | some (bytes, s) => answer p tag .done bytes s
  | none => answer p tag .empty [] s

/-- NOTICE_WAIT (R180): a timeout of 0 is clamped to 1. -/
def noticeWaitOf (p : Port) (tag timeout : Byte) (s : State) : State :=
  let t := max 1 timeout.toNat
  match fetchNotice p s with
  | some (bytes, s) => answer p tag .done (u8 t ++ bytes) s
  | none => s.setPort p { s.port p with inProgress := some ⟨.noticeWait, tag, some ⟨t, t⟩⟩ }

/-- The response that ends a pending NOTICE_WAIT with no notice: EMPTY (R180) or CANCELLED (R181). -/
def endWait (p : Port) (a : Answer) (s : State) : State :=
  match (s.port p).inProgress with
  | some ⟨_, _, some w⟩ => finish p a (u8 w.applied) s
  | _ => s

/-- Remaining seconds of a pending NOTICE_WAIT at a second event (R180). -/
def countWait (k : PortState) : PortState :=
  match k.inProgress with
  | some ⟨c, t, some w⟩ => { k with inProgress := some ⟨c, t, some { w with remaining := w.remaining - 1 }⟩ }
  | _ => k

/-! ## Resets -/

/-- The accounting jobs of a port are abandoned (R11, R157). -/
def abandonJobs (p : Port) (s : State) : State :=
  { s with
    gen.jobs := s.gen.jobs.filter (fun j => j.port != p)
    gen.flight := s.gen.flight.filter (fun f => f.port != p) }

/-- A port reset (R11, R170, R183): its RESTARTED notice of kind PORT is the only notice left. -/
def portReset (p : Port) (s : State) : State :=
  (abandonJobs p s).setPort p (PortState.restarted p s.clock .port false)

/-- The live state of a channel after a general reset (R26). -/
def chanAfterReset (k : ChanSettings) : ChanLive :=
  match k.slot with
  | none => ⟨.unassigned, none, .silent, 0, false⟩
  | some _ => ⟨.holding, none, k.fallback.source, k.gapHold, false⟩

/-- The general domain as a general reset leaves it, before its notices, orders, directory and start record; it also
stands for a general domain that has lost its power (R8; log 18). -/
def General.quiet (r : Retained) : General where
  chans := r.plan.map chanAfterReset
  override := false
  dirSending := none
  dirPending := false
  dirCount := 0
  routeSending := none
  routeList := []
  booths := r.booths.map BoothLive.afterReset
  offers := Bank.fill 24 none
  scanPos := none
  cycle := .idle
  intake := []
  intakeFraming := .between
  jobs := []
  flight := none
  snapshot := none
  start := ⟨.power, false⟩
  ports := ⟨PortState.afterReset .console, PortState.afterReset .desk1, PortState.afterReset .desk2⟩
  due := []

/-- A port held in reset: its request in progress and what it sends are abandoned, and a frame half received is discarded
(R9, R171). -/
def PortState.stopped (k : PortState) : PortState :=
  { k with inProgress := none, framing := .between, transmit := [] }

/-- The general domain held in reset, before the reset completes: the route, directory and booth lines carry nothing, with
no order waiting and no poll cycle; the jobs and the ports' requests are abandoned; frames and reports half received are
discarded (R9, R10, R32, R33, R100, R107). The rest stands as it was (R68; log 18). -/
def General.stopped (g : General) : General :=
  { g with
    dirSending := none, dirPending := false, routeSending := none, routeList := [], cycle := .idle
    intakeFraming := .between, jobs := [], flight := none
    ports := ⟨g.ports.console.stopped, g.ports.desk1.stopped, g.ports.desk2.stopped⟩ }

/-- A port when a general reset completes: its RESTARTED notice (R12), or that of the port reset that a break still
present causes (R11). -/
def portAtCompletion (s : State) (kind : RestartKind) (cleared : Bool) (p : Port) : PortState :=
  if s.breaks.get p then PortState.restarted p s.clock .port false else PortState.restarted p s.clock kind cleared

/-- The general reset (R8 to R12), completed: the quiet general domain, RESTARTED on each port, the full set of route
orders, the directory with its sequence advanced by 1 where the reset is no part of a full reset (R31), and the
start record. -/
def generalReset (kind : RestartKind) (cleared : Bool) (s : State) : State :=
  let s := { s with gen := General.quiet s.ret }
  let s := { s with
    gen.ports := ⟨portAtCompletion s kind cleared .console, portAtCompletion s kind cleared .desk1,
      portAtCompletion s kind cleared .desk2⟩ }
  let s := placeAll (fullSet s) s
  let s := if cleared then s else { s with ret.dirSeq := wrapNext Config.smallMax s.ret.dirSeq }
  let s := dirBegin s
  { s with gen.start := ⟨kind, cleared⟩ }

end Sys2Proof.Machine
end

