-- ==== Sys2Proof/Machine/Timing.lean ====
section
/-! DEFINITION. Second events, the expiries they bring, and the two ways in: an event of the general domain, and a
request frame on a port. -/

namespace Sys2Proof.Machine
open Sys2Proof

abbrev Out := Host.Outcome State Fault Refusal

/-! ## Expiries -/

/-- The gap hold of `c` expires if it has run out (R24). -/
def expireHold (c : Chan) (s : State) : State :=
  if (s.chan c).coverage = .holding ∧ (s.chan c).remaining = 0 then uncover c s else s

/-- One expiry of the second event just counted is taken by its block. Each looks at its item again, since a notice may
have ended a wait, and a change of content may have begun a send, in the meantime. An expiry that a command names is one
event of R31 by itself (log 36, DESIGN CHOICE). -/
def runDue (d : Due) (s : State) : State :=
  match d with
  | .gapHold c => event (expireHold c) s
  | .offer c =>
    match s.offer c with
    | some o => if o.remaining = 0 then event (expireOffer c o) s else s
    | none => s
  | .directory => if Config.directoryRepeat ≤ s.gen.dirCount then dirDue { s with gen.dirCount := 0 } else s
  | .alarm => dueAlarm s
  | .wait p =>
    match (s.port p).inProgress with
    | some ⟨_, _, some w⟩ => if w.remaining = 0 then endWait p .empty s else s
    | _ => s

/-- The channel whose gap hold an expiry is. -/
def Due.hold? : Due → Option Chan
  | .gapHold c => some c
  | _ => none

/-- The gap holds that run out at one second event and that no command has named: one event of the plan unit, so the
directory sequence advances once for all of them (R24, R31; log 36). -/
def expireHolds (cs : List Chan) : State → State := event (fun s => cs.foldl (fun s c => expireHold c s) s)

/-- Every expiry not yet taken is taken: the gap holds, then the others, each in the order of the list (log 4, log 5). -/
def takeDue (s : State) : State :=
  (s.gen.due.filter (fun d => d.hold?.isNone)).foldl (fun s d => runDue d s)
    (expireHolds (s.gen.due.filterMap Due.hold?) { s with gen.due := [] })

/-- The step that takes the one expiry `d`; where it is not due, nothing happens (log 3). -/
def takeOne (d : Due) (s : State) : Out :=
  if s.running && s.gen.due.contains d then .next (runDue d { s with gen.due := s.gen.due.erase d }) else .next s

/-! ## Events of the general domain -/

/-- An event that the general domain takes while it is powered and out of reset, the expiries of the last second event
before it; otherwise it changes nothing (R6, R9, R10). -/
def taking (f : State → State) (s : State) : Out := if s.running then .next (f (takeDue s)) else .next s

/-! ## Request frames (R172, R173, R181) -/

/-- A frame with a good CRC on port `p`: none arrives in a break (R11); a pending NOTICE_WAIT ends CANCELLED first
(R181). -/
def frameArrives (p : Port) (f : State → State) (s : State) : Out :=
  taking (fun s =>
    if s.breaks.get p then s
    else f (endWait p .cancelled (s.setPort p { s.port p with framing := .between }))) s

/-- Tests 3 and 4 of R172, then the request itself. -/
def admitted (p : Port) (tag : Byte) (code : ReqCode) (body : State → State) (s : State) : State :=
  if (s.port p).inProgress.isSome then answer p tag .busy [] s
  else if code.console && p != .console then answer p tag .denied [] s
  else body s

/-- A request frame that passes tests 1, 2 and 5 of R172. -/
def request (p : Port) (tag : Byte) (code : ReqCode) (body : State → State) (s : State) : Out :=
  frameArrives p (admitted p tag code body) s

/-- A request that its owner takes whole, with its result (R173). -/
def respond (p : Port) (tag : Byte) (f : State → Result) (s : State) : State :=
  let r := f s
  answer p tag r.1 r.2.1 r.2.2

/-- The acceptance of an accounting job (R155): it stays the port's request in progress. -/
def acceptJob (p : Port) (tag : Byte) (code : ReqCode) (r : JobRequest) (s : State) : State :=
  let s := s.setPort p { s.port p with inProgress := some ⟨code, tag, none⟩ }
  { s with gen.jobs := s.gen.jobs ++ [⟨p, r⟩] }

/-! ## Second events (R1) -/

/-- Every block of the general domain counts one second event, each on the state before it (R24, R29, R32, R53, R68,
R180). -/
def countBlocks (s : State) : State :=
  let seatAcc := Bank.build (countOnAir s)
  let s := countSlots s
  { s with
    ret.seatAcc := seatAcc
    draws := s.draws + 1
    gen.chans := Bank.build (fun c => countHold (Config.turnEndMeets s.draws c) (s.chan c))
    gen.offers := s.gen.offers.map countOffer
    gen.dirCount := s.gen.dirCount + 1
    gen.ports := ⟨countWait s.gen.ports.console, countWait s.gen.ports.desk1, countWait s.gen.ports.desk2⟩ }

def waitOver (s : State) (p : Port) : Bool :=
  match (s.port p).inProgress with
  | some ⟨_, _, some w⟩ => w.remaining == 0
  | _ => false

/-- The expiries that the counts have brought, in the order in which they are taken if no command names one first
(log 5). -/
def dueNow (s : State) : List Due :=
  ((List.finRange 24).filter (fun c => (s.chan c).coverage == .holding && (s.chan c).remaining == 0)).map .gapHold ++
  ((List.finRange 24).filter (fun c => match s.offer c with | some o => o.remaining == 0 | none => false)).map .offer ++
  (if Config.directoryRepeat ≤ s.gen.dirCount then [.directory] else []) ++
  (if s.ret.hires.any (fun e => alarmReady s.clock e.2) then [.alarm] else []) ++
  ([Port.console, .desk1, .desk2].filter (waitOver s)).map .wait

/-- One advance of the hall clock and its second event (R1, R2). With the backup domain without power, or the clock
stopped at its maximum, there is none. -/
def tick (s : State) : State :=
  if s.supply = .none ∨ Config.countMax ≤ s.clock then s
  else
    let s := if s.running then takeDue s else s
    let s := { s with clock := s.clock + 1 }
    if s.running then
      let s := countBlocks s
      { s with gen.due := dueNow s }
    else s

end Sys2Proof.Machine
end

