-- ==== Sys2Proof/Machine/PlanRequests.lean ====
section
/-! DEFINITION. The meanings of the plan unit's requests (chapter 2) and of CLOCK_SET (R3). -/

namespace Sys2Proof.Machine
open Sys2Proof

/-- A request whose response carries no payload. -/
def bare (f : State → Answer × State) (s : State) : Result := ((f s).1, [], (f s).2)

/-- A request whose change to the plan or to coverage is one event, with its directory update (R31, R32). -/
def planned (f : State → Result) (s : State) : Result := ((f s).1, (f s).2.1, dirAfter s (f s).2.2)

/-! ## CLOCK_SET -/

/-- CLOCK_SET (R3): the clock is set while no hire is open and the session is not OPEN. -/
def setClock (value : Word) (s : State) : Result :=
  if s.ret.hires ≠ [] ∨ s.ret.session.state = .opened then (.inUse, [], s)
  else (.done, u32 value.toNat, { s with clock := value.toNat })

def execClockSet (p : Port) (tag : Byte) (value : Word) (s : State) : Out :=
  request p tag .clockSet (respond p tag (setClock value)) s

/-! ## Language slots -/

/-- Check 3 of R14. -/
def labelAllowed (label : List Byte) : Bool :=
  1 ≤ label.length && label.length ≤ 12 && label.all (fun b => 0x20 ≤ b.toNat && b.toNat ≤ 0x7E)

/-- Check 4 of R14: another defined slot holds the tag. -/
def tagHeld (s : State) (k : Slot) (tag : Nat) : Bool :=
  (List.finRange 32).any (fun j => j != k && (s.slot j).name.map LangName.tag == some tag)

/-- LANG_DEFINE (R14). -/
def defineLanguage (slot : Byte) (langTag : Half) (label : List Byte) (s : State) : Answer × State :=
  match slotOf slot with
  | none => (.badArg, s)
  | some k =>
    if langTag = 0 ∨ labelAllowed label = false then (.badArg, s)
    else if tagHeld s k langTag.toNat then (.inUse, s)
    else if (s.slot k).channel.isSome ∧ (s.slot k).name.map LangName.tag ≠ some langTag.toNat then (.inUse, s)
    else (.done, s.setSlot k { s.slot k with name := some ⟨langTag.toNat, label⟩ })

def execLangDefine (p : Port) (tag slot : Byte) (langTag : Half) (label : List Byte) (s : State) : Out :=
  request p tag .langDefine (respond p tag (planned (bare (defineLanguage slot langTag label)))) s

/-- LANG_REMOVE (R15). -/
def removeLanguage (slot : Byte) (s : State) : Answer × State :=
  match slotOf slot with
  | none => (.badArg, s)
  | some k =>
    if (s.slot k).name.isNone then (.notFound, s)
    else if (s.slot k).channel.isSome then (.inUse, s)
    else (.done, s.setSlot k { s.slot k with name := none })

def execLangRemove (p : Port) (tag slot : Byte) (s : State) : Out :=
  request p tag .langRemove (respond p tag (planned (bare (removeLanguage slot)))) s

/-! ## CHAN_ASSIGN -/

/-- The parameters of a CHAN_ASSIGN in their ranges, gap hold and offer time clamped (R17). -/
structure Assign where
  target : Chan
  slot : Option Slot
  policy : ClaimPolicy
  fallback : Fallback
  gapHold : Nat
  offerTime : Nat
deriving DecidableEq, Repr

/-- Check 1 of R17. -/
def assignOf (target : Byte) (a : AssignArgs) : Option Assign :=
  match chanOf target, slotOrNone a.slot, policyOf a.policy, fallbackOf a.fallback with
  | some t, some k, some policy, some fallback =>
    some ⟨t, k, policy, fallback, min Config.gapHoldMax a.gapHold.toNat,
      clamp Config.offerTimeMin Config.offerTimeMax a.offerTime.toNat⟩
  | _, _, _, _ => none

/-- The channel c of R17: the channel other than the target that carries the slot named before the request. -/
def movedFrom (s : State) (a : Assign) : Option Chan :=
  a.slot.bind (fun k => (s.slot k).channel.filter (fun c => c != a.target))

/-- Would channel `x` carry a slot after the request, its move applied (check 6 of R17)? -/
def carriesAfter (s : State) (a : Assign) (x : Chan) : Bool :=
  if x = a.target then a.slot.isSome else (s.settings x).slot.isSome && movedFrom s a != some x

/-- Does a channel that none of `except` is keep fallback CHANNEL of `x`? -/
def fallenBackTo (s : State) (except : List Chan) (x : Chan) : Bool :=
  (List.finRange 24).any (fun d => !except.contains d && (s.settings d).fallback == .channel x)

/-- The channels that the request would leave with no slot (check 9 of R17). -/
def leftEmpty (s : State) (a : Assign) : List Chan :=
  (if a.slot.isNone then [a.target] else []) ++ (movedFrom s a).toList

def chained : Fallback → Bool
  | .channel _ => true
  | _ => false

/-- Checks 2 to 9 of R17, in their order. -/
def assignFailure (s : State) (a : Assign) : Option Answer :=
  if a.slot.any (fun k => (s.slot k).name.isNone) then some .notFound
  else if (s.chan a.target).coverage = .covered then some .inUse
  else if (movedFrom s a).any (fun c => (s.chan c).coverage == .covered) then some .inUse
  else if a.fallback = .channel a.target then some .loop
  else if (match a.fallback with | .channel x => !carriesAfter s a x | _ => false) then some .notFound
  else if (match a.fallback with | .channel x => chained (s.settings x).fallback | _ => false) then some .loop
  else if chained a.fallback && fallenBackTo s [a.target] a.target then some .loop
  else if (leftEmpty s a).any (fun c => fallenBackTo s [c, a.target] c) then some .inUse
  else none

/-- A channel loses its slot: UNASSIGNED, no holder, no gap hold, route source SILENT; its other settings stay
(R16, R18, R19). No gap hold is stored and read as 0 remaining seconds (log 37, DEDUCED). -/
def clearChannel (c : Chan) (s : State) : State :=
  (s.setSettings c { s.settings c with slot := none }).setChan c ⟨.unassigned, none, .silent, 0, false⟩

/-- The slot a channel carried no longer names it. -/
def freeSlot (k : Slot) (s : State) : State := s.setSlot k { s.slot k with channel := none }

/-- Writes the target's settings, and its slot's channel with them (R13, R18). -/
def writeTarget (a : Assign) (s : State) : State :=
  let s := s.setSettings a.target ⟨a.slot, a.policy, a.fallback, a.gapHold, a.offerTime⟩
  match a.slot with
  | none => s
  | some k => s.setSlot k { s.slot k with channel := some a.target }

/-- The live state of the target after the request (the table of R18), by its slot before. -/
def targetLive (a : Assign) (before : Option Slot) (l : ChanLive) : ChanLive :=
  match a.slot with
  | none => ⟨.unassigned, none, .silent, 0, false⟩
  | some k =>
    if before = some k then
      if l.coverage = .uncovered then { l with source := a.fallback.source } else l
    else ⟨.holding, none, a.fallback.source, a.gapHold, false⟩

/-- The accepted request's writes to plan, slots and live state (R18, R19). -/
def assignWrites (a : Assign) (s : State) : State :=
  let old := (s.settings a.target).slot
  let moved := match movedFrom s a with | some c => clearChannel c s | none => s
  let freed := match old with | some k => if a.slot = some k then moved else freeSlot k moved | none => moved
  let written := writeTarget a freed
  written.setChan a.target (targetLive a old (s.chan a.target))

/-- What the accepted request hands on: the route orders (R33), the slot that left the plan (R20), the channel left by
the language (R19), and the target's new coverage (R27), with the expiry of a gap hold of 0 (R18). -/
def assignEffects (a : Assign) (before s : State) : State :=
  let old := (before.settings a.target).slot
  let s := match movedFrom before a with | some c => relayUnassigned c (routeAfter before c s) | none => s
  let s := routeAfter before a.target s
  let s := match old with | some k => if a.slot = some k then s else slotLeaves k s | none => s
  match a.slot with
  | none => relayUnassigned a.target s
  | some k =>
    if old = some k then s
    else
      let s := relayFollow a.target s
      if a.gapHold = 0 then uncover a.target s else s

def applyAssign (a : Assign) (s : State) : State := assignEffects a s (assignWrites a s)

/-- CHAN_ASSIGN (R17 to R20). -/
def assignChannel (target : Byte) (args : AssignArgs) (s : State) : Result :=
  match assignOf target args with
  | none => (.badArg, [], s)
  | some a =>
    match assignFailure s a with
    | some failure => (failure, [], s)
    | none => (.done, u8 a.gapHold ++ u8 a.offerTime, applyAssign a s)

def execChanAssign (p : Port) (tag target : Byte) (args : AssignArgs) (s : State) : Out :=
  request p tag .chanAssign (respond p tag (planned (assignChannel target args))) s

/-! ## OVERRIDE and ROUTE_REFRESH -/

/-- OVERRIDE (R28): a route order follows for every channel whose effective route changes. -/
def setOverride (on : Bool) (s : State) : State :=
  if s.gen.override = on then s
  else (List.finRange 24).foldl (fun t c => routeAfter s c t) { s with gen.override := on }

def execOverride (p : Port) (tag : Byte) (on : Bool) (s : State) : Out :=
  request p tag .override (respond p tag (planned (fun s => (.done, flag on, setOverride on s)))) s

/-- ROUTE_REFRESH (R34). -/
def execRouteRefresh (p : Port) (tag : Byte) (s : State) : Out :=
  request p tag .routeRefresh (respond p tag (fun s => (.done, [], placeAll (fullSet s) s))) s

end Sys2Proof.Machine
end

