-- ==== Sys2Proof/Machine/AccountRequests.lean ====
section
/-! DEFINITION. The meanings of the accounting unit's requests and of the points of its jobs (chapters 9 and 10). -/

namespace Sys2Proof.Machine
open Sys2Proof

/-! ## Requests taken whole -/

/-- TARIFF_SET (R143). -/
def execTariffSet (p : Port) (tag tariffClass : Byte) (args : TariffArgs) (s : State) : Out :=
  request p tag .tariffSet (respond p tag (setTariff tariffClass args)) s

/-- SNAPSHOT_READ (R169). -/
def execSnapshotRead (p : Port) (tag part start count : Byte) (s : State) : Out :=
  request p tag .snapshotRead
    (respond p tag (fun s => ((readSnapshot part start count s).1, (readSnapshot part start count s).2, s))) s

/-- SESSION_OPEN (R165). -/
def execSessionOpen (p : Port) (tag : Byte) (s : State) : Out :=
  request p tag .sessionOpen (respond p tag openSession) s

/-- ACCOUNTS_CLEAR (R164). -/
def execAccountsClear (p : Port) (tag : Byte) (s : State) : Out :=
  request p tag .accountsClear (respond p tag (fun s => (.done, [], { s with ret.accounts := Accounts.zero }))) s

/-! ## Jobs -/

/-- QUOTE is accepted as a job (R155, R158). -/
def execQuote (p : Port) (tag : Byte) (ticket : Half) (first : Byte) (s : State) : Out :=
  request p tag .quote (acceptJob p tag .quote (.quote ticket first)) s

/-- CLOSE is accepted as a job (R155, R160). -/
def execClose (p : Port) (tag : Byte) (args : CloseArgs) (s : State) : Out :=
  request p tag .close (acceptJob p tag .close (.close args)) s

/-- SNAPSHOT is accepted as a job (R155, R168). -/
def execSnapshot (p : Port) (tag : Byte) (s : State) : Out :=
  request p tag .snapshot (acceptJob p tag .snapshot .snapshot) s

/-- SESSION_CLOSE is accepted as a job (R155, R167). -/
def execSessionClose (p : Port) (tag : Byte) (s : State) : Out :=
  request p tag .sessionClose (acceptJob p tag .sessionClose .sessionClose) s

/-- JOB_START (R155, R156): a SNAPSHOT or a SESSION_CLOSE starts and completes in it (log 9). -/
def execJobStart (s : State) : Out := taking startJob s

/-- QUOTE_COMPLETION (R158). -/
def execQuoteCompletion (s : State) : Out := taking completeQuote s

/-- CLOSE_COMPLETION (R161, R162). -/
def execCloseCompletion (s : State) : Out := taking completeClose s

end Sys2Proof.Machine
end

