-- ==== Sys2Proof/Machine/BoothLine.lean ====
section
/-! DEFINITION. The meanings of the booth line's commands (chapter 6) and of the button events handed on from a reply
(chapters 3 to 5). -/

namespace Sys2Proof.Machine
open Sys2Proof

/-! ## The scan -/

def configured (s : State) : List Booth := (List.finRange 32).filter (fun b => (s.boothSettings b).isSome)

/-- The booth polled next (R89): the lowest-numbered configured booth above the scan position, or the lowest. -/
def nextBooth (s : State) : Option Booth :=
  match s.gen.scanPos with
  | none => (configured s).head?
  | some at' =>
    match (configured s).find? (fun b => decide (at' < b)) with
    | some b => some b
    | none => (configured s).head?

/-- A poll of booth `b` begins: its tally is taken and its indication becomes none (step 1 and 2 of R90, R56). -/
def beginPoll (b : Booth) (k : BoothSettings) (s : State) : State :=
  let t := tallyOf s b k
  let s := indicate b none s
  { s with gen.scanPos := some b, gen.cycle := .sending b t false }

/-- A poll begins on an idle line, for the booth that is next at that moment. When it begins after a cycle has closed, or
after the BOOTH_SET that ends a scan of no booths, is the moment of POLL_START, and other commands may come before it,
where R89 polls the booth of that BOOTH_SET at once (log 38, DESIGN CHOICE). -/
def startPoll (s : State) : State :=
  match s.gen.cycle with
  | .idle =>
    match nextBooth s with
    | none => s
    | some b =>
      match s.boothSettings b with
      | none => s
      | some k => beginPoll b k s
  | _ => s

/-- A BOOTH_SET or BOOTH_CLEAR of `b` voids its poll cycle (R98); in the handing of events it closes it. -/
def voidCycle (b : Booth) (s : State) : State :=
  match s.gen.cycle with
  | .sending d t v => if d = b then { s with gen.cycle := .sending d t true } else { s with gen.cycle := .sending d t v }
  | .window d v => if d = b then { s with gen.cycle := .window d true } else { s with gen.cycle := .window d v }
  | .handing d _ => if d = b then { s with gen.cycle := .idle } else s
  | .idle => s

/-! ## Presence -/

/-- The seat of a booth that is live and its channel, as BOOTH_ABSENT names them (R97). -/
def liveNow (s : State) (b : Booth) : Option (Seat × Chan) :=
  match s.boothSettings b, liveSeat s b with
  | some k, some h => some (h, selectedChan k (s.booth b))
  | _, _ => none

/-- A booth becomes ABSENT (R96): the notice first, from the booth as it stands, then the loss of its seats. -/
def becomeAbsent (b : Booth) (cause : MissCause) (s : State) : State :=
  let l := s.booth b
  let live := liveNow s b
  let s := s.setBooth b { l with presence := .absent, misses := Config.missMax }
  let s := notify (.boothAbsent b l.presence cause l.lastGood (live.map Prod.fst) (live.map Prod.snd)) s
  seatLoss b s

/-- A miss on booth `b` (R93). -/
def miss (b : Booth) (cause : MissCause) (s : State) : State :=
  let l := s.booth b
  if l.presence = .pending ∨ l.presence = .present then
    if l.misses + 1 < Config.missMax then s.setBooth b { l with misses := l.misses + 1 }
    else becomeAbsent b cause s
  else s

/-- A good reply from booth `b` with its events (R94, R95): from a PRESENT booth the events are to be handed on; from a
PENDING or ABSENT one they are discarded, with BOOTH_PRESENT. -/
def goodReply (b : Booth) (events : List ReplyEvent) (s : State) : State :=
  let l := s.booth b
  let s := s.setBooth b { l with misses := 0, lastGood := some s.clock, presence := .present }
  if l.presence = .present then
    if events.isEmpty then s else { s with gen.cycle := .handing b events }
  else notify (.boothPresent b l.presence) s

/-- The end of an open window of booth `b`: the cycle closes, and what its reply or expiry does, unless it was voided
(R98; log 8). -/
def closeWindow (f : Booth → State → State) (s : State) : State :=
  match s.gen.cycle with
  | .window b voided =>
    let s := { s with gen.cycle := .idle }
    if voided then s else f b s
  | _ => s

/-- POLL_START (R89, R90). -/
def execPollStart (s : State) : Out := taking startPoll s

/-- POLL_SENT (R90): the reply window opens. -/
def execPollSent (s : State) : Out :=
  taking (fun s =>
    match s.gen.cycle with
    | .sending b _ voided => { s with gen.cycle := .window b voided }
    | _ => s) s

/-- BOOTH_REPLY (R91 to R96, R186). A reply ends with its 514th byte; without an open window its bytes are
discarded. -/
def execBoothReply (bytes : List Byte) (s : State) : Out :=
  taking (event (closeWindow (fun b s =>
    match classifyReply b (bytes.take Config.replyMax) with
    | .ok events => goodReply b events s
    | .error cause => miss b cause s))) s

/-- REPLY_WINDOW_EXPIRY (R91). -/
def execReplyWindowExpiry (s : State) : Out := taking (event (closeWindow (fun b s => miss b .noReply s))) s

/-! ## Button events -/

/-- The next event of the reply being handed on is taken, if it is the one named (R95; log 7). The event is taken whole
before the next, and the cycle closes with the last (R90). Events of a booth that has left PRESENT are discarded. -/
def handEvent (b : Booth) (e : ReplyEvent) (f : BoothSettings → State → State) (s : State) : State :=
  match s.gen.cycle with
  | .handing d (e' :: rest) =>
    if d = b ∧ e' = e then
      if (s.booth b).presence = .present then
        let s := { s with gen.cycle := if rest.isEmpty then .idle else .handing b rest }
        match s.boothSettings b with
        | some k => f k s
        | none => s
      else { s with gen.cycle := .idle }
    else s
  | _ => s

/-- An event of a seat: one that names a seat outside the booth's seat count is ignored (R40). -/
def seatEvent (b : Booth) (seat : Byte) (e : ReplyEvent)
    (f : Booth → BoothSettings → Seat → State → State) (s : State) : Out :=
  taking (event (handEvent b e (fun k s =>
    match seatOf k.seats seat with
    | some i => f b k i s
    | none => s))) s

/-- SEAT_ON (R41, R42, R59 to R62). -/
def execSeatOn (b : Booth) (seat : Byte) (s : State) : Out := seatEvent b seat (.seatOn seat) seatOnEvent s

/-- SEAT_OFF (R50, R66). -/
def execSeatOff (b : Booth) (seat : Byte) (s : State) : Out := seatEvent b seat (.seatOff seat) seatOffEvent s

/-- COUGH_DOWN (R47, R48). -/
def execCoughDown (b : Booth) (seat : Byte) (s : State) : Out := seatEvent b seat (.coughDown seat) coughDownEvent s

/-- COUGH_UP (R47, R48). -/
def execCoughUp (b : Booth) (seat : Byte) (s : State) : Out := seatEvent b seat (.coughUp seat) coughUpEvent s

/-- GIVE (R65). -/
def execGive (b : Booth) (seat : Byte) (s : State) : Out := seatEvent b seat (.give seat) giveEvent s

/-- OUTPUT_SELECT (R45, R46). -/
def execOutputSelect (b : Booth) (y : Side) (s : State) : Out :=
  taking (event (handEvent b (.outputSelect y) (fun k s => outputSelectEvent b k y s))) s

/-- RELAY_SELECT (R78). -/
def execRelaySelect (b : Booth) (channel : Byte) (s : State) : Out :=
  taking (event (handEvent b (.relaySelect channel) (fun k s => relaySelectEvent b k (relayParam channel) s))) s

/-! ## The collector line -/

/-- COLLECTOR_REPORT (R106, R107). -/
def execCollectorReport (r : ReportBytes) (s : State) : Out := taking (intakeReport r) s

/-- REPORT_TAKEN (R108): the register takes the oldest buffered report. -/
def execReportTaken (s : State) : Out :=
  taking (fun s =>
    match s.gen.intake with
    | [] => s
    | p :: rest => takeReport p { s with gen.intake := rest }) s

end Sys2Proof.Machine
end

