-- ==== Sys2Proof/Machine/BoothRequests.lean ====
section
/-! DEFINITION. The meanings of the booth unit's requests (chapters 3 and 5). -/

namespace Sys2Proof.Machine
open Sys2Proof

/-! ## BOOTH_SET -/

/-- Output B as a parameter: NONE or a channel. The outer `none` is a value out of range. -/
def outputBOf : Option Byte → Option (Option Chan)
  | none => some none
  | some b => (chanOf b).map some

/-- Checks 1 and 2 of R36, with the offer time clamped. -/
def boothSettingsOf (a : BoothArgs) : Option BoothSettings :=
  match fromOne 3 a.seats.toNat, chanOf a.outputA, outputBOf a.outputB, modeOf a.mode, autoFloorOf a.autoFloor with
  | some _, some outputA, some outputB, some mode, some autoFloor =>
    if outputB = some outputA then none
    else some ⟨a.seats.toNat, outputA, outputB, mode,
      clamp Config.offerTimeMin Config.offerTimeMax a.offerTime.toNat, autoFloor⟩
  | _, _, _, _, _ => none

/-- The relay graph with booth `b` set to `k`, listening to the floor, and every booth whose chosen channel is then
produced by no configured booth set to FLOOR (check 4 of R36, R81). -/
def arcsWithBooth (s : State) (b : Booth) (k : BoothSettings) : List RelayArc :=
  let arcs : List RelayArc := (List.finRange 32).filterMap (fun d =>
    if d = b then some ⟨b, .floor, k.outputA, k.outputB⟩
    else (s.boothSettings d).map (fun m => ⟨d, (s.booth d).chosen, m.outputA, m.outputB⟩))
  arcs.map (fun a =>
    match a.input with
    | .floor => a
    | .channel r => if produced arcs r then a else { a with input := .floor })

/-- A booth takes new settings (R37, R88): its offers withdrawn, its seats OFF, selection A, the floor, PENDING; its poll
cycle voided (R98); then the booths it leaves with no produced relay channel (R81). -/
def configureBooth (b : Booth) (k : BoothSettings) (s : State) : State :=
  let indication := if (waitingChans s b).isEmpty then none else some Indication.withdrawn
  let s := withdrawAll b s
  let s := s.setBooth b
    { s.booth b with
      seats := Bank.fill 3 .off, selection := .a, indication := indication, presence := .pending, misses := 0
      lastGood := none }
  let s := setListen b .floor .floor false s
  relayUnproduced (voidCycle b (s.setBoothSettings b (some k)))

/-- BOOTH_SET (R36, R37). -/
def setBoothRequest (booth : Byte) (args : BoothArgs) (s : State) : Result :=
  match boothOf booth, boothSettingsOf args with
  | some b, some k =>
    if (liveSeat s b).isSome then (.inUse, [], s)
    else if relayCheck s (arcsWithBooth s b k) then (.done, u8 k.offerTime, configureBooth b k s)
    else (.loop, [], s)
  | _, _ => (.badArg, [], s)

def execBoothSet (p : Port) (tag booth : Byte) (args : BoothArgs) (s : State) : Out :=
  request p tag .boothSet (respond p tag (planned (setBoothRequest booth args))) s

/-! ## BOOTH_CLEAR and BOOTH_CUT -/

/-- A booth becomes UNCONFIGURED (R38, R52, R88), with the effects of R98 and R81. -/
def clearBooth (b : Booth) (s : State) : State :=
  let s := seatLoss b s
  let s := s.setBooth b
    { s.booth b with
      selection := .a, indication := none, presence := .unconfigured, misses := 0, lastGood := none }
  let s := setListen b .floor .floor false s
  relayUnproduced (voidCycle b (s.setBoothSettings b none))

/-- BOOTH_CLEAR (R38). -/
def clearBoothRequest (booth : Byte) (s : State) : Answer × State :=
  match boothOf booth with
  | none => (.badArg, s)
  | some b => if (s.boothSettings b).isNone then (.notFound, s) else (.done, clearBooth b s)

def execBoothClear (p : Port) (tag booth : Byte) (s : State) : Out :=
  request p tag .boothClear (respond p tag (planned (bare (clearBoothRequest booth)))) s

/-- BOOTH_CUT (R51). -/
def cutBoothRequest (booth : Byte) (s : State) : Answer × State :=
  match boothOf booth with
  | none => (.badArg, s)
  | some b =>
    match s.boothSettings b with
    | none => (.notFound, s)
    | some k =>
      match liveSeat s b with
      | none => (.wrongState, s)
      | some h => (.done, cutTurn b h (selectedChan k (s.booth b)) s)

def execBoothCut (p : Port) (tag booth : Byte) (s : State) : Out :=
  request p tag .boothCut (respond p tag (planned (bare (cutBoothRequest booth)))) s

/-! ## RELAY_SET -/

/-- in(b) of a booth that listens to `src` in the graph given (R76). -/
def inputCount (arcs : List RelayArc) (src : Listen) : Nat := inputHops (hops arcs) src

/-- RELAY_SET (R77, R79): the booth's tests, then those of R77. -/
def setRelayRequest (booth : Byte) (source : SourceBytes) (s : State) : Result :=
  match boothOf booth with
  | none => (.badArg, [], s)
  | some b =>
    match s.boothSettings b with
    | none => (.notFound, [], s)
    | some k =>
      match listenOf source with
      | none => (.badArg, [], s)
      | some src =>
        match listenTests s b k src with
        | some failure => (failure, [], s)
        | none =>
          let s := chooseListen b src s
          (.done, listenField src ++ listenField (s.booth b).effective ++ u8 (inputCount (relayArcs s) src), s)

def execRelaySet (p : Port) (tag booth : Byte) (source : SourceBytes) (s : State) : Out :=
  request p tag .relaySet (respond p tag (setRelayRequest booth source)) s

end Sys2Proof.Machine
end

