-- ==== Sys2Proof/Machine/PortRequests.lean ====
section
/-! DEFINITION. The meanings of the requests of the port itself (section 11.3 to 11.5) and of DEVICE_RESET (R10). -/

namespace Sys2Proof.Machine
open Sys2Proof

/-- STATUS (R174). -/
def execStatus (p : Port) (tag : Byte) (s : State) : Out :=
  request p tag .status (respond p tag (fun s => (.done, statusPayload p s, s))) s

/-- READ_TABLE (R175). -/
def execReadTable (p : Port) (tag table : Byte) (start : Half) (count : Byte) (ticket : Half) (s : State) : Out :=
  request p tag .readTable (respond p tag (fun s =>
    ((readTableOf s table start count ticket).1, (readTableOf s table start count ticket).2, s))) s

/-- SUBSCRIBE (R176). -/
def execSubscribe (p : Port) (tag : Byte) (kinds : Half) (s : State) : Out :=
  request p tag .subscribe (respond p tag (subscribeTo p kinds)) s

/-- NOTICE_FETCH (R179). -/
def execNoticeFetch (p : Port) (tag : Byte) (s : State) : Out :=
  request p tag .noticeFetch (noticeFetchOf p tag) s

/-- NOTICE_WAIT (R180). -/
def execNoticeWait (p : Port) (tag timeout : Byte) (s : State) : Out :=
  request p tag .noticeWait (noticeWaitOf p tag timeout) s

/-- DEVICE_RESET (R10): a general reset with restart kind COMMAND, and no response. -/
def execDeviceReset (p : Port) (tag : Byte) (s : State) : Out :=
  request p tag .deviceReset (generalReset .command false) s

end Sys2Proof.Machine
end

