-- ==== Sys2Proof/Machine/RegisterRequests.lean ====
section
/-! DEFINITION. The meanings of the receiver register's requests (section 7.2) and of the hire table's (chapter 8). -/

namespace Sys2Proof.Machine
open Sys2Proof

/-! ## The receiver register -/

/-- RECEIVER_ENROL (R102). -/
def execReceiverEnrol (p : Port) (tag : Byte) (number : Half) (serial : Word) (s : State) : Out :=
  request p tag .receiverEnrol (respond p tag (bare (enrol number serial))) s

/-- RECEIVER_WITHDRAW (R103). -/
def execReceiverWithdraw (p : Port) (tag : Byte) (number : Half) (s : State) : Out :=
  request p tag .receiverWithdraw (respond p tag (bare (withdraw number))) s

/-- RECEIVER_REINSTATE (R104). -/
def execReceiverReinstate (p : Port) (tag : Byte) (number : Half) (s : State) : Out :=
  request p tag .receiverReinstate (respond p tag (bare (reinstate number))) s

/-- RECEIVER_CLEAR_FLAGS (R104). -/
def execReceiverClearFlags (p : Port) (tag : Byte) (number : Half) (s : State) : Out :=
  request p tag .receiverClearFlags (respond p tag (bare (clearFlags number))) s

/-- HALL_SET (R105): a new code empties the intake buffer. -/
def setHall (code : Half) (s : State) : Result :=
  (.done, u16 s.ret.hallCode.toNat ++ u16 code.toNat,
    { s with ret.hallCode := code, gen.intake := if code = s.ret.hallCode then s.gen.intake else [] })

def execHallSet (p : Port) (tag : Byte) (code : Half) (s : State) : Out :=
  request p tag .hallSet (respond p tag (setHall code)) s

/-! ## The hire table -/

/-- HIRE_OPEN (R122, R123). -/
def execHireOpen (p : Port) (tag tariffClass : Byte) (deposit : Word) (due : Option Word) (s : State) : Out :=
  request p tag .hireOpen (respond p tag (openHire p tariffClass deposit due)) s

/-- ISSUE (R124, R125). -/
def execIssue (p : Port) (tag : Byte) (ticket number : Half) (s : State) : Out :=
  request p tag .issue (respond p tag (issueReceiver ticket number)) s

/-- RETURN (R126 to R128). -/
def execReturn (p : Port) (tag : Byte) (number : Half) (s : State) : Out :=
  request p tag .returnReceiver (respond p tag (returnOf p number)) s

/-- LOST (R129). -/
def execLost (p : Port) (tag : Byte) (number : Half) (s : State) : Out :=
  request p tag .lost (respond p tag (loseReceiver number)) s

/-- DEPOSIT_ADJUST (R131). -/
def execDepositAdjust (p : Port) (tag : Byte) (ticket : Half) (minus : Bool) (magnitude : Word) (s : State) : Out :=
  request p tag .depositAdjust (respond p tag (adjustDeposit ticket minus magnitude)) s

/-- HIRE_DUE (R132). -/
def execHireDue (p : Port) (tag : Byte) (ticket : Half) (due : Option Word) (s : State) : Out :=
  request p tag .hireDue (respond p tag (setDue ticket due)) s

end Sys2Proof.Machine
end

