-- ==== Sys2Proof/Machine/Frames.lean ====
section
/-! DEFINITION. The meanings of the frames that are no request: BAD_CRC_FRAME (R171) and UNKNOWN_REQUEST (R172). -/

namespace Sys2Proof.Machine
open Sys2Proof

/-- BAD_CRC_FRAME (R171): the frame is discarded; the receive framing is between frames. -/
def execBadCrcFrame (p : Port) (_content : List Byte) (s : State) : Out :=
  taking (fun s => if s.breaks.get p then s else s.setPort p { s.port p with framing := .between }) s

/-- The outcome of a frame whose content spells no request: the first test of R172 that fails. A frame with L of 0 has
no tag. -/
def frameRefusal (p : Port) (content : List Byte) (s : State) : Answer :=
  match content with
  | _ :: code :: params =>
    if 30 < params.length then .malformed
    else
      match ReqCode.ofByte code with
      | none => .unknown
      | some c =>
        if (s.port p).inProgress.isSome then .busy
        else if c.console && p != .console then .denied
        else .malformed
  | _ => .malformed

/-- A frame whose content spells no request is answered at once, with no parameters. -/
def refuseFrame (p : Port) (content : List Byte) (s : State) : State :=
  answer p (content.headD 0) (frameRefusal p content s) [] s

/-- The meaning of a request; `none` for a command that is no request. -/
def runRequest (i : Instr) (s : State) : Option Out :=
  match i with
  | .status p tag => some (execStatus p tag s)
  | .readTable p tag table start count ticket => some (execReadTable p tag table start count ticket s)
  | .subscribe p tag kinds => some (execSubscribe p tag kinds s)
  | .noticeFetch p tag => some (execNoticeFetch p tag s)
  | .noticeWait p tag timeout => some (execNoticeWait p tag timeout s)
  | .deviceReset p tag => some (execDeviceReset p tag s)
  | .clockSet p tag value => some (execClockSet p tag value s)
  | .langDefine p tag slot langTag label => some (execLangDefine p tag slot langTag label s)
  | .langRemove p tag slot => some (execLangRemove p tag slot s)
  | .chanAssign p tag target args => some (execChanAssign p tag target args s)
  | .override p tag on => some (execOverride p tag on s)
  | .routeRefresh p tag => some (execRouteRefresh p tag s)
  | .boothSet p tag booth args => some (execBoothSet p tag booth args s)
  | .boothClear p tag booth => some (execBoothClear p tag booth s)
  | .boothCut p tag booth => some (execBoothCut p tag booth s)
  | .relaySet p tag booth source => some (execRelaySet p tag booth source s)
  | .receiverEnrol p tag number serial => some (execReceiverEnrol p tag number serial s)
  | .receiverWithdraw p tag number => some (execReceiverWithdraw p tag number s)
  | .receiverReinstate p tag number => some (execReceiverReinstate p tag number s)
  | .receiverClearFlags p tag number => some (execReceiverClearFlags p tag number s)
  | .hallSet p tag code => some (execHallSet p tag code s)
  | .hireOpen p tag k deposit due => some (execHireOpen p tag k deposit due s)
  | .issue p tag ticket number => some (execIssue p tag ticket number s)
  | .returnReceiver p tag number => some (execReturn p tag number s)
  | .lost p tag number => some (execLost p tag number s)
  | .depositAdjust p tag ticket minus m => some (execDepositAdjust p tag ticket minus m s)
  | .hireDue p tag ticket due => some (execHireDue p tag ticket due s)
  | .tariffSet p tag k args => some (execTariffSet p tag k args s)
  | .quote p tag ticket first => some (execQuote p tag ticket first s)
  | .close p tag args => some (execClose p tag args s)
  | .snapshot p tag => some (execSnapshot p tag s)
  | .snapshotRead p tag part start count => some (execSnapshotRead p tag part start count s)
  | .sessionOpen p tag => some (execSessionOpen p tag s)
  | .sessionClose p tag => some (execSessionClose p tag s)
  | .accountsClear p tag => some (execAccountsClear p tag s)
  | _ => none

/-- UNKNOWN_REQUEST (R172): a frame with a good CRC that fails a test. One whose content does spell a request is that
request (log 10). -/
def execUnknownRequest (p : Port) (content : List Byte) (s : State) : Out :=
  match (parseContent p content).bind (fun i => runRequest i s) with
  | some out => out
  | none => frameArrives p (refuseFrame p content) s

end Sys2Proof.Machine
end

