-- ==== Sys2Proof/Machine/System.lean ====
section
/-! DEFINITION. The meanings of the supply, reset and time commands (chapter 1), the expiries, and the ends of what the
lines send. -/

namespace Sys2Proof.Machine
open Sys2Proof

/-- A full reset up to its general reset (R7): the retained store cleared, the clock 0, the mark VALID. -/
def fullClear (s : State) : State := { s with ret := Retained.cleared, clock := 0, mark := .valid }

/-- POWER_ON (R7, R10). With the reset line asserted the general reset waits for its release, with restart kind POWER
and retained cleared as the mark gives it. -/
def execPowerOn (s : State) : Out :=
  if s.supply = .main then .next s
  else
    let cleared := s.mark == .invalid
    let s := { s with supply := .main }
    let s := if cleared then fullClear s else s
    if s.lineAsserted then .next { s with heldStart := some cleared, gen := General.quiet s.ret }
    else .next (generalReset .power cleared s)

/-- MAIN_SUPPLY_FAIL (R6): the general domain is lost; the retained store keeps the result of the last event wholly
taken, the last second event with its expiries among them. -/
def execMainSupplyFail (s : State) : Out :=
  if s.supply = .main then
    let s := if s.running then takeDue s else s
    .next { s with supply := .backup, heldStart := none, gen := General.quiet s.ret }
  else .next s

/-- BACKUP_DOMAIN_POWER_LOSS (R5): with both supplies gone the clock, the mark and the retained store are lost, and the
mark reads INVALID when power returns. What stands in the lost store no rule can read (log 18). -/
def execBackupDomainPowerLoss (s : State) : Out :=
  .next { s with
    supply := .none, heldStart := none, clock := 0, mark := .invalid, ret := Retained.cleared
    gen := General.quiet Retained.cleared }

/-- RESET_LINE_ASSERT (R10): the general domain is held in reset. Its lines carry nothing and its work in flight ends; what
else it holds stands still until the release completes the reset (log 18), every offer with its remaining seconds
(R68). -/
def execResetLineAssert (s : State) : Out :=
  if s.lineAsserted then .next s
  else
    let s := if s.running then takeDue s else s
    .next { s with lineAsserted := true, gen := s.gen.stopped }

/-- RESET_LINE_RELEASE (R10): the general reset completes, with restart kind LINE, or as the power-on gave it. -/
def execResetLineRelease (s : State) : Out :=
  if s.lineAsserted then
    let held := s.heldStart
    let s := { s with lineAsserted := false, heldStart := none }
    if s.supply = .main then
      match held with
      | some cleared => .next (generalReset .power cleared s)
      | none => .next (generalReset .line false s)
    else .next s
  else .next s

/-- SECOND_EVENT (R1, R2). -/
def execSecondEvent (s : State) : Out := .next (tick s)

/-- GAP_HOLD_EXPIRY of channel `c` (R24). -/
def execGapHoldExpiry (c : Chan) (s : State) : Out := takeOne (.gapHold c) s

/-- OFFER_EXPIRY of the offer on channel `c` (R68 to R70). -/
def execOfferExpiry (c : Chan) (s : State) : Out := takeOne (.offer c) s

/-- DIRECTORY_REPEAT (R32). -/
def execDirectoryRepeat (s : State) : Out := takeOne .directory s

/-- DUE_ALARM (R133). -/
def execDueAlarm (s : State) : Out := takeOne .alarm s

/-- NOTICE_WAIT_TIMEOUT of port `p` (R180). -/
def execNoticeWaitTimeout (p : Port) (s : State) : Out := takeOne (.wait p) s

/-- DIRECTORY_SEND_END (R32): a pending send begins with the content as it then stands. -/
def execDirectorySendEnd (s : State) : Out :=
  taking (fun s =>
    if s.gen.dirSending.isSome then
      let s := { s with gen.dirSending := none }
      if s.gen.dirPending then dirBegin s else s
    else s) s

/-- ROUTE_ORDER_SENT (R33): the oldest unsent order is sent next. -/
def execRouteOrderSent (s : State) : Out :=
  taking (fun s => if s.gen.routeSending.isSome then routeBegin { s with gen.routeSending := none } else s) s

/-- RESPONSE_FRAME_SENT of port `p` (R173): the frame at the head of its transmit list leaves it. -/
def execResponseFrameSent (p : Port) (s : State) : Out :=
  taking (fun s => s.setPort p { s.port p with transmit := (s.port p).transmit.tail }) s

/-- PORT_BREAK of port `p` (R11, R183): one port reset, however long the break lasts; a break while the general domain
is off or in reset has its port reset when the general reset completes. -/
def execPortBreak (p : Port) (s : State) : Out :=
  if s.breaks.get p then .next s
  else if s.running then .next (portReset p { takeDue s with breaks := (takeDue s).breaks.set p true })
  else .next { s with breaks := s.breaks.set p true }

/-- BREAK_END of port `p` (R183): the receive framing is between frames. -/
def execBreakEnd (p : Port) (s : State) : Out :=
  if s.breaks.get p then
    let s := if s.running then takeDue s else s
    let s := s.setPort p { s.port p with framing := .between }
    .next { s with breaks := s.breaks.set p false }
  else .next s

end Sys2Proof.Machine
end

