-- ==== Sys2Proof/Machine/Dispatch.lean ====
section
/-! DEFINITION. One arm for each command: a direct call of its meaning. -/

namespace Sys2Proof.Machine
open Sys2Proof

/-- The effect of a command on everything but the queue. -/
def exec (i : Instr) (s : State) : Host.Outcome State Fault Refusal :=
  match i with
  | .powerOn => Sys2Proof.Machine.execPowerOn s
  | .mainSupplyFail => Sys2Proof.Machine.execMainSupplyFail s
  | .backupDomainPowerLoss => Sys2Proof.Machine.execBackupDomainPowerLoss s
  | .resetLineAssert => Sys2Proof.Machine.execResetLineAssert s
  | .resetLineRelease => Sys2Proof.Machine.execResetLineRelease s
  | .secondEvent => Sys2Proof.Machine.execSecondEvent s
  | .gapHoldExpiry c => Sys2Proof.Machine.execGapHoldExpiry c s
  | .offerExpiry c => Sys2Proof.Machine.execOfferExpiry c s
  | .directoryRepeat => Sys2Proof.Machine.execDirectoryRepeat s
  | .directorySendEnd => Sys2Proof.Machine.execDirectorySendEnd s
  | .routeOrderSent => Sys2Proof.Machine.execRouteOrderSent s
  | .noticeWaitTimeout p => Sys2Proof.Machine.execNoticeWaitTimeout p s
  | .dueAlarm => Sys2Proof.Machine.execDueAlarm s
  | .pollStart => Sys2Proof.Machine.execPollStart s
  | .pollSent => Sys2Proof.Machine.execPollSent s
  | .boothReply bytes => Sys2Proof.Machine.execBoothReply bytes s
  | .replyWindowExpiry => Sys2Proof.Machine.execReplyWindowExpiry s
  | .seatOn b seat => Sys2Proof.Machine.execSeatOn b seat s
  | .seatOff b seat => Sys2Proof.Machine.execSeatOff b seat s
  | .coughDown b seat => Sys2Proof.Machine.execCoughDown b seat s
  | .coughUp b seat => Sys2Proof.Machine.execCoughUp b seat s
  | .give b seat => Sys2Proof.Machine.execGive b seat s
  | .outputSelect b y => Sys2Proof.Machine.execOutputSelect b y s
  | .relaySelect b channel => Sys2Proof.Machine.execRelaySelect b channel s
  | .collectorReport r => Sys2Proof.Machine.execCollectorReport r s
  | .reportTaken => Sys2Proof.Machine.execReportTaken s
  | .portBreak p => Sys2Proof.Machine.execPortBreak p s
  | .breakEnd p => Sys2Proof.Machine.execBreakEnd p s
  | .badCrcFrame p content => Sys2Proof.Machine.execBadCrcFrame p content s
  | .unknownRequest p content => Sys2Proof.Machine.execUnknownRequest p content s
  | .status p tag => Sys2Proof.Machine.execStatus p tag s
  | .readTable p tag table start count ticket => Sys2Proof.Machine.execReadTable p tag table start count ticket s
  | .subscribe p tag kinds => Sys2Proof.Machine.execSubscribe p tag kinds s
  | .noticeFetch p tag => Sys2Proof.Machine.execNoticeFetch p tag s
  | .noticeWait p tag timeout => Sys2Proof.Machine.execNoticeWait p tag timeout s
  | .deviceReset p tag => Sys2Proof.Machine.execDeviceReset p tag s
  | .clockSet p tag value => Sys2Proof.Machine.execClockSet p tag value s
  | .langDefine p tag slot langTag label => Sys2Proof.Machine.execLangDefine p tag slot langTag label s
  | .langRemove p tag slot => Sys2Proof.Machine.execLangRemove p tag slot s
  | .chanAssign p tag target args => Sys2Proof.Machine.execChanAssign p tag target args s
  | .override p tag on => Sys2Proof.Machine.execOverride p tag on s
  | .routeRefresh p tag => Sys2Proof.Machine.execRouteRefresh p tag s
  | .boothSet p tag booth args => Sys2Proof.Machine.execBoothSet p tag booth args s
  | .boothClear p tag booth => Sys2Proof.Machine.execBoothClear p tag booth s
  | .boothCut p tag booth => Sys2Proof.Machine.execBoothCut p tag booth s
  | .relaySet p tag booth source => Sys2Proof.Machine.execRelaySet p tag booth source s
  | .receiverEnrol p tag number serial => Sys2Proof.Machine.execReceiverEnrol p tag number serial s
  | .receiverWithdraw p tag number => Sys2Proof.Machine.execReceiverWithdraw p tag number s
  | .receiverReinstate p tag number => Sys2Proof.Machine.execReceiverReinstate p tag number s
  | .receiverClearFlags p tag number => Sys2Proof.Machine.execReceiverClearFlags p tag number s
  | .hallSet p tag code => Sys2Proof.Machine.execHallSet p tag code s
  | .hireOpen p tag tariffClass deposit due => Sys2Proof.Machine.execHireOpen p tag tariffClass deposit due s
  | .issue p tag ticket number => Sys2Proof.Machine.execIssue p tag ticket number s
  | .returnReceiver p tag number => Sys2Proof.Machine.execReturn p tag number s
  | .lost p tag number => Sys2Proof.Machine.execLost p tag number s
  | .depositAdjust p tag ticket minus magnitude => Sys2Proof.Machine.execDepositAdjust p tag ticket minus magnitude s
  | .hireDue p tag ticket due => Sys2Proof.Machine.execHireDue p tag ticket due s
  | .tariffSet p tag tariffClass args => Sys2Proof.Machine.execTariffSet p tag tariffClass args s
  | .quote p tag ticket first => Sys2Proof.Machine.execQuote p tag ticket first s
  | .close p tag args => Sys2Proof.Machine.execClose p tag args s
  | .snapshot p tag => Sys2Proof.Machine.execSnapshot p tag s
  | .sessionClose p tag => Sys2Proof.Machine.execSessionClose p tag s
  | .jobStart => Sys2Proof.Machine.execJobStart s
  | .quoteCompletion => Sys2Proof.Machine.execQuoteCompletion s
  | .closeCompletion => Sys2Proof.Machine.execCloseCompletion s
  | .snapshotRead p tag part start count => Sys2Proof.Machine.execSnapshotRead p tag part start count s
  | .sessionOpen p tag => Sys2Proof.Machine.execSessionOpen p tag s
  | .accountsClear p tag => Sys2Proof.Machine.execAccountsClear p tag s
  | .responseFrameSent p => Sys2Proof.Machine.execResponseFrameSent p s

end Sys2Proof.Machine
end

