-- ==== Sys2Proof/Safety.lean ====
section
/-! DEFINITION. What counts as a safe state, in the terms the statements use: when a command finds the part ready, and
the invariants that the rules of the spec lay down. -/

namespace Sys2Proof.Machine
open Sys2Proof

/-! ## Readiness -/

/-- The general domain takes an event: it is powered, out of reset, and has taken the expiries of the last second
event. -/
structure Awake (s : State) : Prop where
  running : s.running = true
  settled : s.gen.due = []

/-- Port `p` can take a request: no break on its line, no frame half received, no request in progress. -/
structure Ready (p : Port) (s : State) : Prop extends Awake s where
  unbroken : s.breaks.get p = false
  between : (s.port p).framing = .between
  free : (s.port p).inProgress = none

/-- The response that the port sends for `tag`, and nothing else. -/
def responds (p : Port) (tag : Byte) (a : Answer) (payload : List Byte) (s : State) : State :=
  s.setPort p { s.port p with transmit := (s.port p).transmit ++ [⟨tag, a, payload⟩] }

/-- The next event of a reply from the present booth `b`, with settings `k`, is `e`; `rest` is still to be handed on
(R95). -/
structure Handing (s : State) (b : Booth) (k : BoothSettings) (e : ReplyEvent) (rest : List ReplyEvent) : Prop
    extends Awake s where
  cycle : s.gen.cycle = .handing b (e :: rest)
  present : (s.booth b).presence = .present
  settings : s.boothSettings b = some k

/-- The command that hands an event of booth `b` on. -/
def eventCommand (b : Booth) : ReplyEvent → Instr
  | .seatOn seat => .seatOn b seat
  | .seatOff seat => .seatOff b seat
  | .coughDown seat => .coughDown b seat
  | .coughUp seat => .coughUp b seat
  | .give seat => .give b seat
  | .outputSelect y => .outputSelect b y
  | .relaySelect channel => .relaySelect b channel

/-- The state with the event handed on: the cycle closes with its last event (R90). -/
def handed (s : State) (b : Booth) (rest : List ReplyEvent) : State :=
  { s with gen.cycle := if rest.isEmpty then .idle else .handing b rest }

/-! ## While the part is off or held in reset -/

/-- No line carries anything, and no work is in flight (R9, R10, R32, R33, R100). -/
structure Silent (s : State) : Prop where
  attention : ∀ p, s.attention p = false
  responses : ∀ p, (s.port p).transmit = [] ∧ (s.port p).inProgress = none
  orders : s.gen.routeSending = none ∧ s.gen.routeList = []
  directory : s.gen.dirSending = none ∧ s.gen.dirPending = false
  boothLine : s.gen.cycle = .idle
  jobs : s.gen.jobs = [] ∧ s.gen.flight = none

/-! ## What an event leaves as it was -/

/-- An event of the hall: what it may change is the live state of channels and booths, the offers, the seat
accumulators, and what is sent of them (the route list, the directory, the notices of the ports). -/
def HallOnly (s t : State) : Prop :=
  t = { s with
    ret.dirSeq := t.ret.dirSeq, ret.seatAcc := t.ret.seatAcc, gen.chans := t.gen.chans, gen.booths := t.gen.booths
    gen.offers := t.gen.offers, gen.routeSending := t.gen.routeSending, gen.routeList := t.gen.routeList
    gen.dirSending := t.gen.dirSending, gen.dirPending := t.gen.dirPending, gen.dirCount := t.gen.dirCount
    gen.ports := t.gen.ports }

/-! ## Notices (R176 to R180) -/

/-- What one notice does to a port: a port that does not subscribe to its kind is left as it was; a pending NOTICE_WAIT
ends and returns it, with the overrun marker, which it clears; otherwise it is queued. -/
def noticed (n : Notice) (k : PortState) : PortState :=
  if subscribes k n.body then
    match k.inProgress with
    | some ⟨_, tag, some w⟩ =>
      { k with
        inProgress := none, overrun := false
        transmit := k.transmit ++ [⟨tag, .done, u8 w.applied ++ noticeBytes n k.overrun⟩] }
    | _ => enqueue n k
  else k

/-- The notices sent between two states, in their order, stamped with the clock: nothing else changes a port. -/
def Notified (bodies : List NoticeBody) (s t : State) : Prop :=
  ∀ p, t.port p = bodies.foldl (fun k body => noticed ⟨s.clock, body⟩ k) (s.port p)

/-! ## Seats (R39, R48, R54) -/

/-- A booth is muted while one of its seats is in COUGH (R48). -/
def MuteAgrees (s : State) (b : Booth) : Prop := (s.booth b).muted = true ↔ ∃ k, s.seat b k = .cough

/-- The seats and indications after an event; nothing else of a booth changes but its mute state, which follows its
seats, and the effective source that auto-floor gives it. -/
def SeatsMoved (seats : Booth → Seat → SeatState) (indication : Booth → Option Indication) (s t : State) : Prop :=
  (∀ b k, t.seat b k = seats b k) ∧ (∀ b, MuteAgrees s b → MuteAgrees t b) ∧
  ∀ b, t.booth b =
    { s.booth b with
      seats := (t.booth b).seats, muted := (t.booth b).muted, indication := indication b
      effective := (t.booth b).effective, autoHold := (t.booth b).autoHold }

/-- The seats that went LIVE: their turns increase by 1, held at 65,535; no other accumulator changes (R54). -/
def TurnsRaised (l : List (Booth × Seat)) (s t : State) : Prop :=
  ∀ b k, t.acc b k = { s.acc b k with turns := if (b, k) ∈ l then min 65535 ((s.acc b k).turns + 1) else (s.acc b k).turns }

/-- One channel's live state after an event; the others as they were. -/
def ChanMoved (c : Chan) (x : ChanLive) (s t : State) : Prop := t.chan c = x ∧ ∀ d, d ≠ c → t.chan d = s.chan d

/-- One channel's offer after an event; the others as they were. -/
def OfferMoved (c : Chan) (x : Option Offer) (s t : State) : Prop := t.offer c = x ∧ ∀ d, d ≠ c → t.offer d = s.offer d

/-! ## The end of a live turn (R23, R24, R49, R64) -/

/-- The booths that auto-floor takes to the floor when `c` becomes UNCOVERED, in ascending number (R82). -/
def fallenBooths (s : State) (c : Chan) : List Booth :=
  (List.finRange 32).filter (fun b =>
    (s.boothSettings b).any BoothSettings.autoFloor && (s.booth b).chosen == .channel c)

/-- The notices of a channel that becomes UNCOVERED (R24, R82). -/
def uncoverNotices (s : State) (c : Chan) : List NoticeBody :=
  .channelUncovered c (chanTag s c) (s.settings c).fallback ::
    (fallenBooths s c).map (fun b => .relayFallback b c (chanTag s c) (s.settings c).fallback)

/-- A channel whose turn has ended with no offer: HOLDING on the route it had, or with a gap hold of 0 UNCOVERED on its
fallback (R23, R24). The hold is fresh until the next second event (R25, log 15). -/
def released (s : State) (c : Chan) : ChanLive :=
  if (s.settings c).gapHold = 0 then ⟨.uncovered, none, (s.settings c).fallback.source, 0, false⟩
  else ⟨.holding, none, (s.chan c).source, (s.settings c).gapHold, true⟩

def releaseNotices (s : State) (c : Chan) : List NoticeBody :=
  if (s.settings c).gapHold = 0 then uncoverNotices s c else []

/-- A channel that its offer has passed to the waiting seat (R22, R64). -/
def passed (s : State) (c : Chan) (o : Offer) : ChanLive :=
  { s.chan c with holder := some ⟨o.waitBooth, o.waitSeat⟩, source := .booth o.waitBooth }

/-- The HANDOVER notice of a pass (R72). -/
def passNotice (s : State) (c : Chan) (o : Offer) (manner : Manner) : NoticeBody :=
  .handover c (chanTag s c) manner (some o.kind) o.holdBooth o.holdSeat o.waitBooth o.waitSeat

/-- The turn of live seat `k` of booth `b` on `c` has ended (R49): the seat is OFF; with no offer `c` is released; an offer
that stands passes `c` to its waiting seat. -/
def TurnEnded (b : Booth) (k : Seat) (c : Chan) (manner : Manner) (indication : Booth → Option Indication)
    (s t : State) : Prop :=
  HallOnly s t ∧ OfferMoved c none s t ∧
  match s.offer c with
  | none =>
    SeatsMoved (fun d j => if d = b ∧ j = k then .off else s.seat d j) indication s t ∧ TurnsRaised [] s t ∧
      ChanMoved c (released s c) s t ∧ Notified (releaseNotices s c) s t
  | some o =>
    SeatsMoved (fun d j => if d = b ∧ j = k then .off
      else if d = o.waitBooth ∧ j = o.waitSeat then .live else s.seat d j) indication s t ∧
      TurnsRaised [(o.waitBooth, o.waitSeat)] s t ∧
      ChanMoved c (passed s c o) s t ∧ Notified [passNotice s c o manner] s t

/-- Seat `k` of booth `b` is the one that event byte `seat` names, and its booth has it (R40). -/
def Names (m : BoothSettings) (seat : Byte) (k : Seat) : Prop := seat.toNat = k.val + 1 ∧ seat.toNat ≤ m.seats

/-- No seat of the booth is LIVE or COUGH. -/
def NoneLive (s : State) (b : Booth) : Prop := ∀ k, isLive (s.seat b k) = false

/-- The seats after a LAST claim cuts holder `x` and the waiting seat of an offer that stood (R43). -/
def cutSeats (s : State) (x : Holder) (o : Option Offer) (b : Booth) (k : Seat) : SeatState :=
  if b = x.booth ∧ k = x.seat then .off
  else match o with
    | some w => if b = w.waitBooth ∧ k = w.waitSeat then .off else s.seat b k
    | none => s.seat b k

/-- The seats that a LAST claim makes go live on the way: the waiting seat of an offer that stood (R43, R64). -/
def cutTurns (o : Option Offer) : List (Booth × Seat) := o.toList.map (fun w => (w.waitBooth, w.waitSeat))

/-- The HANDOVER of the pass that a LAST claim brings, where an offer stood (R72). -/
def cutNotices (s : State) (c : Chan) : List NoticeBody :=
  (s.offer c).toList.map (fun o => passNotice s c o .turnEnd)

/-- A booth that has lost its seats (R52): its own offers are withdrawn, every seat is OFF and its indication is cleared; the
turn of its live seat has ended, and an ACROSS offer on the channel has passed it. -/
def SeatsTaken (b : Booth) (s t : State) : Prop :=
  (∀ d, t.offer d = (s.offer d).filter (fun o => o.waitBooth != b && o.holdBooth != b)) ∧
  (∀ d j, t.seat d j =
    if d = b then .off
    else if ((List.finRange 24).any fun c =>
      (s.offer c).any (fun o => o.holdBooth == b && o.waitBooth == d && o.waitSeat == j)) then .live
    else s.seat d j) ∧
  (∀ d, t.booth d = { s.booth d with
    seats := (t.booth d).seats, muted := if d = b then false else (s.booth d).muted
    indication := if d = b then none else (s.booth d).indication
    effective := (t.booth d).effective, autoHold := (t.booth d).autoHold }) ∧
  (∀ c, t.chan c =
    if (s.chan c).holder.map Holder.booth = some b then
      (match (s.offer c).filter (fun o => o.waitBooth != b) with
        | some o => passed s c o
        | none => released s c)
    else s.chan c) ∧
  (∀ d j, t.acc d j = { s.acc d j with
    turns := if s.seat d j = .waiting ∧ t.seat d j = .live then min 65535 ((s.acc d j).turns + 1)
      else (s.acc d j).turns })

/-- The notices of that loss, where `c` is the channel that the booth held (R24, R72, R82). -/
def seatLossNotices (b : Booth) (s : State) : List NoticeBody :=
  match liveSeat s b, s.boothSettings b with
  | some _, some m =>
    let c := selectedChan m (s.booth b)
    match (s.offer c).filter (fun o => o.waitBooth != b) with
    | some o => [passNotice s c o .turnEnd]
    | none => releaseNotices s c
  | _, _ => []

/-! ## The booth line (chapter 6) -/

def Configured (s : State) (b : Booth) : Prop := s.boothSettings b ≠ none

/-- Booth `b` is the one that the scan polls next (R89). -/
def PolledNext (s : State) (b : Booth) : Prop :=
  Configured s b ∧
  match s.gen.scanPos with
  | none => ∀ d, Configured s d → b ≤ d
  | some p =>
    (p < b ∧ ∀ d, Configured s d → p < d → b ≤ d) ∨
    ((∀ d, Configured s d → d ≤ p) ∧ ∀ d, Configured s d → b ≤ d)

/-- A reply with the booth number, event count and events given, and a good CRC (R186). -/
def replyBytes (booth count : Byte) (events : List (Byte × Byte)) : List Byte :=
  let body := booth :: count :: events.flatMap (fun e => [e.1, e.2])
  body ++ numBytes 2 (crc16 body).toNat

/-- A miss on booth `b` (R93), from the state in which its cycle has closed. The third in a row makes it ABSENT (R96): the
notice names the booth as it stood, then the booth loses its seats. -/
def Missed (b : Booth) (cause : MissCause) (s t : State) : Prop :=
  let l := s.booth b
  (l.presence = .absent → t = s) ∧
  (l.presence = .pending ∨ l.presence = .present → l.misses < 2 → t = s.setBooth b { l with misses := l.misses + 1 }) ∧
  (l.presence = .pending ∨ l.presence = .present → l.misses = 2 → ∀ m, s.boothSettings b = some m →
    SeatsTaken b (s.setBooth b { l with presence := .absent, misses := 3 }) t ∧
    Notified (.boothAbsent b l.presence cause l.lastGood (liveSeat s b)
      ((liveSeat s b).map (fun _ => selectedChan m l)) :: seatLossNotices b s) s t ∧
    HallOnly s t)

/-! ## Credit and hires (chapters 7 to 9) -/

/-- The credit of line `l` once the credit of receiver `n` on its language has been closed into it (R110, R116, R130). -/
def closedCredit (s : State) (n : Nat) (l : Line) : Nat :=
  match (s.receiver n).tuned with
  | some m => creditUpTo l ((s.slot m.slot).u - m.mark) s.clock
  | none => l.credit

/-- The listener counts once receiver `n` has left its language (R114, R116). -/
def ListenerLeft (n : Nat) (s t : State) : Prop :=
  ∀ k, t.ret.listeners.get k =
    if (s.receiver n).tuned.map Tuning.slot = some k then s.ret.listeners.get k - 1 else s.ret.listeners.get k

/-- The change count raised by 1; it wraps from 4,294,967,295 to 0 (R119, R121). -/
def nextChange (n : Nat) : Nat := if n < 4294967295 then n + 1 else 0

/-- A hire that the due alarm takes at the clock as it stands (R133). -/
def alarmDue (s : State) (h : Hire) : Bool :=
  !h.overdue && h.due.any (fun d => decide (d ≤ s.clock)) && h.lines.any (fun l => l.state == .out)

/-- The state once port `p` has answered its request in progress, `r` (R173). -/
def answered (p : Port) (r : InProgress) (a : Answer) (payload : List Byte) (s : State) : State :=
  s.setPort p { s.port p with inProgress := none, transmit := (s.port p).transmit ++ [⟨r.tag, a, payload⟩] }

/-- A line of a work copy taken in state `s` (R141, R158). -/
def CopyOf (s : State) (l : Line) (w : CopyLine) : Prop :=
  w.receiver = l.receiver ∧ w.state = l.state ∧ w.issue = l.issue ∧
  (l.state ≠ .out → w.credit = l.credit ∧ ∀ e, l.ended = some e → w.ended = e) ∧
  (l.state = .out → w.ended = s.clock ∧ w.credit = closedCredit s l.receiver l)

/-- The work copy of hire `h` under ticket `t`, taken in state `s` (R158). -/
def WorkCopyOf (s : State) (t : Nat) (h : Hire) (terms : Terms) (w : WorkCopy) : Prop :=
  w.ticket = t ∧ w.deposit = h.deposit ∧ w.changeCount = h.changeCount ∧ w.tariffClass = h.tariffClass ∧
  w.terms = terms ∧ w.generation = (s.tariff h.tariffClass).generation ∧ w.time = s.clock ∧
  List.Forall₂ (CopyOf s) h.lines w.lines

/-- A total raised by `d`, left at the total limit where it would pass it (R164). -/
def raised (x d : Nat) : Nat := min 281474976710655 (x + d)

/-- Lowest key, highest key and entry size of the tables whose entries all exist (R175, section 12.5). -/
def denseTable (table : Byte) : Option (Nat × Nat × Nat) :=
  match table.toNat with
  | 0 => some (0, 31, 38) | 1 => some (1, 24, 13) | 2 => some (1, 32, 23) | 3 => some (0, 95, 8) | 4 => some (1, 24, 7)
  | 5 => some (0, 4095, 27) | 8 => some (0, 7, 18) | 9 => some (0, 0, 90) | _ => none

/-- The entry of key `key` in a table whose entries all exist, in its layout (R175, R188). -/
def TableEntry (s : State) (table : Byte) (key : Nat) (e : List Byte) : Prop :=
  match table.toNat with
  | 0 => ∃ k : Slot, key = k.val ∧ e = languageEntry (s.slot k) (s.ret.listeners.get k) (s.ret.peaks.get k)
  | 1 => ∃ c : Chan, key = c.val + 1 ∧ e = channelEntry (s.settings c) (s.chan c)
  | 2 => ∃ b : Booth, key = b.val + 1 ∧ e = boothEntry (s.boothSettings b) (s.booth b)
  | 3 => ∃ (b : Booth) (k : Seat), key = 3 * b.val + k.val ∧ e = seatEntry key (s.seat b k) (s.acc b k)
  | 4 => ∃ c : Chan, key = c.val + 1 ∧ e = offerEntry c (s.offer c)
  | 5 => e = receiverEntry key (s.receiver key)
  | 8 => ∃ k : TClass, key = k.val ∧ e = tariffEntry k (s.tariff k)
  | 9 => e = accountsEntry s.ret.accounts
  | _ => False

/-- Whether a further entry follows in a table, and its key (R175, section 12.5). -/
def nextField : Option Nat → List Byte
  | some key => 1 :: u16 key
  | none => 0 :: u16 0

/-! ## BOOTH_SET (R36, R98) -/

/-- Checks 1 and 2 of R36 on the settings fail. -/
def BoothArgsFail (args : BoothArgs) : Prop :=
  args.seats.toNat < 1 ∨ 3 < args.seats.toNat ∨ args.outputA.toNat < 1 ∨ 24 < args.outputA.toNat ∨
  (∃ o, args.outputB = some o ∧ (o.toNat < 1 ∨ 24 < o.toNat ∨ o = args.outputA)) ∨
  2 < args.mode.toNat ∨ 1 < args.autoFloor.toNat

/-- The settings `k` as the parameters give them, the offer time clamped (R35, R36). -/
def BoothReads (args : BoothArgs) (k : BoothSettings) : Prop :=
  k.seats = args.seats.toNat ∧ k.outputA.val + 1 = args.outputA.toNat ∧
  k.outputB.map (fun c => c.val + 1) = args.outputB.map BitVec.toNat ∧
  args.mode.toNat = (match k.mode with | .direct => 0 | .courtesy => 1 | .timed => 2) ∧
  k.offerTime = max 5 (min 120 args.offerTime.toNat) ∧ args.autoFloor.toNat = (if k.autoFloor then 1 else 0)

/-- The poll cycle once a BOOTH_SET or BOOTH_CLEAR of `b` has voided it (R98): its reply is to be set aside, and events not
yet handed on are discarded. -/
def cycleVoided (b : Booth) : PollCycle → PollCycle
  | .idle => .idle
  | .sending d tally voided => .sending d tally (voided || d == b)
  | .window d voided => .window d (voided || d == b)
  | .handing d events => if d = b then .idle else .handing d events

/-! ## The checks of CHAN_ASSIGN (R17) -/

/-- The parameters of a CHAN_ASSIGN as its bytes give them, gap hold and offer time clamped (R17, R184). -/
def AssignReads (target : Byte) (args : AssignArgs) (a : Assign) : Prop :=
  a.target.val + 1 = target.toNat ∧
  (match a.slot with | none => args.slot = 0xFF | some k => args.slot.toNat = k.val) ∧
  args.policy.toNat = (match a.policy with | .first => 0 | .last => 1 | .offer => 2) ∧
  (match a.fallback with
    | .floor => args.fallback = ⟨0, 0⟩
    | .silent => args.fallback = ⟨1, 0⟩
    | .channel x => args.fallback.kind = 2 ∧ args.fallback.number.toNat = x.val + 1) ∧
  a.gapHold = min 60 args.gapHold.toNat ∧ a.offerTime = max 5 (min 120 args.offerTime.toNat)

/-- The language named moves to the target from channel `c` (R19). -/
def MovesFrom (s : State) (a : Assign) (c : Chan) : Prop :=
  c ≠ a.target ∧ ∃ k, a.slot = some k ∧ (s.slot k).channel = some c

/-- Check `n` of R17, 2 to 9, fails. -/
def AssignFails (s : State) (a : Assign) : Nat → Prop
  | 2 => ∃ k, a.slot = some k ∧ (s.slot k).name = none
  | 3 => (s.chan a.target).coverage = .covered
  | 4 => ∃ c, MovesFrom s a c ∧ (s.chan c).coverage = .covered
  | 5 => a.fallback = .channel a.target
  | 6 => ∃ x, a.fallback = .channel x ∧
    (if x = a.target then a.slot = none else (s.settings x).slot = none ∨ MovesFrom s a x)
  | 7 => ∃ x y, a.fallback = .channel x ∧ (s.settings x).fallback = .channel y
  | 8 => (∃ x, a.fallback = .channel x) ∧ ∃ d, d ≠ a.target ∧ (s.settings d).fallback = .channel a.target
  | 9 => ∃ c, ((c = a.target ∧ a.slot = none) ∨ MovesFrom s a c) ∧
    ∃ d, d ≠ c ∧ d ≠ a.target ∧ (s.settings d).fallback = .channel c
  | _ => False

def assignOutcome (n : Nat) : Answer :=
  if n = 2 ∨ n = 6 then .notFound else if n = 5 ∨ n = 7 ∨ n = 8 then .loop else .inUse

/-- The target takes a slot that it did not carry (R18). -/
def entersPlan (s : State) (a : Assign) : Bool := a.slot.isSome && a.slot != (s.settings a.target).slot

/-- The slot that leaves the plan, if one does (R20). -/
def leavingSlot (s : State) (a : Assign) : Option Slot :=
  (s.settings a.target).slot.filter (fun k => a.slot != some k)

/-- The target's live state after an accepted request (the table of R18, and R24 for a gap hold of 0). -/
def targetAfter (s : State) (a : Assign) : ChanLive :=
  if a.slot = none then ⟨.unassigned, none, .silent, 0, false⟩
  else if entersPlan s a then
    if a.gapHold = 0 then ⟨.uncovered, none, a.fallback.source, 0, false⟩
    else ⟨.holding, none, a.fallback.source, a.gapHold, false⟩
  else if (s.chan a.target).coverage = .uncovered then { s.chan a.target with source := a.fallback.source }
  else s.chan a.target

/-! ## Kinds of command -/

/-- The expiries of a second event, which a command may name (R1). -/
def isExpiry : Instr → Bool
  | .gapHoldExpiry _ | .offerExpiry _ | .directoryRepeat | .noticeWaitTimeout _ | .dueAlarm => true
  | _ => false

/-- The commands that are events of the supplies, the reset line, the clock and the breaks; every other command is an
event that the general domain alone takes (R6, R10). -/
def isInput : Instr → Bool
  | .powerOn | .mainSupplyFail | .backupDomainPowerLoss | .resetLineAssert | .resetLineRelease | .secondEvent
  | .portBreak _ | .breakEnd _ => true
  | _ => false

/-! ## After a general reset -/

/-- What a general reset that is no part of a full reset leaves (R8, R11, R12, R26, R31, R32, R34, R57, R74, R88, R100,
R107, R170). -/
structure AfterGeneralReset (kind : RestartKind) (s t : State) : Prop where
  retained : t.ret = { s.ret with dirSeq := if s.ret.dirSeq < 65535 then s.ret.dirSeq + 1 else 0 }
  clock : t.clock = s.clock
  mark : t.mark = s.mark
  breaks : t.breaks = s.breaks
  chans : ∀ c, t.chan c =
    match (s.settings c).slot with
    | none => ⟨.unassigned, none, .silent, 0, false⟩
    | some _ => ⟨.holding, none, (s.settings c).fallback.source, (s.settings c).gapHold, false⟩
  override : t.gen.override = false
  booths : ∀ b, t.booth b =
    { seats := Bank.fill 3 .off, selection := .a, muted := false, indication := none, chosen := .floor
      effective := .floor, autoHold := false
      presence := if (s.boothSettings b).isSome then .pending else .unconfigured, misses := 0, lastGood := none }
  offers : ∀ c, t.offer c = none
  boothLine : t.gen.scanPos = none ∧ t.gen.cycle = .idle
  intake : t.gen.intake = [] ∧ t.gen.intakeFraming = .between
  jobs : t.gen.jobs = [] ∧ t.gen.flight = none
  snapshot : t.gen.snapshot = none
  start : t.gen.start = ⟨kind, false⟩
  ports : ∀ p, t.port p =
    { inProgress := none
      urgent := [⟨s.clock, if s.breaks.get p then .restarted .port false else .restarted kind false⟩]
      routine := [], subscriptions := defaultSubscriptions p, overrun := false, framing := .between, transmit := [] }
  orders : t.gen.routeSending.toList ++ t.gen.routeList = fullSet t
  directory : t.gen.dirSending = some ⟨dirContent t, t.ret.dirSeq⟩ ∧ t.gen.dirPending = false ∧ t.gen.dirCount = 0
  due : t.gen.due = []

/-- What a full reset leaves (R5, R7, R11, R12): the state of `State.reset`, but for the levels of the receive lines, which are
inputs: a port still in a break has its port reset at once, whose RESTARTED is then its only notice. `held` is the mark of
a power-on that waits for the reset line; the queue and the draws outlive every reset (logs 15, 26). -/
def AfterFullReset (held : Option Bool) (s t : State) : Prop :=
  (∀ p, t.port p = PortState.restarted p 0 (if s.breaks.get p then .port else .power) (!s.breaks.get p)) ∧
  t = { State.reset with
    pending := s.pending, heldStart := held, draws := s.draws, breaks := s.breaks, gen.ports := t.gen.ports }

/-! ## The plan and the booth settings (R13, R16, R17, R35, R36) -/

/-- The channel field of a slot and the slot field of its channel name each other; an assigned slot is defined; tags
differ; every fallback chain is one step long; the settings of channels and booths keep their ranges. -/
structure PlanAgrees (r : Retained) : Prop where
  named : ∀ k c, (r.slots.get k).channel = some c ↔ (r.plan.get c).slot = some k
  defined : ∀ k, (r.slots.get k).channel.isSome = true → (r.slots.get k).name.isSome = true
  tags : ∀ j k n m, (r.slots.get j).name = some n → (r.slots.get k).name = some m → n.tag = m.tag → j = k
  entries : ∀ k n, (r.slots.get k).name = some n →
    1 ≤ n.tag ∧ n.tag ≤ 65535 ∧ 1 ≤ n.label.length ∧ n.label.length ≤ 12
  chains : ∀ c x, (r.plan.get c).fallback = .channel x →
    x ≠ c ∧ (r.plan.get x).slot.isSome = true ∧ ∀ y, (r.plan.get x).fallback ≠ .channel y
  ranges : ∀ c, (r.plan.get c).gapHold ≤ 60 ∧ 5 ≤ (r.plan.get c).offerTime ∧ (r.plan.get c).offerTime ≤ 120
  booths : ∀ b k, r.booths.get b = some k →
    1 ≤ k.seats ∧ k.seats ≤ 3 ∧ k.outputB ≠ some k.outputA ∧ 5 ≤ k.offerTime ∧ k.offerTime ≤ 120

/-! ## The hall: coverage, live seats and offers (R16, R39, R48, R58 and the table of section 2.3) -/

structure HallAgrees (s : State) : Prop where
  unassigned : ∀ c, (s.chan c).coverage = .unassigned ↔ (s.settings c).slot = none
  covered : ∀ c, (s.chan c).coverage = .covered ↔ (s.chan c).holder.isSome = true
  holderLive : ∀ c b k, (s.chan c).holder = some ⟨b, k⟩ →
    isLive (s.seat b k) = true ∧ ∃ m, s.boothSettings b = some m ∧ selectedChan m (s.booth b) = c
  liveHolds : ∀ b k, isLive (s.seat b k) = true →
    ∃ m, s.boothSettings b = some m ∧ (s.chan (selectedChan m (s.booth b))).holder = some ⟨b, k⟩
  offerHeld : ∀ c o, s.offer c = some o →
    (s.chan c).holder = some ⟨o.holdBooth, o.holdSeat⟩ ∧ s.seat o.waitBooth o.waitSeat = .waiting ∧
      (∃ m, s.boothSettings o.waitBooth = some m ∧ selectedChan m (s.booth o.waitBooth) = c) ∧
      (o.kind = .inBooth ↔ o.waitBooth = o.holdBooth) ∧ (o.kind = .across → (s.settings c).policy = .offer)
  waitingOffered : ∀ b k, s.seat b k = .waiting →
    ∃ c o, s.offer c = some o ∧ o.waitBooth = b ∧ o.waitSeat = k
  mutes : ∀ b, MuteAgrees s b

/-- Each booth's effective source and auto-floor hold are those of its chosen source, its auto-floor setting and the
coverage of the channel it chose; an UNCONFIGURED booth listens to the floor (R74, R75). -/
def ListeningAgrees (s : State) : Prop :=
  ∀ b, match s.boothSettings b, (s.booth b).chosen with
    | none, chosen => chosen = .floor ∧ (s.booth b).effective = .floor ∧ (s.booth b).autoHold = false
    | some _, .floor => (s.booth b).effective = .floor ∧ (s.booth b).autoHold = false
    | some k, .channel r =>
      if k.autoFloor = true ∧ (s.chan r).coverage = .uncovered then
        (s.booth b).effective = .floor ∧ (s.booth b).autoHold = true
      else (s.booth b).effective = .channel r ∧ (s.booth b).autoHold = false

/-! ## What the route line carries (R33, R48, R75) -/

/-- An order that names what holds now: the effective route of its channel, its booth's effective source, its booth's
mute state. -/
def Current (s : State) : RouteOrder → Prop
  | .route c source => source = effectiveRoute s c
  | .listen b source => source = (s.booth b).effective
  | .mute b muted => muted = (s.booth b).muted

/-- The last order that the line holds for a subject names what holds now. -/
structure MatrixAgrees (s : State) : Prop where
  unsent : ∀ o ∈ s.gen.routeList, Current s o
  sending : ∀ o, s.gen.routeSending = some o → Current s o ∨ ∃ x ∈ s.gen.routeList, sameSubject x o = true

/-- The order of the same subject that names what holds now. -/
def nowOrder (s : State) : RouteOrder → RouteOrder
  | .route c _ => .route c (effectiveRoute s c)
  | .listen b _ => .listen b (s.booth b).effective
  | .mute b _ => .mute b (s.booth b).muted

/-- The orders that the line sends or has still to send. -/
def routeOrders (s : State) : List RouteOrder := s.gen.routeSending.toList ++ s.gen.routeList

/-! ## Queues, lists and jobs -/

/-- The two notice queues of a port (R170, R176, R178): their limits and classes, and RESTARTED at the head alone. -/
structure QueuesBounded (k : PortState) : Prop where
  urgent : k.urgent.length ≤ 8
  routine : k.routine.length ≤ 32
  urgentClass : ∀ n ∈ k.urgent, isUrgent n.body = true
  routineClass : ∀ n ∈ k.routine, isUrgent n.body = false
  restartedFirst : ∀ n ∈ k.urgent.tail, isRestarted n.body = false
  between : k.framing = .between

/-- At most one unsent order for each subject, and none while the line is idle (R33). -/
structure RouteListed (s : State) : Prop where
  once : s.gen.routeList.Pairwise (fun a b => sameSubject a b = false)
  busy : s.gen.routeSending = none → s.gen.routeList = []

def isJob : ReqCode → Bool
  | .quote | .close | .snapshot | .sessionClose => true
  | _ => false

/-- The ports of the jobs, the one in flight first. -/
def jobPorts (s : State) : List Port := s.gen.flight.toList.map Flight.port ++ s.gen.jobs.map Job.port

/-- Each port has at most one job, exactly while its request in progress is that of a job (R155, R170); the job in flight
is a QUOTE or a CLOSE (R156). -/
structure JobsAgree (s : State) : Prop where
  once : (jobPorts s).Nodup
  inProgress : ∀ p, p ∈ jobPorts s ↔ ∃ r, (s.port p).inProgress = some r ∧ isJob r.code = true
  waits : ∀ p r, (s.port p).inProgress = some r → (isJob r.code = true ↔ r.wait = none)
  flight : ∀ f, s.gen.flight = some f → isStatementJob f.request = false

/-! ## Hires and receivers (R101, R119, R120) -/

structure HiresLawful (r : Retained) : Prop where
  sorted : Table.Sorted r.hires
  count : r.hires.length ≤ 512
  tickets : ∀ e ∈ r.hires, 1 ≤ e.1 ∧ e.1 ≤ 65535 ∧ e.2.lines.length ≤ 16
  next : 1 ≤ r.nextTicket ∧ r.nextTicket ≤ 65535

/-- The line that a link names, in a hire that is open. -/
def Retained.line? (r : Retained) (link : HireLink) : Option Line :=
  (r.hires.find? link.ticket).bind (fun h => h.lines[link.line]?)

def Retained.receiver (r : Retained) (n : Nat) : Receiver := (r.receivers.find? n).getD Receiver.unenrolled

/-- A receiver is HIRED exactly when one open hire holds a line for it in state OUT, and LOST with a link exactly when
one holds a line for it in state LOST; its link names that line (R120). -/
structure LinksAgree (r : Retained) : Prop where
  sorted : Table.Sorted r.receivers
  numbers : ∀ e ∈ r.receivers, e.1 < 4096
  hired : ∀ n, (r.receiver n).state = .hired →
    ∃ link l, (r.receiver n).link = some link ∧ r.line? link = some l ∧ l.receiver = n ∧ l.state = .out
  lost : ∀ n link, (r.receiver n).state = .lost → (r.receiver n).link = some link →
    ∃ l, r.line? link = some l ∧ l.receiver = n ∧ l.state = .lost
  linked : ∀ n, (r.receiver n).link.isSome = true → (r.receiver n).state = .hired ∨ (r.receiver n).state = .lost
  out : ∀ link l, r.line? link = some l → l.state = .out →
    (r.receiver l.receiver).state = .hired ∧ (r.receiver l.receiver).link = some link
  gone : ∀ link l, r.line? link = some l → l.state = .lost →
    (r.receiver l.receiver).state = .lost ∧ (r.receiver l.receiver).link = some link

/-- A CLOSE in flight: its hire is open, and while the change count is that of its work copy the hire is firm (R138,
R160). -/
def CloseHolds (s : State) : Prop :=
  ∀ f a, s.gen.flight = some f → f.request = .close a →
    ∃ h, s.hire? f.copy.ticket = some h ∧ f.copy.changeCount ≤ h.changeCount ∧
      (h.changeCount = f.copy.changeCount → ∀ l ∈ h.lines, l.state ≠ .out)

/-- Lines, marks and listeners (R101, R114, R120): a line is OUT while it has no end; its credit stays within its duration; a
HIRED receiver alone has a language, with a mark within U; a listener count is the number of HIRED receivers whose
language is the slot, and no peak is below it. -/
structure CreditAgrees (s : State) : Prop where
  ended : ∀ link l, s.ret.line? link = some l → (l.ended = none ↔ l.state = .out)
  times : ∀ link l, s.ret.line? link = some l →
    l.issue ≤ l.ended.getD s.clock ∧ l.ended.getD s.clock ≤ s.clock ∧ l.credit ≤ l.ended.getD s.clock - l.issue
  tuned : ∀ n m, (s.receiver n).tuned = some m → (s.receiver n).state = .hired ∧ m.mark ≤ (s.slot m.slot).u
  listeners : ∀ k, s.ret.listeners.get k =
    s.ret.receivers.countP (fun e => e.2.state == .hired && e.2.tuned.map Tuning.slot == some k)
  peaks : ∀ k, s.ret.listeners.get k ≤ s.ret.peaks.get k

/-! ## The accounts (R164) -/

/-- No total stands at the total limit. -/
def Accounts.below (a : Accounts) : Prop :=
  a.timeCharges < Config.totalLimit ∧ a.lossFees < Config.totalLimit ∧ a.depositsApplied < Config.totalLimit ∧
    a.collected < Config.totalLimit ∧ a.refunded < Config.totalLimit

/-- Time charges plus loss fees equal deposits applied plus collected minus refunded. -/
def Accounts.balanced (a : Accounts) : Prop :=
  a.timeCharges + a.lossFees + a.refunded = a.depositsApplied + a.collected

/-! ## Ranges (R2, R29, R53, R54, R107, R119) -/

structure RangesKept (s : State) : Prop where
  clock : s.clock ≤ 4294967295
  counters : ∀ k, (s.slot k).u ≤ 4294967295 ∧ (s.slot k).v ≤ 4294967295
  marks : ∀ k, (s.slot k).uMark ≤ (s.slot k).u ∧ (s.slot k).vMark ≤ (s.slot k).v
  seats : ∀ b k, (s.acc b k).onAir ≤ 4294967295 ∧ (s.acc b k).turns ≤ 65535
  sequence : s.ret.dirSeq ≤ 65535
  intake : s.gen.intake.length ≤ 64
  deposits : ∀ e ∈ s.ret.hires, e.2.deposit ≤ 4294967295

/-! ## The relay graph (R76) -/

/-- A link of the graph: a booth listening to channel `r` has `c` as an output. -/
def links (arcs : List RelayArc) (r c : Chan) : Prop := ∃ a ∈ arcs, a.input = .channel r ∧ c ∈ a.outputs

/-- Following one or more links from `r` leads to `c`. -/
inductive Reaches (arcs : List RelayArc) : Chan → Chan → Prop where
  | one (r c : Chan) : links arcs r c → Reaches arcs r c
  | more (r m c : Chan) : links arcs r m → Reaches arcs m c → Reaches arcs r c

end Sys2Proof.Machine
end

