-- ==== Sys2Proof/Certificates/Slice0/Obligations.lean ====
section
/-! DEFINITION. The statements for the provers. -/

open Sys2Proof Sys2Proof.Machine

/-! ## The machine as a whole -/

/-- The command at the front of the queue is taken, on the state with the queue's rest; on an empty queue the part idles
(the model's choice, log 2). -/
def Obligations.StepTakesTheFront : Prop :=
  (∀ (c : Instr) (rest : List Instr) (s : State), s.pending = c :: rest → step s = exec c { s with pending := rest }) ∧
  (∀ s : State, s.pending = [] → step s = .next s)

/-- Every command has a next state in every state, and leaves the queue of waiting commands alone. Both are the model's
choice: no reset and no loss of a supply empties the queue (log 26), and a command for an event that cannot occur in the
present state has a next state too (log 3). -/
def Obligations.EveryCommandCompletes : Prop :=
  ∀ (c : Instr) (s : State), ∃ t, exec c s = .next t ∧ t.pending = s.pending

/-- The expiries of a second event are taken before any later event of the general domain (the model's choice, log 4):
a command finds the state in which each of them has been taken, a second event, a loss of the main supply, an assertion of the
reset line, a break and its end among them, where they act (R6: the last second event is then wholly taken). R9, R10: while the general domain is off or held in reset,
no command but those of the supplies, the reset line, the clock and the breaks changes anything. -/
def Obligations.EventsAreTakenInTheirTurn : Prop :=
  (∀ (c : Instr) (s : State), s.running = true → isInput c = false → isExpiry c = false →
     (takeDue s).gen.due = [] ∧ exec c s = exec c (takeDue s)) ∧
  (∀ s : State, s.running = true →
     (s.clock < 4294967295 → exec .secondEvent s = exec .secondEvent (takeDue s)) ∧
     exec .mainSupplyFail s = exec .mainSupplyFail (takeDue s) ∧
     exec .resetLineAssert s = exec .resetLineAssert (takeDue s) ∧
     ∀ p, (s.breaks.get p = false → exec (.portBreak p) s = exec (.portBreak p) (takeDue s)) ∧
       (s.breaks.get p = true → exec (.breakEnd p) s = exec (.breakEnd p) (takeDue s))) ∧
  (∀ (c : Instr) (s : State), s.running = false → isInput c = false → exec c s = .next s)

/-! ## Supplies and resets (chapter 1) -/

/-- R5, R7: both supplies gone, the mark is INVALID; a power-on that finds the mark INVALID takes a full reset, which leaves the
state of `State.reset`, on a port that is still in a break with RESTARTED of kind PORT (R11). R10: power-on with the mark INVALID and the line asserted clears the store, the clock and the mark at
once, and the release of the line completes the reset as the power-on gave it. R6, R10, R68: loss of the main supply, and the
assertion of the line, end what the general domain does, so that no line carries anything (R9, R32, R33), and leave the clock, the mark and the retained store, with the result
of the last event wholly taken; while the line is asserted every offer keeps its remaining seconds. The model's own choices
here: a reset takes no time, so the clock and the RESTARTED time are 0 at the completion of a full reset (log 34); the mark
of a part without power already reads INVALID (log 18); that the level of the reset line outlives the supplies, and the
reset values that no rule gives, are those of `State.reset` (logs 1, 23, 24 and 27); that `draws` outlives every reset, as the queue does (logs 15, 26). -/
def Obligations.SuppliesFailAndReturn : Prop :=
  (∀ s : State, ∃ t, exec .backupDomainPowerLoss s = .next t ∧ t.supply = .none ∧ t.mark = .invalid ∧
    t.running = false ∧ Silent t ∧ t.breaks = s.breaks ∧ t.lineAsserted = s.lineAsserted) ∧
  (∀ s : State, s.supply ≠ .main → s.mark = .invalid → s.lineAsserted = false →
    ∃ t, exec .powerOn s = .next t ∧ AfterFullReset s.heldStart s t) ∧
  (∀ s : State, s.supply ≠ .main → s.mark = .invalid → s.lineAsserted = true →
     ∃ t, exec .powerOn s = .next t ∧ t.running = false ∧ Silent t ∧ t.ret = Retained.cleared ∧ t.clock = 0 ∧ t.mark = .valid ∧
       ∃ u, exec .resetLineRelease t = .next u ∧ AfterFullReset none s u) ∧
  (∀ s : State, s.supply = .main → s.gen.due = [] →
    ∃ t, exec .mainSupplyFail s = .next t ∧ t.supply = .backup ∧ t.running = false ∧ Silent t ∧ t.ret = s.ret ∧
      t.clock = s.clock ∧ t.mark = s.mark) ∧
  (∀ s : State, s.lineAsserted = false → s.gen.due = [] →
    ∃ t, exec .resetLineAssert s = .next t ∧ t.lineAsserted = true ∧ t.supply = s.supply ∧ t.running = false ∧
      Silent t ∧ t.ret = s.ret ∧ t.clock = s.clock ∧ t.mark = s.mark ∧ (∀ p, t.attention p = false) ∧
      ∀ c, t.offer c = s.offer c)

/-- R8, R10: the three causes of a general reset that keeps the retained store: power-on with the mark VALID, the release
of the reset line, and DEVICE_RESET from the console. A power-on with the mark VALID while the line is asserted waits for
the release, which completes its reset with restart kind POWER. That an UNASSIGNED channel's remaining seconds read 0 is the
model's reading (log 37). -/
def Obligations.GeneralResetValues : Prop :=
  (∀ s : State, s.supply ≠ .main → s.mark = .valid → s.lineAsserted = false →
    ∃ t, exec .powerOn s = .next t ∧ t.running = true ∧ AfterGeneralReset .power s t) ∧
  (∀ s : State, s.supply = .main → s.lineAsserted = true → s.heldStart = none →
    ∃ t, exec .resetLineRelease s = .next t ∧ t.running = true ∧ AfterGeneralReset .line s t) ∧
  (∀ s : State, s.supply = .main → s.lineAsserted = true → s.heldStart = some false →
    ∃ t, exec .resetLineRelease s = .next t ∧ t.running = true ∧ AfterGeneralReset .power s t) ∧
  (∀ s : State, s.supply ≠ .main → s.mark = .valid → s.lineAsserted = true →
    ∃ t, exec .powerOn s = .next t ∧ t.supply = .main ∧ t.lineAsserted = true ∧ t.heldStart = some false ∧
      t.ret = s.ret ∧ t.clock = s.clock ∧ t.mark = s.mark ∧ t.breaks = s.breaks) ∧
  (∀ (s : State) (tag : Byte), Ready .console s →
    ∃ t, exec (.deviceReset .console tag) s = .next t ∧ t.running = true ∧ AfterGeneralReset .command s t)

/-- R11, R170, R183: a break resets its own port: its request and its accounting job are abandoned, its queues emptied,
its subscriptions at their defaults, its marker clear, and RESTARTED of kind PORT queued; nothing else changes. The end
of the break leaves the framing between frames. -/
def Obligations.BreakResetsOnePort : Prop :=
  (∀ (s : State) (p : Port), Awake s → s.breaks.get p = false →
    ∃ t, exec (.portBreak p) s = .next t ∧ t.breaks.get p = true ∧
      t.port p =
        { inProgress := none, urgent := [⟨s.clock, .restarted .port false⟩], routine := []
          subscriptions := defaultSubscriptions p, overrun := false, framing := .between, transmit := [] } ∧
      (∀ q, q ≠ p → t.port q = s.port q ∧ t.breaks.get q = s.breaks.get q) ∧
      t.gen.jobs = s.gen.jobs.filter (fun j => j.port != p) ∧
      t.gen.flight = (if s.gen.flight.map Flight.port = some p then none else s.gen.flight) ∧
      t = { s with
        breaks := t.breaks, gen.ports := t.gen.ports, gen.jobs := t.gen.jobs, gen.flight := t.gen.flight }) ∧
  (∀ (s : State) (p : Port), Awake s → s.breaks.get p = true →
    exec (.portBreak p) s = .next s ∧
    ∃ t, exec (.breakEnd p) s = .next t ∧ t.breaks.get p = false ∧ t.port p = { s.port p with framing := .between } ∧
      (∀ q, q ≠ p → t.port q = s.port q ∧ t.breaks.get q = s.breaks.get q) ∧
      t = { s with breaks := t.breaks, gen.ports := t.gen.ports })

/-! ## Time (chapter 1, R24, R29, R32, R53, R68, R133, R180) -/

/-- What one second event counts, with the coverage, seats, offers and waits that it finds: the clock, U and V, on-air
seconds, gap holds, offers, the directory repeat and the waits. That all blocks count in the one step, and leave what has run
out in the list `due` to be taken next, is the model's choice (log 4); so is that a free value
says whether a hold which a turn end has just begun is counted, as R24 has it, or came together with this second event and
is not, as R25 has it (log 15). -/
def Obligations.SecondEventCounts : Prop :=
  ∀ s : State, Awake s → s.clock < 4294967295 → ∃ t, exec .secondEvent s = .next t ∧
    t.clock = s.clock + 1 ∧
    (∀ k, t.slot k = { s.slot k with
      u := if s.gen.override = false ∧ (s.slot k).channel.map (fun c => (s.chan c).coverage) = some .uncovered
        then min 4294967295 ((s.slot k).u + 1) else (s.slot k).u
      v := if s.gen.override = false ∧ (s.slot k).channel.map (fun c => (s.chan c).coverage) = some .covered
        then min 4294967295 ((s.slot k).v + 1) else (s.slot k).v }) ∧
    (∀ b i, t.acc b i = { s.acc b i with
      onAir := if s.seat b i = .live ∨ s.seat b i = .cough then min 4294967295 ((s.acc b i).onAir + 1)
        else (s.acc b i).onAir }) ∧
    (∀ c, t.chan c = { s.chan c with
      remaining :=
        if (s.chan c).coverage = .holding ∧ ¬ ((s.chan c).fresh = true ∧ Config.turnEndMeets s.draws c = true) then
          (s.chan c).remaining - 1
        else (s.chan c).remaining
      fresh := false }) ∧
    t.draws = s.draws + 1 ∧
    (∀ c, t.offer c = (s.offer c).map (fun o => { o with remaining := o.remaining - 1 })) ∧
    t.gen.dirCount = s.gen.dirCount + 1 ∧
    (∀ p, t.port p = { s.port p with
      inProgress := (s.port p).inProgress.map
        (fun r => { r with wait := r.wait.map (fun w => { w with remaining := w.remaining - 1 }) }) }) ∧
    (∀ c, Due.gapHold c ∈ t.gen.due ↔ (t.chan c).coverage = .holding ∧ (t.chan c).remaining = 0) ∧
    (∀ c, Due.offer c ∈ t.gen.due ↔ ∃ o, t.offer c = some o ∧ o.remaining = 0) ∧
    (Due.directory ∈ t.gen.due ↔ 2 ≤ t.gen.dirCount) ∧
    (Due.alarm ∈ t.gen.due ↔ ∃ e ∈ s.ret.hires, e.2.overdue = false ∧ (∃ d, e.2.due = some d ∧ d ≤ t.clock) ∧
      ∃ l ∈ e.2.lines, l.state = .out) ∧
    (∀ p, Due.wait p ∈ t.gen.due ↔
      ∃ r w, (t.port p).inProgress = some r ∧ r.wait = some w ∧ w.remaining = 0) ∧
    t = { s with
      clock := t.clock, ret.slots := t.ret.slots, ret.seatAcc := t.ret.seatAcc, gen.chans := t.gen.chans
      gen.offers := t.gen.offers, gen.dirCount := t.gen.dirCount, gen.ports := t.gen.ports, gen.due := t.gen.due, draws := t.draws }

/-- R2, R5, R10: at its last value the clock stands still and no second event is issued; a part that is off or held in reset
advances the clock and takes no second event. CLOCK_SET is refused IN_USE while a hire is open or the session is OPEN;
otherwise the clock takes the value, and the response carries it. -/
def Obligations.ClockRunsAndIsSet : Prop :=
  (∀ s : State, s.clock = 4294967295 → exec .secondEvent s = .next s) ∧
  (∀ s : State, s.supply ≠ .none → s.running = false → s.clock < 4294967295 →
    exec .secondEvent s = .next { s with clock := s.clock + 1 }) ∧
  (∀ (s : State) (tag : Byte) (value : Word), Ready .console s →
     ((s.ret.hires ≠ [] ∨ s.ret.session.state = .opened) →
       exec (.clockSet .console tag value) s = .next (responds .console tag .inUse [] s)) ∧
     (s.ret.hires = [] → s.ret.session.state ≠ .opened →
       exec (.clockSet .console tag value) s =
         .next (responds .console tag .done (wordBytes value) { s with clock := value.toNat })))

/-! ## The plan unit (chapter 2) -/

/-- R14, R15: the checks of LANG_DEFINE and LANG_REMOVE in their order; an accepted request writes the slot's tag and
label alone, apart from the directory of an assigned slot. -/
def Obligations.LanguagesDefinedAndRemoved : Prop :=
  (∀ (s : State) (tag slot : Byte) (langTag : Half) (label : List Byte), Ready .console s →
    ((32 ≤ slot.toNat ∨ langTag = 0 ∨ label.length < 1 ∨ 12 < label.length ∨
        ∃ b ∈ label, b.toNat < 0x20 ∨ 0x7E < b.toNat) →
      exec (.langDefine .console tag slot langTag label) s = .next (responds .console tag .badArg [] s)) ∧
    ∀ k : Slot, slot.toNat = k.val → langTag ≠ 0 → 1 ≤ label.length → label.length ≤ 12 →
      (∀ b ∈ label, 0x20 ≤ b.toNat ∧ b.toNat ≤ 0x7E) →
      (((∃ j n, j ≠ k ∧ (s.slot j).name = some n ∧ n.tag = langTag.toNat) ∨
          ((s.slot k).channel ≠ none ∧ (s.slot k).name.map LangName.tag ≠ some langTag.toNat)) →
        exec (.langDefine .console tag slot langTag label) s = .next (responds .console tag .inUse [] s)) ∧
      ((∀ j n, j ≠ k → (s.slot j).name = some n → n.tag ≠ langTag.toNat) →
        ((s.slot k).channel ≠ none → (s.slot k).name.map LangName.tag = some langTag.toNat) →
        ∃ t, exec (.langDefine .console tag slot langTag label) s = .next (responds .console tag .done [] t) ∧
        t.slot k = { s.slot k with name := some ⟨langTag.toNat, label⟩ } ∧ (∀ j, j ≠ k → t.slot j = s.slot j) ∧
        t = { s with
          ret.slots := t.ret.slots, ret.dirSeq := t.ret.dirSeq, gen.dirSending := t.gen.dirSending
          gen.dirPending := t.gen.dirPending, gen.dirCount := t.gen.dirCount })) ∧
  (∀ (s : State) (tag slot : Byte), Ready .console s → PlanAgrees s.ret →
    (32 ≤ slot.toNat → exec (.langRemove .console tag slot) s = .next (responds .console tag .badArg [] s)) ∧
    ∀ k : Slot, slot.toNat = k.val →
      ((s.slot k).name = none →
        exec (.langRemove .console tag slot) s = .next (responds .console tag .notFound [] s)) ∧
      ((s.slot k).name ≠ none → (s.slot k).channel ≠ none →
        exec (.langRemove .console tag slot) s = .next (responds .console tag .inUse [] s)) ∧
      ((s.slot k).name ≠ none → (s.slot k).channel = none →
        exec (.langRemove .console tag slot) s =
          .next (responds .console tag .done [] (s.setSlot k { s.slot k with name := none }))))

/-- R17: a CHAN_ASSIGN with a parameter out of its range is refused BAD_ARG (a FLOOR or SILENT with a number other than 0
among them: the model's choice, log 16); otherwise the first of checks 2 to 9 that fails decides, and nothing changes. -/
def Obligations.AssignRefused : Prop :=
  ∀ (s : State) (tag target : Byte) (args : AssignArgs), Ready .console s →
    ((target.toNat < 1 ∨ 24 < target.toNat ∨ (args.slot ≠ 0xFF ∧ 32 ≤ args.slot.toNat) ∨ 2 < args.policy.toNat ∨
        2 < args.fallback.kind.toNat ∨ (args.fallback.kind ≠ 2 ∧ args.fallback.number ≠ 0) ∨
        (args.fallback.kind = 2 ∧ (args.fallback.number.toNat < 1 ∨ 24 < args.fallback.number.toNat))) ↔
      assignOf target args = none) ∧
    (assignOf target args = none →
      exec (.chanAssign .console tag target args) s = .next (responds .console tag .badArg [] s)) ∧
    ∀ a : Assign, assignOf target args = some a → AssignReads target args a ∧
      ∀ n : Nat, AssignFails s a n → (∀ m, m < n → ¬ AssignFails s a m) →
        exec (.chanAssign .console tag target args) s = .next (responds .console tag (assignOutcome n) [] s)

/-- R17, R18, R19: a CHAN_ASSIGN that passes every check. The settings written are those of its parameters, with gap hold and
offer time clamped; the slot and channel fields; the coverage of the target by the table of R18; a channel that a language left. Booths that
listened to a channel now UNASSIGNED listen to the floor (R86). A target that enters the plan with gap hold 0 is UNCOVERED at
once, with the notices of an expiry (R24, R82). That an UNASSIGNED channel's remaining seconds read 0 is the
model's reading (log 37). -/
def Obligations.AssignAccepted : Prop :=
  ∀ (s : State) (tag target : Byte) (args : AssignArgs) (a : Assign), Ready .console s → assignOf target args = some a →
    (∀ n, ¬ AssignFails s a n) →
    AssignReads target args a ∧
    ∃ t, exec (.chanAssign .console tag target args) s =
        .next (responds .console tag .done (u8 a.gapHold ++ u8 a.offerTime) t) ∧
      (∀ c, t.settings c =
        if c = a.target then ⟨a.slot, a.policy, a.fallback, a.gapHold, a.offerTime⟩
        else { s.settings c with slot := if movedFrom s a = some c then none else (s.settings c).slot }) ∧
      (∀ k, t.slot k = { s.slot k with
        channel := if a.slot = some k then some a.target
          else if (s.settings a.target).slot = some k then none else (s.slot k).channel }) ∧
      (∀ c, t.chan c =
        if c = a.target then targetAfter s a
        else if movedFrom s a = some c then ⟨.unassigned, none, .silent, 0, false⟩ else s.chan c) ∧
      (∀ b, t.booth b = { s.booth b with
        chosen := match (s.booth b).chosen with
          | .channel c => if movedFrom s a = some c ∨ (c = a.target ∧ a.slot = none) then .floor else .channel c
          | .floor => .floor
        effective := (t.booth b).effective, autoHold := (t.booth b).autoHold }) ∧
      (a.gapHold ≠ 0 ∨ entersPlan s a = false → t.gen.ports = s.gen.ports) ∧
      (a.gapHold = 0 → entersPlan s a = true → Notified (uncoverNotices t a.target) s t) ∧
      t = { s with
        ret.plan := t.ret.plan, ret.slots := t.ret.slots, ret.dirSeq := t.ret.dirSeq, ret.receivers := t.ret.receivers
        ret.listeners := t.ret.listeners, ret.hires := t.ret.hires, gen.chans := t.gen.chans
        gen.booths := t.gen.booths, gen.routeSending := t.gen.routeSending, gen.routeList := t.gen.routeList
        gen.dirSending := t.gen.dirSending, gen.dirPending := t.gen.dirPending, gen.dirCount := t.gen.dirCount
        gen.ports := t.gen.ports }

/-- R20, R115, R130: an accepted CHAN_ASSIGN closes the credit of every HIRED receiver whose language left the plan: U of the
slot minus its mark joins the credit of its line, held at the line's duration; its language becomes NONE and the listener
count of the slot 0. No other receiver, line, listener count or counter changes. -/
def Obligations.AssignClosesCredit : Prop :=
  ∀ (s : State) (tag target : Byte) (args : AssignArgs) (a : Assign), Ready .console s → assignOf target args = some a →
    (∀ n, ¬ AssignFails s a n) → HiresLawful s.ret → LinksAgree s.ret →
    ∃ t, exec (.chanAssign .console tag target args) s =
        .next (responds .console tag .done (u8 a.gapHold ++ u8 a.offerTime) t) ∧
      (∀ n, t.receiver n = { s.receiver n with
        tuned := if (s.receiver n).state = .hired ∧ (leavingSlot s a).isSome ∧
            (s.receiver n).tuned.map Tuning.slot = leavingSlot s a then none else (s.receiver n).tuned }) ∧
      (∀ k, t.ret.listeners.get k = if leavingSlot s a = some k then 0 else s.ret.listeners.get k) ∧
      (∀ k, (t.slot k).u = (s.slot k).u ∧ (t.slot k).v = (s.slot k).v) ∧
      t.ret.hires.map Prod.fst = s.ret.hires.map Prod.fst ∧
      (∀ ticket h, s.hire? ticket = some h → ∃ h', t.hire? ticket = some h' ∧ h' = { h with lines := h'.lines } ∧
        h'.lines = h.lines.map (fun l =>
          match l.state, (s.receiver l.receiver).tuned with
          | .out, some m =>
            if leavingSlot s a = some m.slot then
              { l with credit := creditUpTo l ((s.slot m.slot).u - m.mark) s.clock }
            else l
          | _, _ => l))

/-- R28: OVERRIDE answers DONE with the flag as it stands. Set to the value it has, nothing changes; otherwise the flag
changes, with a route order for every channel whose effective route changes, and the directory sequence advances by 1.
That the response gives on as byte 1 and off as byte 0 is the model's reading (log 33). -/
def Obligations.OverrideSwitches : Prop :=
  ∀ (s : State) (tag : Byte) (on : Bool), Ready .console s →
    (s.gen.override = on →
      exec (.override .console tag on) s = .next (responds .console tag .done [yesNoByte on] s)) ∧
    (s.gen.override ≠ on → ∃ t,
      exec (.override .console tag on) s = .next (responds .console tag .done [yesNoByte on] t) ∧
      t.gen.override = on ∧
      (∀ c, effectiveRoute t c =
        if (s.settings c).slot = none then .silent else if on then .floor else (s.chan c).source) ∧
      (∀ c, effectiveRoute t c ≠ effectiveRoute s c → .route c (effectiveRoute t c) ∈ routeOrders t) ∧
      t.ret.dirSeq = (if s.ret.dirSeq < 65535 then s.ret.dirSeq + 1 else 0) ∧
      t = { s with
        ret.dirSeq := t.ret.dirSeq, gen.override := t.gen.override, gen.routeSending := t.gen.routeSending
        gen.routeList := t.gen.routeList, gen.dirSending := t.gen.dirSending, gen.dirPending := t.gen.dirPending
        gen.dirCount := t.gen.dirCount })

/-- R24, R82: a gap hold that has run out makes its channel UNCOVERED on its fallback, with a CHANNEL_UNCOVERED notice; each
booth with auto-floor that listens to it takes the floor, with a RELAY_FALLBACK notice. Nothing else of the hall changes. -/
def Obligations.GapHoldExpires : Prop :=
  ∀ (s : State) (c : Chan), s.running = true → ListeningAgrees s → Due.gapHold c ∈ s.gen.due →
    (s.chan c).coverage = .holding → (s.chan c).remaining = 0 →
    ∃ t, exec (.gapHoldExpiry c) s = .next t ∧
      ChanMoved c ⟨.uncovered, none, (s.settings c).fallback.source, 0, false⟩ s t ∧
      (∀ b, t.booth b = { s.booth b with
        effective := if b ∈ fallenBooths s c then .floor else (s.booth b).effective
        autoHold := if b ∈ fallenBooths s c then true else (s.booth b).autoHold }) ∧
      Notified (uncoverNotices s c) s t ∧ t.gen.offers = s.gen.offers ∧ t.ret.seatAcc = s.ret.seatAcc ∧
      HallOnly { s with gen.due := s.gen.due.erase (.gapHold c) } t

/-- R32, R33, R173: what the lines do at a repeat that is due and at the end of what they send; that a repeat which only marks
a send as pending restarts the count is the model's choice (log 32), and that the next order is being sent in the step that ends the one before it, so
that it can be replaced no longer, is the model's reading (log 24). R34: ROUTE_REFRESH places the
full set as it stands: a waiting order takes the value that holds now in its place, and the orders of the other subjects
follow in the order of the set. On an idle line the set is all that the line has to send. -/
def Obligations.LinesSendOnAndRefresh : Prop :=
  (∀ s : State, s.running = true → Due.directory ∈ s.gen.due → 2 ≤ s.gen.dirCount →
    exec .directoryRepeat s = .next
      (if s.gen.dirSending = none then
        { s with
          gen.due := s.gen.due.erase .directory, gen.dirSending := some ⟨dirContent s, s.ret.dirSeq⟩
          gen.dirPending := false, gen.dirCount := 0 }
      else { s with gen.due := s.gen.due.erase .directory, gen.dirPending := true, gen.dirCount := 0 })) ∧
  (∀ (s : State) (d : Directory), Awake s → s.gen.dirSending = some d →
    exec .directorySendEnd s = .next
      (if s.gen.dirPending then
        { s with gen.dirSending := some ⟨dirContent s, s.ret.dirSeq⟩, gen.dirPending := false, gen.dirCount := 0 }
      else { s with gen.dirSending := none })) ∧
  (∀ (s : State) (o : RouteOrder), Awake s → s.gen.routeSending = some o →
    exec .routeOrderSent s =
      .next { s with gen.routeSending := s.gen.routeList.head?, gen.routeList := s.gen.routeList.tail }) ∧
  (∀ (s : State) (p : Port), Awake s →
    exec (.responseFrameSent p) s = .next (s.setPort p { s.port p with transmit := (s.port p).transmit.tail })) ∧
  (∀ (s : State) (tag : Byte), Ready .console s → RouteListed s →
     ∃ t, exec (.routeRefresh .console tag) s = .next (responds .console tag .done [] t) ∧
       t = { s with gen.routeSending := t.gen.routeSending, gen.routeList := t.gen.routeList } ∧
       (s.gen.routeSending = none → routeOrders t = fullSet s) ∧
       (∀ o, s.gen.routeSending = some o → t.gen.routeSending = some o ∧
         t.gen.routeList = s.gen.routeList.map (nowOrder s) ++
           (fullSet s).filter (fun x => s.gen.routeList.all (fun y => !sameSubject y x))))

/-! ## The booth unit (chapters 3 to 5) -/

/-- R21, R41, R54: SEAT_ON from an OFF seat of a booth with no live seat, on a channel with no holder. UNASSIGNED: NO_CHANNEL.
HOLDING or UNCOVERED: the seat goes LIVE with one turn more, the channel is COVERED by it, and CHANNEL_COVERED is sent if it
was UNCOVERED. That its discarded gap-hold seconds read 0 is the model's reading (log 37). -/
def Obligations.SeatOnTakesAFreeChannel : Prop :=
  ∀ (s : State) (b : Booth) (m : BoothSettings) (seat : Byte) (k : Seat) (rest : List ReplyEvent),
    Handing s b m (.seatOn seat) rest → Names m seat k → s.seat b k = .off → NoneLive s b →
    ((s.chan (selectedChan m (s.booth b))).coverage = .unassigned →
      exec (.seatOn b seat) s = .next (indicate b (some .noChannel) (handed s b rest))) ∧
    ((s.chan (selectedChan m (s.booth b))).coverage = .holding ∨
        (s.chan (selectedChan m (s.booth b))).coverage = .uncovered →
      ∃ t, exec (.seatOn b seat) s = .next t ∧
        SeatsMoved (fun d j => if d = b ∧ j = k then .live else s.seat d j) (fun d => (s.booth d).indication) s t ∧
        TurnsRaised [(b, k)] s t ∧
        ChanMoved (selectedChan m (s.booth b)) ⟨.covered, some ⟨b, k⟩, .booth b, 0, false⟩ s t ∧
        t.gen.offers = s.gen.offers ∧
        Notified (if (s.chan (selectedChan m (s.booth b))).coverage = .uncovered then
          [.channelCovered (selectedChan m (s.booth b)) (chanTag s (selectedChan m (s.booth b))) b k] else []) s t ∧
        HallOnly (handed s b rest) t)

/-- R42, R43, R62: SEAT_ON from an OFF seat of a booth with no live seat, on a channel that a seat of another booth holds, by
the channel's claim policy. -/
def Obligations.SeatOnMeetsAHolder : Prop :=
  ∀ (s : State) (b : Booth) (m : BoothSettings) (seat : Byte) (k : Seat) (rest : List ReplyEvent) (c : Chan) (x : Holder),
    Handing s b m (.seatOn seat) rest → Names m seat k → s.seat b k = .off → NoneLive s b →
    c = selectedChan m (s.booth b) → (s.chan c).coverage = .covered → (s.chan c).holder = some x → HallAgrees s →
    ((s.settings c).policy = .first →
      exec (.seatOn b seat) s = .next (indicate b (some .engaged) (handed s b rest))) ∧
    ((s.settings c).policy = .offer → s.offer c ≠ none →
      exec (.seatOn b seat) s = .next (indicate b (some .busy) (handed s b rest))) ∧
    ((s.settings c).policy = .offer → s.offer c = none →
      exec (.seatOn b seat) s = .next
        (((handed s b rest).setOffer c (some ⟨.across, b, k, x.booth, x.seat, (s.settings c).offerTime⟩)).setSeat b k
          .waiting)) ∧
    ((s.settings c).policy = .last →
      ∃ t, exec (.seatOn b seat) s = .next t ∧
        SeatsMoved (fun d j => if d = b ∧ j = k then .live else cutSeats s x (s.offer c) d j)
          (fun d => if d = x.booth ∨ (s.offer c).map Offer.waitBooth = some d then some .cut else (s.booth d).indication)
          s t ∧
        TurnsRaised ((b, k) :: cutTurns (s.offer c)) s t ∧
        ChanMoved c { s.chan c with holder := some ⟨b, k⟩, source := .booth b } s t ∧ OfferMoved c none s t ∧
        Notified (cutNotices s c) s t ∧ HallOnly (handed s b rest) t)

/-- R59, R60, R61: SEAT_ON from an OFF seat of a booth whose seat `h` is live. DIRECT: the seat takes the channel at once, an
ACROSS offer stays and names it as the holder. COURTESY or TIMED: an IN_BOOTH offer opens, or BUSY where one stands. -/
def Obligations.SeatOnWithinABooth : Prop :=
  ∀ (s : State) (b : Booth) (m : BoothSettings) (seat : Byte) (h k : Seat) (rest : List ReplyEvent) (c : Chan),
    Handing s b m (.seatOn seat) rest → Names m seat k → s.seat b k = .off → isLive (s.seat b h) = true →
    c = selectedChan m (s.booth b) → HallAgrees s →
    (m.mode = .direct → (∀ o, s.offer c = some o → o.kind = .across) →
      ∃ t, exec (.seatOn b seat) s = .next t ∧
        SeatsMoved (fun d j => if d = b ∧ j = k then .live else if d = b ∧ j = h then .off else s.seat d j)
          (fun d => (s.booth d).indication) s t ∧
        TurnsRaised [(b, k)] s t ∧
        ChanMoved c { s.chan c with holder := some ⟨b, k⟩, source := .booth b } s t ∧
        OfferMoved c ((s.offer c).map (fun o => { o with holdBooth := b, holdSeat := k })) s t ∧
        Notified [.handover c (chanTag s c) .direct none b h b k] s t ∧ HallOnly (handed s b rest) t) ∧
    (m.mode ≠ .direct → s.offer c ≠ none →
      exec (.seatOn b seat) s = .next (indicate b (some .busy) (handed s b rest))) ∧
    (m.mode ≠ .direct → s.offer c = none →
      exec (.seatOn b seat) s = .next
        (((handed s b rest).setOffer c (some ⟨.inBooth, b, k, b, h, m.offerTime⟩)).setSeat b k .waiting))

/-- R40: an event of a seat that the booth does not have, and one that does not fit the seat's state, is ignored: the event is
handed on and nothing else changes. R90, R91, R95, R98: the end of a voided window closes the cycle and does nothing else,
whatever the reply (the model's reading, log 8); with no window open a reply's bytes are discarded, and an expiry,
which cannot occur then, changes nothing (the model's choice, log 3); the events of a booth
that has left PRESENT are discarded with their cycle. -/
def Obligations.UnfitEventsAreIgnored : Prop :=
  (∀ (s : State) (b : Booth) (m : BoothSettings) (seat : Byte) (rest : List ReplyEvent),
     (Handing s b m (.seatOn seat) rest → (∀ k, Names m seat k → s.seat b k ≠ .off) →
       exec (.seatOn b seat) s = .next (handed s b rest)) ∧
     (Handing s b m (.seatOff seat) rest → (∀ k, Names m seat k → s.seat b k = .off) →
       exec (.seatOff b seat) s = .next (handed s b rest)) ∧
     (Handing s b m (.coughDown seat) rest → (∀ k, Names m seat k → s.seat b k ≠ .live) →
       exec (.coughDown b seat) s = .next (handed s b rest)) ∧
     (Handing s b m (.coughUp seat) rest → (∀ k, Names m seat k → s.seat b k ≠ .cough) →
       exec (.coughUp b seat) s = .next (handed s b rest)) ∧
     (Handing s b m (.give seat) rest → (∀ k o, Names m seat k → s.offer (selectedChan m (s.booth b)) = some o →
         ¬ (isLive (s.seat b k) = true ∧ o.holdBooth = b ∧ o.holdSeat = k)) →
       exec (.give b seat) s = .next (handed s b rest))) ∧
  (∀ (s : State) (b : Booth) (bytes : List Byte), Awake s → s.gen.cycle = .window b true →
    exec (.boothReply bytes) s = .next { s with gen.cycle := .idle } ∧
    exec .replyWindowExpiry s = .next { s with gen.cycle := .idle }) ∧
  (∀ (s : State) (bytes : List Byte), Awake s → (∀ b v, s.gen.cycle ≠ .window b v) →
    exec (.boothReply bytes) s = .next s ∧ exec .replyWindowExpiry s = .next s) ∧
  (∀ (s : State) (b : Booth) (e : ReplyEvent) (rest : List ReplyEvent), Awake s → s.gen.cycle = .handing b (e :: rest) →
    (s.booth b).presence ≠ .present → exec (eventCommand b e) s = .next { s with gen.cycle := .idle })

/-- R47, R48: COUGH_DOWN makes a LIVE seat COUGH and its booth muted, COUGH_UP makes a COUGH seat LIVE and its booth not muted;
the mute order is placed where the mute state changes, and nothing else of the hall changes. -/
def Obligations.CoughMutesTheBooth : Prop :=
  ∀ (s : State) (b : Booth) (m : BoothSettings) (seat : Byte) (k : Seat) (rest : List ReplyEvent), Names m seat k →
    HallAgrees s →
    (Handing s b m (.coughDown seat) rest → s.seat b k = .live →
      exec (.coughDown b seat) s = .next (placeOrder (.mute b true)
        ((handed s b rest).setBooth b
          { s.booth b with seats := (s.booth b).seats.set k .cough, muted := true }))) ∧
    (Handing s b m (.coughUp seat) rest → s.seat b k = .cough →
      exec (.coughUp b seat) s = .next (placeOrder (.mute b false)
        ((handed s b rest).setBooth b
          { s.booth b with seats := (s.booth b).seats.set k .live, muted := false })))

/-- R49, R50, R65, R66: SEAT_OFF from a live seat ends its turn; SEAT_OFF from a WAITING seat withdraws its offer; GIVE from
the holder of a standing offer ends its turn with manner GIVE. A hold that a turn end begins is marked fresh (log 15). -/
def Obligations.SeatOffAndGive : Prop :=
  ∀ (s : State) (b : Booth) (m : BoothSettings) (seat : Byte) (k : Seat) (rest : List ReplyEvent), Names m seat k →
    HallAgrees s → ListeningAgrees s →
    (Handing s b m (.seatOff seat) rest → isLive (s.seat b k) = true →
      ∃ t, exec (.seatOff b seat) s = .next t ∧
        TurnEnded b k (selectedChan m (s.booth b)) .turnEnd (fun d => (s.booth d).indication) (handed s b rest) t) ∧
    (Handing s b m (.seatOff seat) rest → s.seat b k = .waiting →
      ∃ c t, exec (.seatOff b seat) s = .next t ∧ (s.offer c).map (fun o => (o.waitBooth, o.waitSeat)) = some (b, k) ∧
        t = ((handed s b rest).setOffer c none).setSeat b k .off) ∧
    (Handing s b m (.give seat) rest → isLive (s.seat b k) = true →
      (s.offer (selectedChan m (s.booth b))).map (fun o => (o.holdBooth, o.holdSeat)) = some (b, k) →
      ∃ t, exec (.give b seat) s = .next t ∧
        TurnEnded b k (selectedChan m (s.booth b)) .give (fun d => (s.booth d).indication) (handed s b rest) t)

/-- R45: OUTPUT_SELECT of the output selected, or of an output B that the booth has not, is ignored; in a booth with no live
seat it selects the output, and withdraws the offers of the booth's waiting seats with WITHDRAWN. -/
def Obligations.OutputSelectOffAir : Prop :=
  ∀ (s : State) (b : Booth) (m : BoothSettings) (y : Side) (rest : List ReplyEvent),
    Handing s b m (.outputSelect y) rest →
    ((y = (s.booth b).selection ∨ (y = .b ∧ m.outputB = none)) →
      exec (.outputSelect b y) s = .next (handed s b rest)) ∧
    (y ≠ (s.booth b).selection → (y = .b → m.outputB ≠ none) → NoneLive s b → HallAgrees s →
      exec (.outputSelect b y) s = .next
        { handed s b rest with
          gen.booths := s.gen.booths.set b
            { s.booth b with
              selection := y
              seats := (s.booth b).seats.map (fun x => if x = .waiting then .off else x)
              indication := if (∃ k, s.seat b k = .waiting) then some .withdrawn else (s.booth b).indication }
          gen.offers := s.gen.offers.map (fun o => o.filter (fun o => o.waitBooth != b)) })

/-- R46, R49: OUTPUT_SELECT in a booth whose seat `k` is live on `c1`, towards channel `c2` of the other output. UNASSIGNED:
NO_CHANNEL; held under FIRST or OFFER: ENGAGED. Otherwise the seat takes `c2`, from a holder under LAST with a cut, keeping
its state and its turns, and leaves `c1`: an IN_BOOTH offer is withdrawn, an ACROSS offer passes it. That the discarded gap-hold seconds of `c2` read 0
is the model's reading (log 37), and that a hold which begins on `c1` is marked fresh its own bookkeeping (log 15). -/
def Obligations.OutputSwitchOnAir : Prop :=
  ∀ (s : State) (b : Booth) (m : BoothSettings) (y : Side) (k : Seat) (rest : List ReplyEvent) (c1 c2 : Chan),
    Handing s b m (.outputSelect y) rest → y ≠ (s.booth b).selection → (y = .b → m.outputB ≠ none) →
    isLive (s.seat b k) = true → c1 = selectedChan m (s.booth b) → c2 = outputOf m y → c1 ≠ c2 →
    HallAgrees s → ListeningAgrees s →
    ((s.chan c2).coverage = .unassigned →
      exec (.outputSelect b y) s = .next (indicate b (some .noChannel) (handed s b rest))) ∧
    ((s.chan c2).coverage = .covered → (s.settings c2).policy ≠ .last →
      exec (.outputSelect b y) s = .next (indicate b (some .engaged) (handed s b rest))) ∧
    ((s.chan c2).coverage = .holding ∨ (s.chan c2).coverage = .uncovered ∨
        ((s.chan c2).coverage = .covered ∧ (s.settings c2).policy = .last) →
      ∃ t, exec (.outputSelect b y) s = .next t ∧
        (∀ d, t.chan d =
          if d = c2 then ⟨.covered, some ⟨b, k⟩, .booth b, (if (s.chan c2).coverage = .covered then (s.chan c2).remaining else 0),
              (if (s.chan c2).coverage = .covered then (s.chan c2).fresh else false)⟩
          else if d = c1 then
            (match s.offer c1 with
              | some o => if o.kind = .across then passed s c1 o else released s c1
              | none => released s c1)
          else s.chan d) ∧
        (∀ d, t.offer d = if d = c1 ∨ d = c2 then none else s.offer d) ∧
        (∀ d j, t.seat d j =
          if (s.offer c1).map (fun o => (o.waitBooth, o.waitSeat)) = some (d, j) then
            (if d = b then .off else .live)
          else match (s.chan c2).holder with
            | some x => cutSeats s x (s.offer c2) d j
            | none => s.seat d j) ∧
        (∀ d, (t.booth d).selection = if d = b then y else (s.booth d).selection) ∧
        (t.booth b).muted = (s.booth b).muted ∧ (∀ d, MuteAgrees t d) ∧
        (∀ d, (t.booth d).indication =
          if d = b then (if (s.offer c1).map Offer.kind = some .inBooth then some .withdrawn else (s.booth b).indication)
          else if (s.chan c2).holder.map Holder.booth = some d then some .cut else (s.booth d).indication) ∧
        TurnsRaised (cutTurns (s.offer c2) ++ cutTurns ((s.offer c1).filter (fun o => o.kind == .across))) s t ∧
        Notified
          ((if (s.chan c2).coverage = .uncovered then [.channelCovered c2 (chanTag s c2) b k] else []) ++
            cutNotices s c2 ++
            (match (s.offer c1).filter (fun o => o.kind == .across) with
              | some o => [passNotice s c1 o .turnEnd]
              | none => releaseNotices s c1)) s t ∧
        HallOnly (handed s b rest) t)

/-- R68, R69, R70: an offer that has run out. IN_BOOTH in a TIMED booth: the holder's turn ends with manner EXPIRY. Otherwise
it lapses: its waiting seat is OFF with LAPSED, HANDOVER_LAPSED is sent, and the holder keeps the channel. -/
def Obligations.OfferExpires : Prop :=
  ∀ (s : State) (c : Chan) (o : Offer) (m : BoothSettings), s.running = true → HallAgrees s → ListeningAgrees s →
    Due.offer c ∈ s.gen.due → s.offer c = some o → o.remaining = 0 → s.boothSettings o.holdBooth = some m →
    (o.kind = .inBooth ∧ m.mode = .timed →
      ∃ t, exec (.offerExpiry c) s = .next t ∧
        TurnEnded o.holdBooth o.holdSeat c .expiry (fun d => (s.booth d).indication)
          { s with gen.due := s.gen.due.erase (.offer c) } t) ∧
    (¬ (o.kind = .inBooth ∧ m.mode = .timed) →
      ∃ t, exec (.offerExpiry c) s = .next t ∧
        SeatsMoved (fun d j => if d = o.waitBooth ∧ j = o.waitSeat then .off else s.seat d j)
          (fun d => if d = o.waitBooth then some .lapsed else (s.booth d).indication) s t ∧
        OfferMoved c none s t ∧ t.gen.chans = s.gen.chans ∧ t.ret = s.ret ∧
        Notified [.handoverLapsed c (chanTag s c) o.kind o.waitBooth o.waitSeat o.holdBooth o.holdSeat] s t ∧
        HallOnly { s with gen.due := s.gen.due.erase (.offer c) } t)

/-- R36, R37, R81, R98: the checks of BOOTH_SET in their order, and what an accepted one leaves: the settings of its parameters
with the offer time clamped, the booth PENDING with every seat OFF, selection A and the floor, its offers withdrawn, its poll
cycle voided, and every booth left with no produced relay channel on the floor. Auto-floor on is byte 1 and off byte 0 (the
model's reading, log 33). That a line idle until then begins its poll with POLL_START is the model's choice (log 38). -/
def Obligations.BoothSetConfigures : Prop :=
  ∀ (s : State) (tag booth : Byte) (args : BoothArgs), Ready .console s →
    ((booth.toNat < 1 ∨ 32 < booth.toNat ∨ BoothArgsFail args) →
      exec (.boothSet .console tag booth args) s = .next (responds .console tag .badArg [] s)) ∧
    (¬ BoothArgsFail args → ∃ k, BoothReads args k) ∧
    ∀ (b : Booth) (k : BoothSettings), booth.toNat = b.val + 1 → ¬ BoothArgsFail args → BoothReads args k →
      (¬ NoneLive s b → exec (.boothSet .console tag booth args) s = .next (responds .console tag .inUse [] s)) ∧
      (NoneLive s b → relayCheck s (arcsWithBooth s b k) = false →
        exec (.boothSet .console tag booth args) s = .next (responds .console tag .loop [] s)) ∧
      (NoneLive s b → relayCheck s (arcsWithBooth s b k) = true → HallAgrees s →
        ∃ t, exec (.boothSet .console tag booth args) s = .next (responds .console tag .done (u8 k.offerTime) t) ∧
          (∀ d, t.boothSettings d = if d = b then some k else s.boothSettings d) ∧
          t.booth b =
            { seats := Bank.fill 3 .off, selection := .a, muted := false
              indication := if (∃ i, s.seat b i = .waiting) then some .withdrawn else none
              chosen := .floor, effective := .floor, autoHold := false, presence := .pending, misses := 0
              lastGood := none } ∧
          (∀ d, d ≠ b → t.booth d =
            match (s.booth d).chosen with
            | .channel r =>
              if produced (relayArcs t) r then s.booth d
              else { s.booth d with chosen := .floor, effective := .floor, autoHold := false }
            | .floor => s.booth d) ∧
          (∀ c, t.offer c = (s.offer c).filter (fun o => o.waitBooth != b)) ∧
          t = { s with
            ret.booths := t.ret.booths, gen.booths := t.gen.booths, gen.offers := t.gen.offers
            gen.cycle := cycleVoided b s.gen.cycle
            gen.routeSending := t.gen.routeSending, gen.routeList := t.gen.routeList })

/-- R38, R51, R52, R88, R98: BOOTH_CLEAR takes the booth's seats, makes it UNCONFIGURED and voids its poll cycle; BOOTH_CUT ends the turn of its live seat
with CUT; each is refused in the order of its rule. A hold that a turn end begins is marked fresh (log 15). -/
def Obligations.BoothClearAndCut : Prop :=
  ∀ (s : State) (tag booth : Byte), Ready .console s →
    ((booth.toNat < 1 ∨ 32 < booth.toNat) →
      exec (.boothClear .console tag booth) s = .next (responds .console tag .badArg [] s) ∧
      exec (.boothCut .console tag booth) s = .next (responds .console tag .badArg [] s)) ∧
    ∀ b : Booth, booth.toNat = b.val + 1 →
      (s.boothSettings b = none →
        exec (.boothClear .console tag booth) s = .next (responds .console tag .notFound [] s) ∧
        exec (.boothCut .console tag booth) s = .next (responds .console tag .notFound [] s)) ∧
      ∀ m, s.boothSettings b = some m → HallAgrees s → ListeningAgrees s →
        (∃ t u, exec (.boothClear .console tag booth) s = .next (responds .console tag .done [] t) ∧
          SeatsTaken b s u ∧ Notified (seatLossNotices b s) s u ∧ t.gen.ports = u.gen.ports ∧
          t.gen.chans = u.gen.chans ∧ t.gen.offers = u.gen.offers ∧ t.ret.seatAcc = u.ret.seatAcc ∧
          (∀ d, t.boothSettings d = if d = b then none else s.boothSettings d) ∧
          t.booth b =
            { seats := Bank.fill 3 .off, selection := .a, muted := false, indication := none, chosen := .floor
              effective := .floor, autoHold := false, presence := .unconfigured, misses := 0, lastGood := none } ∧
          (∀ d, d ≠ b → t.booth d =
            match (s.booth d).chosen with
            | .channel r =>
              if produced (relayArcs t) r then u.booth d
              else { u.booth d with chosen := .floor, effective := .floor, autoHold := false }
            | .floor => u.booth d) ∧
          HallOnly { s with ret.booths := t.ret.booths, gen.cycle := cycleVoided b s.gen.cycle } t) ∧
        (NoneLive s b → exec (.boothCut .console tag booth) s = .next (responds .console tag .wrongState [] s)) ∧
        (∀ k, isLive (s.seat b k) = true →
          ∃ t, exec (.boothCut .console tag booth) s = .next (responds .console tag .done [] t) ∧
            TurnEnded b k (selectedChan m (s.booth b)) .turnEnd
              (fun d => if d = b then some .cut else (s.booth d).indication) s t)

/-- R77, R78, R79: a listening change to a channel, by RELAY_SET from the console and by RELAY_SELECT from its booth: tests 2 to
6 of R77 in their order, and what a change that passes leaves. A change to the floor, or to the source already chosen,
passes; a RELAY_SET for a booth outside 1..32 or UNCONFIGURED, and a source outside its range, is refused; a
source of kind SILENT or BOOTH, and FLOOR with a number other than 0, are BAD_ARG too (the model's reading, log 16). That the
response of RELAY_SET carries in(b) as one byte is the model's reading (log 31). -/
def Obligations.ListeningIsChosen : Prop :=
  (∀ (s : State) (tag booth : Byte) (b : Booth) (k : BoothSettings) (r : Chan) (n : Byte) (rest : List ReplyEvent),
     booth.toNat = b.val + 1 → s.boothSettings b = some k → n.toNat = r.val + 1 → (s.booth b).chosen ≠ .channel r →
     (((s.settings r).slot = none ∨ produced (relayArcs s) r = false) →
       (Ready .console s → exec (.relaySet .console tag booth ⟨2, n⟩) s =
         .next (responds .console tag .notFound [] s)) ∧
       (Handing s b k (.relaySelect n) rest →
         exec (.relaySelect b n) s = .next (indicate b (some .relayRefused) (handed s b rest)))) ∧
     ((s.settings r).slot ≠ none → produced (relayArcs s) r = true →
       (r = k.outputA ∨ k.outputB = some r ∨ hasCycle (withInput b (.channel r) (relayArcs s)) = true ∨
         withinHopLimit (withInput b (.channel r) (relayArcs s)) = false) →
       (Ready .console s → exec (.relaySet .console tag booth ⟨2, n⟩) s = .next (responds .console tag .loop [] s)) ∧
       (Handing s b k (.relaySelect n) rest →
         exec (.relaySelect b n) s = .next (indicate b (some .relayRefused) (handed s b rest)))) ∧
     ((s.settings r).slot ≠ none → produced (relayArcs s) r = true → r ≠ k.outputA → k.outputB ≠ some r →
       hasCycle (withInput b (.channel r) (relayArcs s)) = false →
       withinHopLimit (withInput b (.channel r) (relayArcs s)) = true →
       ∃ l : BoothLive,
         l = { s.booth b with
           chosen := .channel r
           effective := if k.autoFloor = true ∧ (s.chan r).coverage = .uncovered then .floor else .channel r
           autoHold := decide (k.autoFloor = true ∧ (s.chan r).coverage = .uncovered) } ∧
         (Ready .console s → ∃ t, exec (.relaySet .console tag booth ⟨2, n⟩) s =
             .next (responds .console tag .done
               (listenField (.channel r) ++ listenField l.effective ++ u8 ((hops (relayArcs t)).get r)) t) ∧
           t = { s.setBooth b l with gen.routeSending := t.gen.routeSending, gen.routeList := t.gen.routeList }) ∧
         (Handing s b k (.relaySelect n) rest → ∃ t, exec (.relaySelect b n) s = .next t ∧
           t = { (handed s b rest).setBooth b l with
             gen.routeSending := t.gen.routeSending, gen.routeList := t.gen.routeList }))) ∧
  (∀ (s : State) (tag booth : Byte),
     (Ready .console s → booth.toNat < 1 ∨ 32 < booth.toNat → ∀ source,
       exec (.relaySet .console tag booth source) s = .next (responds .console tag .badArg [] s)) ∧
     ∀ b : Booth, booth.toNat = b.val + 1 →
       (Ready .console s → s.boothSettings b = none → ∀ source,
         exec (.relaySet .console tag booth source) s = .next (responds .console tag .notFound [] s)) ∧
       ∀ (k : BoothSettings), s.boothSettings b = some k →
         (Ready .console s → ∀ n : Byte, n.toNat < 1 ∨ 24 < n.toNat →
           exec (.relaySet .console tag booth ⟨2, n⟩) s = .next (responds .console tag .badArg [] s)) ∧
         (Ready .console s → ∀ source : SourceBytes,
           ((source.kind ≠ 0 ∧ source.kind ≠ 2) ∨ (source.kind = 0 ∧ source.number ≠ 0)) →
           exec (.relaySet .console tag booth source) s = .next (responds .console tag .badArg [] s)) ∧
         (Ready .console s → ∃ t, exec (.relaySet .console tag booth ⟨0, 0⟩) s =
             .next (responds .console tag .done [0, 0, 0, 0, 0] t) ∧
           t = { s.setBooth b { s.booth b with chosen := .floor, effective := .floor, autoHold := false } with
             gen.routeSending := t.gen.routeSending, gen.routeList := t.gen.routeList }) ∧
         (∀ rest, Handing s b k (.relaySelect 0) rest → ∃ t, exec (.relaySelect b 0) s = .next t ∧
           t = { (handed s b rest).setBooth b
               { s.booth b with chosen := .floor, effective := .floor, autoHold := false } with
             gen.routeSending := t.gen.routeSending, gen.routeList := t.gen.routeList }) ∧
         (∀ (n : Byte) (rest : List ReplyEvent), Handing s b k (.relaySelect n) rest → 24 < n.toNat →
           exec (.relaySelect b n) s = .next (indicate b (some .relayRefused) (handed s b rest))) ∧
         (∀ (n : Byte) (r : Chan) (rest : List ReplyEvent), Handing s b k (.relaySelect n) rest → n.toNat = r.val + 1 →
           (s.booth b).chosen = .channel r → ListeningAgrees s → exec (.relaySelect b n) s = .next (handed s b rest)) ∧
         (∀ (n : Byte) (r : Chan), Ready .console s → n.toNat = r.val + 1 → (s.booth b).chosen = .channel r →
           ListeningAgrees s → exec (.relaySet .console tag booth ⟨2, n⟩) s = .next (responds .console tag .done
             (listenField (.channel r) ++ listenField (s.booth b).effective ++ u8 ((hops (relayArcs s)).get r)) s)))

/-! ## The booth line (chapter 6) -/

/-- R55, R56, R89, R90: POLL_START on an idle line polls the next booth of the scan with its tally as it stands, and clears its
indication; POLL_SENT opens the reply window. R92, R94, R186: a good reply of up to 4 events from the booth polled. From a
PRESENT booth its events of the seven kinds are handed on in their order; from a PENDING or ABSENT one they are discarded,
and BOOTH_PRESENT is sent. That the poll of an idle line begins at POLL_START, for the booth that is next then, is the model's
choice (log 38); so is that POLL_START with a cycle open, or with no booth configured, changes nothing (log 3). -/
def Obligations.BoothsArePolled : Prop :=
  (∀ (s : State) (b : Booth) (k : BoothSettings), Awake s → s.gen.cycle = .idle → PolledNext s b →
    s.boothSettings b = some k →
    ∃ tally, exec .pollStart s = .next
        { s.setBooth b { s.booth b with indication := none } with
          gen.scanPos := some b, gen.cycle := .sending b tally false } ∧
      tally.booth = b ∧ tally.seats = (s.booth b).seats.cells.take k.seats ∧
      (tally.offerPending = true ↔ ∃ c o, s.offer c = some o ∧ o.holdBooth = b) ∧
      tally.selection = (s.booth b).selection ∧ tally.channel = selectedChan k (s.booth b) ∧
      tally.chosen = (s.booth b).chosen ∧ tally.effective = (s.booth b).effective ∧
      tally.relayCoverage =
        (match (s.booth b).chosen with | .floor => none | .channel r => some (s.chan r).coverage) ∧
      tally.autoFloor = k.autoFloor ∧ tally.autoHold = (s.booth b).autoHold ∧
      tally.indication = (s.booth b).indication) ∧
  (∀ s : State, Awake s → (s.gen.cycle ≠ .idle ∨ ∀ b, ¬ Configured s b) → exec .pollStart s = .next s) ∧
  (∀ (s : State) (b : Booth) (tally : Tally) (voided : Bool), Awake s → s.gen.cycle = .sending b tally voided →
    exec .pollSent s = .next { s with gen.cycle := .window b voided }) ∧
  (∀ (s : State) (b : Booth) (booth count : Byte) (events : List (Byte × Byte)), Awake s → s.gen.cycle = .window b false →
     events.length = count.toNat → booth.toNat = b.val + 1 → count.toNat ≤ 4 →
     ((s.booth b).presence = .present →
       exec (.boothReply (replyBytes booth count events)) s = .next
         { s.setBooth b { s.booth b with misses := 0, lastGood := some s.clock } with
           gen.cycle := if events.filterMap (fun e => replyEvent e.1 e.2) = [] then .idle
             else .handing b (events.filterMap (fun e => replyEvent e.1 e.2)) }) ∧
     ((s.booth b).presence = .pending ∨ (s.booth b).presence = .absent →
       ∃ t, exec (.boothReply (replyBytes booth count events)) s = .next t ∧ t.gen.cycle = .idle ∧
         t.booth b = { s.booth b with presence := .present, misses := 0, lastGood := some s.clock } ∧
         Notified [.boothPresent b (s.booth b).presence] s t ∧
         t = { s with gen.booths := s.gen.booths.set b (t.booth b), gen.cycle := .idle, gen.ports := t.gen.ports }))

/-- R91, R92, R93, R96: a reply that fails a test, and a window that expires, are misses with the cause of the first test that
fails; a miss hands no event on. The third miss in a row takes the booth's seats. A hold that a turn end
begins is marked fresh (log 15). -/
def Obligations.MissesAndAbsence : Prop :=
  ∀ (s : State) (b : Booth), Awake s → s.gen.cycle = .window b false → HallAgrees s → ListeningAgrees s →
    (∃ t, exec .replyWindowExpiry s = .next t ∧ Missed b .noReply { s with gen.cycle := .idle } t) ∧
    (∀ (bytes : List Byte), 1 ≤ bytes.length → bytes.length ≤ 514 →
      (∀ booth count events, events.length = count.toNat → bytes ≠ replyBytes booth count events) →
      ∃ t, exec (.boothReply bytes) s = .next t ∧ Missed b .badCheck { s with gen.cycle := .idle } t) ∧
    (∀ (booth count : Byte) (events : List (Byte × Byte)), events.length = count.toNat →
      (booth.toNat ≠ b.val + 1 →
        ∃ t, exec (.boothReply (replyBytes booth count events)) s = .next t ∧
          Missed b .wrongBooth { s with gen.cycle := .idle } t) ∧
      (booth.toNat = b.val + 1 → 4 < count.toNat →
        ∃ t, exec (.boothReply (replyBytes booth count events)) s = .next t ∧
          Missed b .tooMany { s with gen.cycle := .idle } t))

/-! ## The receiver register (chapter 7) -/

/-- R106, R107: a report that passes the four tests joins the intake buffer with the clock as its arrival time, unless the buffer
holds 64 reports; any other report is discarded. R108, R111, R112: the register takes the oldest report. A receiver no
longer in service under that serial leaves everything as it was; a STOCK receiver becomes astray and a LOST one sighted,
with their notices the first time. -/
def Obligations.ReportsArriveAndAreTaken : Prop :=
  (∀ (s : State) (r : ReportBytes), Awake s →
     ((crc16 r.covered = r.crc ∧ r.receiver.toNat < 4096 ∧ r.battery.toNat ≤ 15 ∧ s.ret.hallCode ≠ 0 ∧
         r.hall = s.ret.hallCode ∧
         ((s.receiver r.receiver.toNat).state = .stock ∨ (s.receiver r.receiver.toNat).state = .hired ∨
           (s.receiver r.receiver.toNat).state = .lost) ∧
         (s.receiver r.receiver.toNat).serial = some r.serial) → s.gen.intake.length < 64 →
       exec (.collectorReport r) s = .next { s with
         gen.intakeFraming := .between
         gen.intake := s.gen.intake ++ [⟨r.receiver.toNat, r.serial, r.tag.toNat, r.battery.toNat, s.clock⟩] }) ∧
     ((crc16 r.covered ≠ r.crc ∨ 4096 ≤ r.receiver.toNat ∨ 15 < r.battery.toNat ∨ s.ret.hallCode = 0 ∨
         r.hall ≠ s.ret.hallCode ∨ (s.receiver r.receiver.toNat).state = .unenrolled ∨
         (s.receiver r.receiver.toNat).state = .withdrawn ∨
         (s.receiver r.receiver.toNat).serial ≠ some r.serial ∨ 64 ≤ s.gen.intake.length) →
       exec (.collectorReport r) s = .next { s with gen.intakeFraming := .between })) ∧
  (∀ (s : State) (p : Report) (rest : List Report), Awake s → s.gen.intake = p :: rest →
     (((s.receiver p.receiver).state = .unenrolled ∨ (s.receiver p.receiver).state = .withdrawn ∨
         (s.receiver p.receiver).serial ≠ some p.serial) →
       exec .reportTaken s = .next { s with gen.intake := rest }) ∧
     ((s.receiver p.receiver).state = .stock → (s.receiver p.receiver).serial = some p.serial →
       ∃ t, exec .reportTaken s = .next t ∧
         t = { s.setReceiver p.receiver
             { s.receiver p.receiver with lastHeard := some p.arrival, battery := some p.battery, astray := true } with
           gen.intake := rest, gen.ports := t.gen.ports } ∧
         Notified (if (s.receiver p.receiver).astray then []
           else [.receiverAstray p.receiver p.serial p.arrival (s.receiver p.receiver).hireCount]) s t) ∧
     ((s.receiver p.receiver).state = .lost → (s.receiver p.receiver).serial = some p.serial →
       ∃ t, exec .reportTaken s = .next t ∧
         t = { s.setReceiver p.receiver
             { s.receiver p.receiver with lastHeard := some p.arrival, battery := some p.battery, sighted := true } with
           gen.intake := rest, gen.ports := t.gen.ports } ∧
         Notified (if (s.receiver p.receiver).sighted then []
           else [.receiverSighted p.receiver ((s.receiver p.receiver).link.map HireLink.ticket) p.arrival]) s t))

/-- R109, R110, R114: a report for a HIRED receiver whose link is `link`, whose report's language is `language`: it keeps its
language and its mark where they agree; otherwise the credit of the old language is closed into its line and that of the
new one opened, with the listener counts and the peak. BATTERY_LOW is sent on a fall to 2 or below. -/
def Obligations.ReportsForHired : Prop :=
  ∀ (s : State) (p : Report) (rest : List Report) (link : HireLink) (h : Hire) (l : Line) (language : Option Slot),
    Awake s → s.gen.intake = p :: rest →
    (s.receiver p.receiver).state = .hired → (s.receiver p.receiver).serial = some p.serial →
    (s.receiver p.receiver).link = some link → s.hire? link.ticket = some h → h.lines[link.line]? = some l →
    (∀ k, language = some k ↔ p.tag ≠ 0 ∧ (s.slot k).channel ≠ none ∧ (s.slot k).name.map LangName.tag = some p.tag) →
    ∃ t, exec .reportTaken s = .next t ∧
      Notified (if p.battery ≤ 2 ∧ (s.receiver p.receiver).battery.all (fun b => decide (2 < b)) then
        [.batteryLow p.receiver p.battery link.ticket] else []) s t ∧
      t.receiver p.receiver =
        { s.receiver p.receiver with
          lastHeard := some p.arrival, battery := some p.battery
          tuned := if (s.receiver p.receiver).tuned.map Tuning.slot = language then (s.receiver p.receiver).tuned
            else language.map (fun k => ⟨k, (s.slot k).u⟩) } ∧
      (∀ n, n ≠ p.receiver → t.receiver n = s.receiver n) ∧
      t.hire? link.ticket =
        some (match (s.receiver p.receiver).tuned with
          | some m =>
            if some m.slot = language then h
            else { h with
              lines := h.lines.set link.line { l with credit := creditUpTo l ((s.slot m.slot).u - m.mark) s.clock } }
          | none => h) ∧
      (∀ ticket, ticket ≠ link.ticket → t.hire? ticket = s.hire? ticket) ∧
      (∀ k, t.ret.listeners.get k =
        (if (s.receiver p.receiver).tuned.map Tuning.slot = language then s.ret.listeners.get k
        else if language = some k then s.ret.listeners.get k + 1
        else if (s.receiver p.receiver).tuned.map Tuning.slot = some k then s.ret.listeners.get k - 1
        else s.ret.listeners.get k)) ∧
      (∀ k, t.ret.peaks.get k =
        if language = some k ∧ (s.receiver p.receiver).tuned.map Tuning.slot ≠ language then
          max (s.ret.peaks.get k) (t.ret.listeners.get k)
        else s.ret.peaks.get k) ∧
      t = { s with
        ret.receivers := t.ret.receivers, ret.hires := t.ret.hires, ret.listeners := t.ret.listeners
        ret.peaks := t.ret.peaks, gen.intake := rest, gen.ports := t.gen.ports }

/-- R102, R103, R104: RECEIVER_ENROL, RECEIVER_WITHDRAW, RECEIVER_REINSTATE and RECEIVER_CLEAR_FLAGS: the checks in their order,
and the record that an accepted request leaves; no other record changes. R105: HALL_SET sets the hall code and answers DONE
with the code before and the code applied; a code that differs empties the intake buffer. -/
def Obligations.ReceiverRecordsAndHallCode : Prop :=
  (∀ (s : State) (tag : Byte) (number : Half), Ready .console s →
     (4096 ≤ number.toNat →
       (∀ serial, exec (.receiverEnrol .console tag number serial) s = .next (responds .console tag .badArg [] s)) ∧
       exec (.receiverWithdraw .console tag number) s = .next (responds .console tag .badArg [] s) ∧
       exec (.receiverReinstate .console tag number) s = .next (responds .console tag .badArg [] s) ∧
       exec (.receiverClearFlags .console tag number) s = .next (responds .console tag .badArg [] s)) ∧
     (number.toNat < 4096 → ∀ r, r = s.receiver number.toNat →
       (∀ serial, (inService r = true ∨ ∃ e ∈ s.ret.receivers, e.1 ≠ number.toNat ∧ inService e.2 = true ∧
             e.2.serial = some serial) →
           exec (.receiverEnrol .console tag number serial) s = .next (responds .console tag .inUse [] s)) ∧
       (∀ serial, inService r = false → (∀ e ∈ s.ret.receivers, e.1 ≠ number.toNat → inService e.2 = true →
             e.2.serial ≠ some serial) →
           exec (.receiverEnrol .console tag number serial) s = .next (responds .console tag .done []
             (s.setReceiver number.toNat ⟨some serial, .stock, none, none, none, none, false, false, 0⟩))) ∧
       ((r.state = .stock ∨ (r.state = .lost ∧ r.link = none)) →
         exec (.receiverWithdraw .console tag number) s = .next (responds .console tag .done []
           (s.setReceiver number.toNat { r with state := .withdrawn, astray := false, sighted := false }))) ∧
       ((r.state = .unenrolled ∨ r.state = .hired ∨ (r.state = .lost ∧ r.link ≠ none) ∨ r.state = .withdrawn) →
         exec (.receiverWithdraw .console tag number) s = .next (responds .console tag .wrongState [] s)) ∧
       (r.state ≠ .withdrawn →
         exec (.receiverReinstate .console tag number) s = .next (responds .console tag .wrongState [] s)) ∧
       (r.state = .withdrawn → (∃ e ∈ s.ret.receivers, e.1 ≠ number.toNat ∧ inService e.2 = true ∧
             e.2.serial = r.serial) →
         exec (.receiverReinstate .console tag number) s = .next (responds .console tag .inUse [] s)) ∧
       (r.state = .withdrawn → (∀ e ∈ s.ret.receivers, e.1 ≠ number.toNat → inService e.2 = true →
             e.2.serial ≠ r.serial) →
         exec (.receiverReinstate .console tag number) s = .next (responds .console tag .done []
           (s.setReceiver number.toNat { r with state := .stock }))) ∧
       ∃ t, exec (.receiverClearFlags .console tag number) s = .next (responds .console tag .done [] t) ∧
         (∀ n, t.receiver n =
           if n = number.toNat then { r with astray := false, sighted := false } else s.receiver n) ∧
         t = { s with ret.receivers := t.ret.receivers })) ∧
  (∀ (s : State) (tag : Byte) (code : Half), Ready .console s →
     exec (.hallSet .console tag code) s = .next (responds .console tag .done (halfBytes s.ret.hallCode ++ halfBytes code)
       { s with ret.hallCode := code, gen.intake := if code = s.ret.hallCode then s.gen.intake else [] }))

/-! ## The hire table (chapter 8) -/

/-- R122, R123, R166: HIRE_OPEN is refused in the order of R123; an accepted one allocates the first ticket that no open hire
holds, from the counter on and round from 65,535 to 1, and counts in an OPEN session. R124, R125: ISSUE is refused in the
order of R124; an accepted one appends a line in state OUT, raises the change count and makes the receiver HIRED with the
link to that line, language NONE and its astray flag cleared. -/
def Obligations.HiresOpenAndReceiversIssue : Prop :=
  (∀ (s : State) (p : Port) (tag tariffClass : Byte) (deposit : Word) (due : Option Word), Ready p s →
     (8 ≤ tariffClass.toNat →
       exec (.hireOpen p tag tariffClass deposit due) s = .next (responds p tag .badArg [] s)) ∧
     ∀ k : TClass, tariffClass.toNat = k.val →
       ((s.tariff k).terms = none →
         exec (.hireOpen p tag tariffClass deposit due) s = .next (responds p tag .wrongState [] s)) ∧
       ((s.tariff k).terms ≠ none → 512 ≤ s.ret.hires.length →
         exec (.hireOpen p tag tariffClass deposit due) s = .next (responds p tag .full [] s)) ∧
       ((s.tariff k).terms ≠ none → s.ret.hires.length < 512 → HiresLawful s.ret →
         ∃ ticket, 1 ≤ ticket ∧ ticket ≤ 65535 ∧ s.hire? ticket = none ∧
           (∀ u, 1 ≤ u → u ≤ 65535 →
             (u + 65535 - s.ret.nextTicket) % 65535 < (ticket + 65535 - s.ret.nextTicket) % 65535 → s.hire? u ≠ none) ∧
           exec (.hireOpen p tag tariffClass deposit due) s = .next (responds p tag .done
             (u16 ticket ++ u32 s.clock ++ optField 4 (due.map BitVec.toNat))
             { s with
               ret.hires := s.ret.hires.put ticket
                 ⟨k, deposit.toNat, p, s.clock, due.map BitVec.toNat, false, 0, []⟩
               ret.nextTicket := if ticket < 65535 then ticket + 1 else 1
               ret.counters := { s.ret.counters with
                 opened := if s.ret.session.state = .opened then min 4294967295 (s.ret.counters.opened + 1)
                   else s.ret.counters.opened } }))) ∧
  (∀ (s : State) (p : Port) (tag : Byte) (ticket number : Half), Ready p s →
     ((ticket = 0 ∨ 4096 ≤ number.toNat) →
       exec (.issue p tag ticket number) s = .next (responds p tag .badArg [] s)) ∧
     (ticket ≠ 0 → number.toNat < 4096 → ∀ r, r = s.receiver number.toNat →
       (s.hire? ticket.toNat = none → exec (.issue p tag ticket number) s = .next (responds p tag .notFound [] s)) ∧
       ∀ h, s.hire? ticket.toNat = some h →
         ((r.state = .unenrolled ∨ r.state = .withdrawn) →
           exec (.issue p tag ticket number) s = .next (responds p tag .notFound [] s)) ∧
         ((r.state = .hired ∨ r.state = .lost) →
           exec (.issue p tag ticket number) s = .next (responds p tag .wrongState [] s)) ∧
         (r.state = .stock → 16 ≤ h.lines.length →
           exec (.issue p tag ticket number) s = .next (responds p tag .full [] s)) ∧
         (r.state = .stock → h.lines.length < 16 →
           exec (.issue p tag ticket number) s = .next (responds p tag .done
             (u16 ticket.toNat ++ u8 h.lines.length ++ u32 s.clock ++ u32 (nextChange h.changeCount))
             ((s.setHire ticket.toNat
               { h with
                 lines := h.lines ++ [⟨number.toNat, s.clock, none, .out, 0⟩]
                 changeCount := nextChange h.changeCount }).setReceiver number.toNat
               { r with
                 state := .hired, link := some ⟨ticket.toNat, h.lines.length⟩, tuned := none, astray := false
                 hireCount := min 65535 (r.hireCount + 1) })))))

/-- R116, R126, R129: RETURN and LOST of a HIRED receiver whose link names line `l` of hire `h`: its credit is closed into the
line, which ends at the clock as BACK or LOST; the receiver becomes STOCK with no link, or LOST with its link kept. R127,
R128, R129: RETURN of a LOST receiver reverses the loss while its hire is open, and after the close sends FOUND_AFTER_CLOSE;
RETURN and LOST are refused for every other receiver. The fields that
the payload of each RETURN carries, and the one byte that says whether all lines have ended, are the model's readings (logs
17 and 31). -/
def Obligations.ReceiversReturnedOrLost : Prop :=
  (∀ (s : State) (p : Port) (tag : Byte) (number : Half) (r : Receiver) (link : HireLink) (h : Hire) (l : Line), Ready p s →
     number.toNat < 4096 → r = s.receiver number.toNat → r.state = .hired → r.link = some link →
     s.hire? link.ticket = some h → h.lines[link.line]? = some l →
     (∃ t back, back = { l with state := .back, ended := some s.clock, credit := closedCredit s number.toNat l } ∧
       exec (.returnReceiver p tag number) s = .next (responds p tag .done
         (u16 number.toNat ++ u16 link.ticket ++ u8 link.line ++ u32 s.clock ++ u32 back.credit ++
           flag ((h.lines.set link.line back).all (fun x => x.state != .out))) t) ∧
       ListenerLeft number.toNat s t ∧
       t = { (s.setHire link.ticket
           { h with lines := h.lines.set link.line back, changeCount := nextChange h.changeCount }).setReceiver
             number.toNat { r with state := .stock, link := none, tuned := none } with
         ret.listeners := t.ret.listeners }) ∧
     (∃ t gone, gone = { l with state := .lost, ended := some s.clock, credit := closedCredit s number.toNat l } ∧
       exec (.lost p tag number) s = .next (responds p tag .done
         (u16 number.toNat ++ u16 link.ticket ++ u8 link.line ++ u32 s.clock) t) ∧
       ListenerLeft number.toNat s t ∧
       t = { (s.setHire link.ticket
           { h with lines := h.lines.set link.line gone, changeCount := nextChange h.changeCount }).setReceiver
             number.toNat { r with state := .lost, tuned := none, sighted := false } with
         ret.listeners := t.ret.listeners })) ∧
  (∀ (s : State) (p : Port) (tag : Byte) (number : Half) (r : Receiver), Ready p s → r = s.receiver number.toNat →
     (4096 ≤ number.toNat →
       exec (.returnReceiver p tag number) s = .next (responds p tag .badArg [] s) ∧
       exec (.lost p tag number) s = .next (responds p tag .badArg [] s)) ∧
     (number.toNat < 4096 →
       ((r.state = .unenrolled ∨ r.state = .withdrawn) →
         exec (.returnReceiver p tag number) s = .next (responds p tag .notFound [] s)) ∧
       (r.state = .stock → exec (.returnReceiver p tag number) s = .next (responds p tag .wrongState [] s)) ∧
       (r.state ≠ .hired → exec (.lost p tag number) s = .next (responds p tag .wrongState [] s)) ∧
       (∀ link h l, r.state = .lost → r.link = some link → s.hire? link.ticket = some h → h.lines[link.line]? = some l →
         exec (.returnReceiver p tag number) s = .next (responds p tag .done
           (u16 number.toNat ++ u16 link.ticket ++ u8 link.line ++ u32 (l.ended.getD 0) ++ u32 l.credit)
           ((s.setHire link.ticket
             { h with
               lines := h.lines.set link.line { l with state := .back }
               changeCount := nextChange h.changeCount }).setReceiver number.toNat
             { r with state := .stock, link := none, sighted := false }))) ∧
       (r.state = .lost → r.link = none →
         ∃ t, exec (.returnReceiver p tag number) s = .next (responds p tag .done (u16 number.toNat) t) ∧
           Notified [.foundAfterClose number.toNat (r.serial.getD 0) r.lastHeard p] s t ∧
           t = { s.setReceiver number.toNat { r with state := .stock, sighted := false } with
             gen.ports := t.gen.ports })))

/-- R131: DEPOSIT_ADJUST adds a signed delta to the deposit, which stands within the amount limit, and raises the change count; a delta that would leave the deposit
below 0 or above the amount limit is refused. R132, R133, R135: HIRE_DUE writes the due time and clears the overdue flag,
with the alarm at once where the time has passed and a line is OUT; the due alarm of a second event makes every hire that
is due overdue, in ascending ticket order. That the HIRE_DUE response says overdue or not in one yes/no byte is the model's
reading (log 31). -/
def Obligations.DepositsAndDueTimes : Prop :=
  (∀ (s : State) (p : Port) (tag : Byte) (ticket : Half) (minus : Bool) (magnitude : Word), Ready p s →
     (ticket = 0 → exec (.depositAdjust p tag ticket minus magnitude) s = .next (responds p tag .badArg [] s)) ∧
     (ticket ≠ 0 → s.hire? ticket.toNat = none →
       exec (.depositAdjust p tag ticket minus magnitude) s = .next (responds p tag .notFound [] s)) ∧
     (ticket ≠ 0 → ∀ (h : Hire) (delta : Int), s.hire? ticket.toNat = some h → h.deposit ≤ 4294967295 →
       delta = (if minus then -(magnitude.toNat : Int) else (magnitude.toNat : Int)) →
       (((h.deposit : Int) + delta < 0 ∨ 4294967295 < (h.deposit : Int) + delta) →
         exec (.depositAdjust p tag ticket minus magnitude) s = .next (responds p tag .badArg [] s)) ∧
       (0 ≤ (h.deposit : Int) + delta → (h.deposit : Int) + delta ≤ 4294967295 →
         exec (.depositAdjust p tag ticket minus magnitude) s = .next (responds p tag .done
           (u32 ((h.deposit : Int) + delta).toNat ++ u32 (nextChange h.changeCount))
           (s.setHire ticket.toNat
             { h with deposit := ((h.deposit : Int) + delta).toNat, changeCount := nextChange h.changeCount }))))) ∧
  (∀ (s : State) (p : Port) (tag : Byte) (ticket : Half) (due : Option Word), Ready p s →
    (ticket = 0 → exec (.hireDue p tag ticket due) s = .next (responds p tag .badArg [] s)) ∧
    (ticket ≠ 0 → s.hire? ticket.toNat = none →
      exec (.hireDue p tag ticket due) s = .next (responds p tag .notFound [] s)) ∧
    (ticket ≠ 0 → ∀ h h' : Hire, s.hire? ticket.toNat = some h →
      h' = { h with due := due.map BitVec.toNat, overdue := false } →
      ∃ t, exec (.hireDue p tag ticket due) s = .next (responds p tag .done
          (optField 4 h'.due ++ flag (alarmDue s h')) t) ∧
        t = { s.setHire ticket.toNat { h' with overdue := alarmDue s h' } with gen.ports := t.gen.ports } ∧
        Notified (if alarmDue s h' then
          [.hireOverdue ticket.toNat (h'.due.getD 0) (outLines h') h'.openedBy] else []) s t)) ∧
  (∀ s : State, s.running = true → Due.alarm ∈ s.gen.due → HiresLawful s.ret →
    ∃ t, exec .dueAlarm s = .next t ∧
      t.ret.hires = s.ret.hires.map (fun e => (e.1, { e.2 with overdue := e.2.overdue || alarmDue s e.2 })) ∧
      Notified ((s.ret.hires.filter (fun e => alarmDue s e.2)).map
        (fun e => .hireOverdue e.1 (e.2.due.getD 0) (outLines e.2) e.2.openedBy)) s t ∧
      t = { s with
        ret.hires := t.ret.hires, gen.ports := t.gen.ports, gen.due := s.gen.due.erase .alarm })

/-! ## The charge (chapter 9) -/

/-- R146: the quanta of a line, and ROUNDED. -/
def Obligations.QuantaAreExact : Prop :=
  (∀ (t : Terms) (net : Nat), 0 < t.quantum →
    (net ≤ t.grace → quantaOf t net = 0 ∧ roundedOf t net = false) ∧
    (t.grace < net →
      net ≤ quantaOf t net * t.quantum ∧ (quantaOf t net - 1) * t.quantum < net ∧
      (roundedOf t net = true ↔ ¬ t.quantum ∣ net) ∧ (roundedOf t net = true ↔ net < quantaOf t net * t.quantum))) ∧
  (∀ (t : Terms) (net : Nat), 60 ≤ t.quantum → net ≤ 4294967295 → quantaOf t net ≤ 71582789) ∧
  (∀ t : Terms, t.quantum = 60 → t.grace ≤ 3600 → quantaOf t 4294967295 = 71582789)

/-- R145 to R149: the seven stages for one line, whose credit does not exceed its duration. R151, R152, R161: the total of a
hire, its two parts, its settlement against the deposit, its flags, and the conditions of a CLOSE on them. -/
def Obligations.ChargesAndSettlement : Prop :=
  (∀ (t : Terms) (l : CopyLine) (c : LineCharge), 0 < t.quantum → l.issue ≤ l.ended → l.credit ≤ l.ended - l.issue →
     c = lineCharge t l →
     c.receiver = l.receiver ∧ c.state = l.state ∧ c.credit = l.credit ∧
     c.duration + l.issue = l.ended ∧ c.net + l.credit = c.duration ∧ c.quanta = quantaOf t c.net ∧
     c.flags.rounded = roundedOf t c.net ∧
     (t.dayCap = 0 → c.timeCharge = min 4294967295 (c.quanta * t.rate) ∧ c.flags.capped = false) ∧
     (0 < t.dayCap → ∃ k, (c.duration = 0 → k = 1) ∧
       (0 < c.duration → c.duration ≤ k * 86400 ∧ (k - 1) * 86400 < c.duration) ∧
       (c.duration ≤ 4294967295 → k ≤ 49711) ∧
       c.timeCharge = min (min 4294967295 (c.quanta * t.rate)) (min 4294967295 (k * t.dayCap)) ∧
       (c.flags.capped = true ↔ min 4294967295 (k * t.dayCap) < min 4294967295 (c.quanta * t.rate))) ∧
     (l.state = .lost → c.charge = min 4294967295 (c.timeCharge + t.lossFee)) ∧
     (l.state ≠ .lost → c.charge = c.timeCharge) ∧ c.timeCharge + c.fee = c.charge ∧
     (c.flags.saturated = true ↔
       (4294967295 < c.quanta * t.rate ∧ c.flags.capped = false) ∨
       (l.state = .lost ∧ 4294967295 < c.timeCharge + t.lossFee))) ∧
  (∀ (w : WorkCopy) (h : HireCharge), h = hireCharge w →
     h.lines = w.lines.map (lineCharge w.terms) ∧
     h.total = min 4294967295 (h.lines.map LineCharge.charge).sum ∧
     h.time = min 4294967295 (h.lines.map LineCharge.timeCharge).sum ∧ h.time + h.fee = h.total ∧
     (w.deposit < h.total → h.flags.settlement = .owed ∧ w.deposit + h.amount = h.total) ∧
     (w.deposit = h.total → h.flags.settlement = .even ∧ h.amount = 0) ∧
     (h.total < w.deposit → h.flags.settlement = .refund ∧ h.total + h.amount = w.deposit) ∧
     (w.deposit ≤ 4294967295 → h.amount ≤ 4294967295) ∧
     (h.flags.rounded = true ↔ ∃ l ∈ h.lines, l.flags.rounded = true) ∧
     (h.flags.capped = true ↔ ∃ l ∈ h.lines, l.flags.capped = true) ∧
     (h.flags.saturated = true ↔
       (∃ l ∈ h.lines, l.flags.saturated = true) ∨ 4294967295 < (h.lines.map LineCharge.charge).sum) ∧
     (h.flags.estimate = true ↔ ∃ l ∈ w.lines, l.state = .out) ∧
     (conditionHolds .ifOwed h.flags = true ↔ w.deposit < h.total) ∧
     (conditionHolds .ifRefund h.flags = true ↔ h.total < w.deposit) ∧
     (conditionHolds .ifEven h.flags = true ↔ w.deposit = h.total) ∧
     (conditionHolds .ifNotRefund h.flags = true ↔ w.deposit ≤ h.total) ∧
     (conditionHolds .ifNotOwed h.flags = true ↔ h.total ≤ w.deposit) ∧
     (conditionHolds .ifUnsaturated h.flags = true ↔ h.flags.saturated = false) ∧
     conditionHolds .any h.flags = true)

/-- R143: TARIFF_SET checks its class and, for a defined class, the ranges of P and G; an accepted one writes the record,
advances the generation by 1 and sends TARIFF_CHANGED. R30, R54, R114, R164, R165, R166: SESSION_OPEN is refused while the
session is OPEN; otherwise it advances the number, marks every U and V, sets the peaks to the listener counts and zeroes the
seat accumulators and the session counters. ACCOUNTS_CLEAR zeroes every total. -/
def Obligations.TariffsAndSessions : Prop :=
  (∀ (s : State) (tag tariffClass : Byte) (args : TariffArgs), Ready .console s →
     ((8 ≤ tariffClass.toNat ∨ (args.defined = true ∧
         (args.quantum.toNat < 60 ∨ 14400 < args.quantum.toNat ∨ 3600 < args.grace.toNat))) →
       exec (.tariffSet .console tag tariffClass args) s = .next (responds .console tag .badArg [] s)) ∧
     ∀ (k : TClass) (generation : Nat), tariffClass.toNat = k.val →
       (args.defined = true → 60 ≤ args.quantum.toNat ∧ args.quantum.toNat ≤ 14400 ∧ args.grace.toNat ≤ 3600) →
       generation = (if (s.tariff k).generation < 65535 then (s.tariff k).generation + 1 else 0) →
       ∃ t, exec (.tariffSet .console tag tariffClass args) s =
           .next (responds .console tag .done (u8 k.val ++ u16 generation) t) ∧
         Notified [.tariffChanged k generation args.defined] s t ∧
         t = { s with
           ret.tariffs := s.ret.tariffs.set k
             ⟨if args.defined then
               some ⟨args.quantum.toNat, args.grace.toNat, args.rate.toNat, args.dayCap.toNat, args.lossFee.toNat⟩
               else none, generation⟩
           gen.ports := t.gen.ports }) ∧
  (∀ (s : State) (tag : Byte), Ready .console s →
     (s.ret.session.state = .opened →
       exec (.sessionOpen .console tag) s = .next (responds .console tag .wrongState [] s)) ∧
     (s.ret.session.state ≠ .opened → ∀ number,
       number = (if s.ret.session.number < 65535 then s.ret.session.number + 1 else 1) →
       ∃ t, exec (.sessionOpen .console tag) s =
           .next (responds .console tag .done (u16 number ++ u32 s.clock) t) ∧
         t.ret.session = ⟨.opened, number, some s.clock, none⟩ ∧
         (∀ k, t.slot k = { s.slot k with uMark := (s.slot k).u, vMark := (s.slot k).v }) ∧
         (∀ k, t.ret.peaks.get k = s.ret.listeners.get k) ∧ (∀ b k, t.acc b k = ⟨0, 0⟩) ∧
         t.ret.counters = ⟨0, 0, 0, 0⟩ ∧
         t = { s with
           ret.session := t.ret.session, ret.slots := t.ret.slots, ret.peaks := t.ret.peaks
           ret.seatAcc := t.ret.seatAcc, ret.counters := t.ret.counters }) ∧
     exec (.accountsClear .console tag) s = .next (responds .console tag .done [] { s with
       ret.accounts := ⟨0, 0, 0, 0, 0, 0, ⟨⟨0, 0, 0⟩, ⟨0, 0, 0⟩, ⟨0, 0, 0⟩⟩⟩ }))

/-! ## Jobs, sessions and accounts (chapter 10) -/

/-- R155: QUOTE, CLOSE, SNAPSHOT and, from the console, SESSION_CLOSE join the end of the job list, and stay their port's request
in progress. R156, R158, R187: the oldest job, a QUOTE, starts with its checks in order, and takes its work copy; its
completion answers DONE with the quote record of the copy, and changes nothing else. With a job in flight, or none waiting,
none starts: a JOB_START that stands for no event then changes nothing (the model's choice, log 3). -/
def Obligations.JobsQueueAndQuotesRun : Prop :=
  (∀ (s : State) (p : Port) (tag : Byte), Ready p s →
     (∀ ticket first, exec (.quote p tag ticket first) s = .next
       { s.setPort p { s.port p with inProgress := some ⟨.quote, tag, none⟩ } with
         gen.jobs := s.gen.jobs ++ [⟨p, .quote ticket first⟩] }) ∧
     (∀ args, exec (.close p tag args) s = .next
       { s.setPort p { s.port p with inProgress := some ⟨.close, tag, none⟩ } with
         gen.jobs := s.gen.jobs ++ [⟨p, .close args⟩] }) ∧
     exec (.snapshot p tag) s = .next
       { s.setPort p { s.port p with inProgress := some ⟨.snapshot, tag, none⟩ } with
         gen.jobs := s.gen.jobs ++ [⟨p, .snapshot⟩] } ∧
     (p = .console → exec (.sessionClose p tag) s = .next
       { s.setPort p { s.port p with inProgress := some ⟨.sessionClose, tag, none⟩ } with
         gen.jobs := s.gen.jobs ++ [⟨p, .sessionClose⟩] })) ∧
  (∀ (s : State) (p : Port) (ticket : Half) (first : Byte) (rest : List Job) (r : InProgress), Awake s →
    s.gen.flight = none → s.gen.jobs = ⟨p, .quote ticket first⟩ :: rest → (s.port p).inProgress = some r →
    ((ticket = 0 ∨ 16 ≤ first.toNat) →
      exec .jobStart s = .next (answered p r .badArg [] { s with gen.jobs := rest })) ∧
    (ticket ≠ 0 → first.toNat < 16 →
      (s.hire? ticket.toNat = none →
        exec .jobStart s = .next (answered p r .notFound [] { s with gen.jobs := rest })) ∧
      ∀ h, s.hire? ticket.toNat = some h →
        ((s.tariff h.tariffClass).terms = none →
          exec .jobStart s = .next (answered p r .wrongState [] { s with gen.jobs := rest })) ∧
        ∀ terms, (s.tariff h.tariffClass).terms = some terms →
          ∃ w, WorkCopyOf s ticket.toNat h terms w ∧
            exec .jobStart s = .next
              { s with gen.jobs := rest, gen.flight := some ⟨p, .quote ticket first, w⟩ })) ∧
  (∀ (s : State) (p : Port) (ticket : Half) (first : Byte) (w : WorkCopy) (r : InProgress), Awake s →
    s.gen.flight = some ⟨p, .quote ticket first, w⟩ → (s.port p).inProgress = some r →
    exec .quoteCompletion s = .next
      (answered p r .done (quoteRecord w first.toNat 0) { s with gen.flight := none }) ∧
    (quoteRecord w first.toNat 0).length = 37 + 33 * min 6 (w.lines.length - first.toNat)) ∧
  (∀ s : State, Awake s → (s.gen.flight ≠ none ∨ s.gen.jobs = []) → exec .jobStart s = .next s)

/-- R160: the checks of a CLOSE at its start, in their order; one that passes takes the work copy. R161, R162, R164, R166: the
completion of a CLOSE. A token that has moved: STALE; a condition that does not hold: CONDITION_FALSE; both leave the hire
open. Otherwise one event raises the accounts and the counters of an OPEN session, removes the hire with the links of its
LOST receivers, and sends HIRE_CLOSED to the other ports. -/
def Obligations.ClosesStartAndComplete : Prop :=
  (∀ (s : State) (p : Port) (a : CloseArgs) (rest : List Job) (r : InProgress), Awake s →
     s.gen.flight = none → s.gen.jobs = ⟨p, .close a⟩ :: rest → (s.port p).inProgress = some r →
     ((a.ticket = 0 ∨ 16 ≤ a.first.toNat ∨ 6 < a.condition.toNat) →
       exec .jobStart s = .next (answered p r .badArg [] { s with gen.jobs := rest })) ∧
     (a.ticket ≠ 0 → a.first.toNat < 16 → a.condition.toNat ≤ 6 →
       (s.hire? a.ticket.toNat = none →
         exec .jobStart s = .next (answered p r .notFound [] { s with gen.jobs := rest })) ∧
       ∀ h, s.hire? a.ticket.toNat = some h →
         (((∃ l ∈ h.lines, l.state = .out) ∨ (s.tariff h.tariffClass).terms = none) →
           exec .jobStart s = .next (answered p r .wrongState [] { s with gen.jobs := rest })) ∧
         ∀ terms, (∀ l ∈ h.lines, l.state ≠ .out) → (s.tariff h.tariffClass).terms = some terms →
           ((a.changeCount.toNat ≠ h.changeCount ∨ a.generation.toNat ≠ (s.tariff h.tariffClass).generation) →
             exec .jobStart s = .next (answered p r .stale [] { s with gen.jobs := rest })) ∧
           (a.changeCount.toNat = h.changeCount → a.generation.toNat = (s.tariff h.tariffClass).generation →
             ∃ w, WorkCopyOf s a.ticket.toNat h terms w ∧
               exec .jobStart s = .next { s with gen.jobs := rest, gen.flight := some ⟨p, .close a, w⟩ }))) ∧
  (∀ (s : State) (p : Port) (a : CloseArgs) (w : WorkCopy) (r : InProgress) (k : Condition) (h : HireCharge), Awake s →
     s.gen.flight = some ⟨p, .close a, w⟩ → (s.port p).inProgress = some r → r.wait = none →
     conditionOf a.condition = some k → h = hireCharge w →
     ((∀ x, s.hire? w.ticket = some x →
         x.changeCount ≠ w.changeCount ∨ (s.tariff w.tariffClass).generation ≠ w.generation) →
       exec .closeCompletion s = .next
         (answered p r .stale (0 :: quoteRecord w a.first.toNat 1) { s with gen.flight := none })) ∧
     (∀ x, s.hire? w.ticket = some x → x.changeCount = w.changeCount →
       (s.tariff w.tariffClass).generation = w.generation →
       (conditionHolds k h.flags = false →
         exec .closeCompletion s = .next
           (answered p r .conditionFalse (0 :: quoteRecord w a.first.toNat 1) { s with gen.flight := none })) ∧
       (conditionHolds k h.flags = true → ∀ owed refund,
         owed = (if h.flags.settlement = .owed then h.amount else 0) →
         refund = (if h.flags.settlement = .refund then h.amount else 0) →
         ∃ t, exec .closeCompletion s = .next t ∧
           t.port p = { s.port p with
             inProgress := none
             transmit := (s.port p).transmit ++ [⟨r.tag, .done, 1 :: quoteRecord w a.first.toNat 1⟩] } ∧
           (∀ q, q ≠ p → t.port q = noticed ⟨s.clock, .hireClosed w.ticket p h.total h.flags.settlement h.amount
             (w.lines.countP (fun l => l.state == .lost))⟩ (s.port q)) ∧
           t.ret.hires = s.ret.hires.filter (fun e => e.1 != w.ticket) ∧
           (∀ n, t.receiver n = { s.receiver n with
             link := if (s.receiver n).state = .lost ∧ (s.receiver n).link.map HireLink.ticket = some w.ticket then none
               else (s.receiver n).link }) ∧
           t.ret.accounts =
             { hiresClosed := raised s.ret.accounts.hiresClosed 1
               timeCharges := raised s.ret.accounts.timeCharges h.time
               lossFees := raised s.ret.accounts.lossFees h.fee
               depositsApplied := raised s.ret.accounts.depositsApplied w.deposit
               collected := raised s.ret.accounts.collected owed
               refunded := raised s.ret.accounts.refunded refund
               ports := s.ret.accounts.ports.set p
                 ⟨raised (s.ret.accounts.ports.get p).closes 1, raised (s.ret.accounts.ports.get p).collected owed,
                   raised (s.ret.accounts.ports.get p).refunded refund⟩ } ∧
           t.ret.counters = (if s.ret.session.state = .opened then
             { s.ret.counters with
               closed := min 4294967295 (s.ret.counters.closed + 1)
               collected := raised s.ret.counters.collected owed, refunded := raised s.ret.counters.refunded refund }
             else s.ret.counters) ∧
           t = { s with
             ret.hires := t.ret.hires, ret.receivers := t.ret.receivers, ret.accounts := t.ret.accounts
             ret.counters := t.ret.counters, gen.flight := none, gen.ports := t.gen.ports })))

/-- R167, R168: a SNAPSHOT or SESSION_CLOSE that starts finds the session OPEN, or is answered WRONG_STATE. It takes the
statement copy into the snapshot buffer and completes at once (the model's reading, log 9), a SNAPSHOT with its two numbers
of entries as one byte each (the model's reading, log 31); a SESSION_CLOSE closes the session. R169:
SNAPSHOT_READ: BAD_ARG for no section, BUSY while a statement job waits or runs (BUSY between the job's acceptance and its
start is the model's choice between two sentences of R169, log 39), WRONG_STATE with an empty buffer; otherwise
DONE with as many whole entries as are asked for and fit. It changes nothing but the response. -/
def Obligations.StatementsAreTakenAndRead : Prop :=
  (∀ (s : State) (p : Port) (rest : List Job) (r : InProgress) (request : JobRequest), Awake s → s.gen.flight = none →
     s.gen.jobs = ⟨p, request⟩ :: rest → (s.port p).inProgress = some r →
     (request = .snapshot ∨ request = .sessionClose) →
     (s.ret.session.state ≠ .opened →
       exec .jobStart s = .next (answered p r .wrongState [] { s with gen.jobs := rest })) ∧
     (s.ret.session.state = .opened → ∃ c : Statement,
       c.number = s.ret.session.number ∧ c.openTime = s.ret.session.openTime.getD 0 ∧ c.time = s.clock ∧
       c.counters = s.ret.counters ∧ c.state = (if request = .snapshot then .opened else .closed) ∧
       (c.languages.map StatementLang.slot).Pairwise (· < ·) ∧
       (∀ e : StatementLang, e ∈ c.languages ↔ (s.slot e.slot).channel = some e.channel ∧
         e.covered = (s.slot e.slot).v - (s.slot e.slot).vMark ∧ e.uncovered = (s.slot e.slot).u - (s.slot e.slot).uMark ∧
         e.peak = s.ret.peaks.get e.slot ∧ e.listeners = s.ret.listeners.get e.slot ∧
         e.tag = ((s.slot e.slot).name.map LangName.tag).getD 0 ∧
         e.label = ((s.slot e.slot).name.map LangName.label).getD []) ∧
       (∀ e : StatementSeat, e ∈ c.seats ↔ e.acc = s.acc e.booth e.seat ∧
         ∃ m, s.boothSettings e.booth = some m ∧ e.seat.val < m.seats) ∧
       (c.seats.map (fun e => 3 * e.booth.val + e.seat.val)).Pairwise (· < ·) ∧
       (request = .snapshot → exec .jobStart s = .next
         (answered p r .done (u32 s.clock ++ u8 c.languages.length ++ u8 c.seats.length)
           { s with gen.jobs := rest, gen.snapshot := some c })) ∧
       (request = .sessionClose → exec .jobStart s = .next
         (answered p r .done (u16 c.number ++ u32 c.openTime ++ u32 s.clock)
           { s with
             gen.jobs := rest, gen.snapshot := some c
             ret.session := { s.ret.session with state := .closed, closeTime := some s.clock } })))) ∧
  (∀ (s : State) (p : Port) (tag part start count : Byte), Ready p s →
     (2 < part.toNat → exec (.snapshotRead p tag part start count) s = .next (responds p tag .badArg [] s)) ∧
     (part.toNat ≤ 2 →
       ((∃ j ∈ s.gen.jobs, j.request = .snapshot ∨ j.request = .sessionClose) →
         exec (.snapshotRead p tag part start count) s = .next (responds p tag .busy [] s)) ∧
       (JobsAgree s → (∀ j ∈ s.gen.jobs, j.request ≠ .snapshot ∧ j.request ≠ .sessionClose) →
         (s.gen.snapshot = none →
           exec (.snapshotRead p tag part start count) s = .next (responds p tag .wrongState [] s)) ∧
         ∀ (c : Statement) (entries : List (List Byte)) (n : Nat), s.gen.snapshot = some c →
           entries =
             (if part = 0 then [summaryEntry c]
             else if part = 1 then c.languages.map statementLangEntry
             else c.seats.map statementSeatEntry) →
           n = min (min count.toNat (entries.length - start.toNat)) (if part = 0 then 7 else if part = 1 then 8 else 29) →
           exec (.snapshotRead p tag part start count) s = .next (responds p tag .done
             (u32 c.time ++ u16 c.number ++ u8 n ++ ((entries.drop start.toNat).take n).flatten) s))))

/-! ## The ports (chapters 11 and 12) -/

/-- R174, R175, R188: STATUS and READ_TABLE answer from the state as it stands and change nothing else. A table whose entries
all exist gives its entries from the start on, in the layout of each, as many as are asked for and fit, with the key of the
next; so do HIRES, from the first open ticket at or above the start, and HIRE, whose record stands before its lines. Entries
have the sizes of section 12.5. The model's readings: the items of STATUS whose width no table gives are one byte each (log
31), a count of 0 names the next entry as well (log 13), and HIRE counts its lines (log 21). -/
def Obligations.StatusAndTables : Prop :=
  ∀ (s : State) (p : Port) (tag : Byte), Ready p s →
    exec (.status p tag) s = .next (responds p tag .done
      (u32 s.clock ++ u8 (sessionNum s.ret.session.state) ++ u16 s.ret.session.number ++ [yesNoByte s.gen.override] ++
        u8 (jobPorts s).length ++ u8 (restartNum s.gen.start.kind) ++ [yesNoByte s.gen.start.cleared] ++
        u8 (s.port p).urgent.length ++ u8 (s.port p).routine.length ++ [yesNoByte (s.port p).overrun]) s) ∧
    ∀ (table : Byte) (start : Half) (count : Byte) (ticket : Half),
      (9 < table.toNat → exec (.readTable p tag table start count ticket) s = .next (responds p tag .badArg [] s)) ∧
      (∀ lo hi size first n, denseTable table = some (lo, hi, size) → first = max lo start.toNat →
        n = min (min count.toNat (hi + 1 - first)) (236 / size) →
        ∃ entries : List (List Byte), entries.length = n ∧
          (∀ i e, entries[i]? = some e → TableEntry s table (first + i) e) ∧
          exec (.readTable p tag table start count ticket) s = .next (responds p tag .done
            (u8 n ++ nextField (if first + n < hi + 1 then some (first + n) else none) ++ entries.flatten) s) ∧
          (PlanAgrees s.ret → ∀ e ∈ entries, e.length = size)) ∧
      (table = 6 → ∀ shown rest : Table Hire,
        s.ret.hires.filter (fun e => decide (start.toNat ≤ e.1)) = shown ++ rest →
        shown.length = min (min count.toNat (shown ++ rest).length) 19 →
        exec (.readTable p tag table start count ticket) s = .next (responds p tag .done
          (u8 shown.length ++ nextField (rest.head?.map Prod.fst) ++ shown.flatMap (fun e => hiresEntry e.1 e.2)) s) ∧
        ∀ e ∈ shown, (hiresEntry e.1 e.2).length = 12) ∧
      (table = 7 → s.hire? ticket.toNat = none →
        exec (.readTable p tag table start count ticket) s = .next (responds p tag .notFound [] s)) ∧
      (table = 7 → ∀ (h : Hire) (shown rest : List Line), s.hire? ticket.toNat = some h →
        h.lines.drop start.toNat = shown ++ rest → shown.length = min (min count.toNat (shown ++ rest).length) 12 →
        exec (.readTable p tag table start count ticket) s = .next (responds p tag .done
          (u8 shown.length ++ nextField (rest.head?.map (fun _ => start.toNat + shown.length)) ++
            hireRecord ticket.toNat h ++ (shown.mapIdx (fun i l => hireLineEntry (start.toNat + i) l)).flatten) s) ∧
        (hireRecord ticket.toNat h).length = 23 ∧ ∀ i, ∀ l ∈ shown, (hireLineEntry i l).length = 17)

/-- R176, R178, R179: SUBSCRIBE sets the port's kinds, RESTARTED left out; NOTICE_FETCH returns the oldest urgent notice, failing
that the oldest routine one, with the overrun marker, which it clears; EMPTY with none. R180: NOTICE_WAIT with a notice
queued answers at once, with the timeout applied; otherwise it waits, 0 clamped to 1, and ends EMPTY when its seconds have
run out. -/
def Obligations.NoticesAreFetchedAndAwaited : Prop :=
  (∀ (s : State) (p : Port) (tag : Byte), Ready p s →
     (∀ kinds : Half, kinds.getLsbD 15 = true →
       exec (.subscribe p tag kinds) s = .next (responds p tag .badArg [] s)) ∧
     (∀ kinds : Half, kinds.getLsbD 15 = false → ∃ applied : Half,
       (∀ i, applied.getLsbD i = (kinds.getLsbD i && i != 0)) ∧
       exec (.subscribe p tag kinds) s = .next
         (responds p tag .done (halfBytes applied) (s.setPort p { s.port p with subscriptions := applied }))) ∧
     (∀ n rest, (s.port p).urgent = n :: rest →
       exec (.noticeFetch p tag) s = .next (responds p tag .done (noticeBytes n (s.port p).overrun)
         (s.setPort p { s.port p with urgent := rest, overrun := false }))) ∧
     (∀ n rest, (s.port p).urgent = [] → (s.port p).routine = n :: rest →
       exec (.noticeFetch p tag) s = .next (responds p tag .done (noticeBytes n (s.port p).overrun)
         (s.setPort p { s.port p with routine := rest, overrun := false }))) ∧
     ((s.port p).urgent = [] → (s.port p).routine = [] →
       exec (.noticeFetch p tag) s = .next (responds p tag .empty [] s))) ∧
  (∀ (s : State) (p : Port) (tag timeout : Byte), Ready p s →
    (∀ n k, nextNotice (s.port p) = some (n, k) →
      exec (.noticeWait p tag timeout) s = .next (responds p tag .done
        (u8 (max 1 timeout.toNat) ++ noticeBytes n (s.port p).overrun) (s.setPort p { k with overrun := false }))) ∧
    ((s.port p).urgent = [] → (s.port p).routine = [] →
      exec (.noticeWait p tag timeout) s = .next (s.setPort p { s.port p with
        inProgress := some ⟨.noticeWait, tag, some ⟨max 1 timeout.toNat, max 1 timeout.toNat⟩⟩ }))) ∧
  (∀ (s : State) (p : Port) (r : InProgress) (w : Wait), s.running = true → Due.wait p ∈ s.gen.due →
    (s.port p).inProgress = some r → r.wait = some w → w.remaining = 0 →
    exec (.noticeWaitTimeout p) s = .next
      (answered p r .empty (u8 w.applied) { s with gen.due := s.gen.due.erase (.wait p) }))

/-- R177, R178: a notice reaches each port by what its subscriptions and its wait say at that moment, apart from a port that is
left out; a full routine queue discards it, a full urgent queue drops its oldest notice other than RESTARTED, and both set
the overrun marker. -/
def Obligations.NoticesAreQueued : Prop :=
  (∀ (s : State) (skip : Option Port) (body : NoticeBody) (p : Port),
    (notifyExcept skip body s).port p = (if skip = some p then s.port p else noticed ⟨s.clock, body⟩ (s.port p)) ∧
    notifyExcept skip body s = { s with gen.ports := (notifyExcept skip body s).gen.ports }) ∧
  (∀ (k : PortState) (n : Notice), subscribes k n.body = true → k.inProgress.bind InProgress.wait = none →
    (isUrgent n.body = true → k.urgent.length < 8 → noticed n k = { k with urgent := k.urgent ++ [n] }) ∧
    (isUrgent n.body = true → 8 ≤ k.urgent.length → ∀ front x back, k.urgent = front ++ x :: back →
      (∀ y ∈ front, isRestarted y.body = true) → isRestarted x.body = false →
      noticed n k = { k with urgent := front ++ back ++ [n], overrun := true }) ∧
    (isUrgent n.body = false → k.routine.length < 32 → noticed n k = { k with routine := k.routine ++ [n] }) ∧
    (isUrgent n.body = false → 32 ≤ k.routine.length → noticed n k = { k with overrun := true }))

/-- R171, R172, R173: a frame with a bad CRC changes nothing but the framing. A good frame that spells no request is answered at
once with the outcome of the first test that fails, and the frame's tag; one that spells a request is that request (log
10). A port in a break takes neither. R181: every request on a port with a job in progress is answered BUSY, and leaves the
job; a console request on a desk port is answered DENIED; a frame that meets a pending NOTICE_WAIT ends it CANCELLED, and is
then decided as on a port with nothing in progress. -/
def Obligations.FramesAreAdmittedOrAnswered : Prop :=
  (∀ (s : State) (p : Port) (content : List Byte), Awake s → s.breaks.get p = false →
    exec (.badCrcFrame p content) s = .next (s.setPort p { s.port p with framing := .between })) ∧
  (∀ (s : State) (p : Port) (content : List Byte), Awake s → s.breaks.get p = true →
    exec (.badCrcFrame p content) s = .next s ∧ exec (.unknownRequest p content) s = .next s) ∧
  (∀ (s : State) (p : Port) (content : List Byte) (r : InProgress) (w : Wait), Awake s → s.breaks.get p = false →
    (s.port p).framing = .between → (s.port p).inProgress = some r → r.wait = some w →
    exec (.unknownRequest p content) s = exec (.unknownRequest p content) (answered p r .cancelled (u8 w.applied) s)) ∧
  (∀ (s : State) (p : Port) (content : List Byte) (i : Instr), parseContent p content = some i →
    exec (.unknownRequest p content) s = exec i s) ∧
  (∀ (s : State) (p : Port) (content : List Byte), Awake s → s.breaks.get p = false → (s.port p).framing = .between →
    (s.port p).inProgress.bind InProgress.wait = none → parseContent p content = none →
    ((content.length < 2 ∨ 32 < content.length) →
      exec (.unknownRequest p content) s = .next (responds p (content.headD 0) .malformed [] s)) ∧
    ∀ (tag code : Byte) (params : List Byte), content = tag :: code :: params → params.length ≤ 30 →
      (ReqCode.ofByte code = none → exec (.unknownRequest p content) s = .next (responds p tag .unknown [] s)) ∧
      ∀ c, ReqCode.ofByte code = some c →
        ((s.port p).inProgress ≠ none →
          exec (.unknownRequest p content) s = .next (responds p tag .busy [] s)) ∧
        ((s.port p).inProgress = none → c.console = true → p ≠ .console →
          exec (.unknownRequest p content) s = .next (responds p tag .denied [] s)) ∧
        ((s.port p).inProgress = none → (c.console = true → p = .console) →
          exec (.unknownRequest p content) s = .next (responds p tag .malformed [] s))) ∧
  (∀ (s : State) (i : Instr) (p : Port) (tag : Byte) (code : ReqCode) (params : List Byte), Awake s →
     i.request = some (p, tag, code, params) → s.breaks.get p = false → (s.port p).framing = .between →
     (∀ r, (s.port p).inProgress = some r → r.wait = none → exec i s = .next (responds p tag .busy [] s)) ∧
     ((s.port p).inProgress = none → code.console = true → p ≠ .console →
       exec i s = .next (responds p tag .denied [] s)) ∧
     (∀ r w, (s.port p).inProgress = some r → r.wait = some w →
       exec i s = exec i (answered p r .cancelled (u8 w.applied) s)))

/-- R171, R172, R184, R185: the frame of a request, byte by byte on its port's line from between frames, makes exactly that
request, and leaves the line between frames. -/
def Obligations.FramesAreReadAsWritten : Prop :=
  ∀ (i : Instr) (p : Port) (tag : Byte) (code : ReqCode) (params : List Byte), WellFormed i = true →
    i.request = some (p, tag, code, params) →
    portLine p .between (frameBytes i.content) = (.between, [i])

/-! ## What every step keeps -/

/-- R13, R16, R17, R35, R36: slots and channels name each other, tags differ, every fallback chain is one step long, and the
settings keep their ranges, after every step from a state where they do. -/
def Obligations.PlanIsKept : Prop :=
  ∀ s t : State, step s = .next t → PlanAgrees s.ret → PlanAgrees t.ret

/-- R16, R21 to R23, R39, R48, R58: a COVERED channel and its live seat name each other, an offer and its waiting seat too, and
a booth is muted while a seat of it coughs, after every step from a state where it is so. -/
def Obligations.HallIsKept : Prop :=
  ∀ s t : State, step s = .next t → PlanAgrees s.ret → HallAgrees s → HallAgrees t

/-- R74, R75, R82, R83, R86: the effective source of every booth follows its chosen source, its auto-floor setting and the
coverage of its channel, after every step from a state where it does. -/
def Obligations.ListeningIsKept : Prop :=
  ∀ s t : State, step s = .next t → ListeningAgrees s → ListeningAgrees t

/-- R76, R81, R86: the relay check holds of the hall after every step from a state where it does. -/
def Obligations.RelayCheckIsKept : Prop :=
  ∀ s t : State, step s = .next t → relayCheck s (relayArcs s) = true → relayCheck t (relayArcs t) = true

/-- R33, R48, R75: the route line holds at most one unsent order for each subject, and the last order it holds for a subject
names what holds, after every step from a state where it is so. That an idle line holds no unsent order, since it begins
within the event that places one, is the model's reading (log 24). -/
def Obligations.RouteLineIsKept : Prop :=
  ∀ s t : State, step s = .next t → RouteListed s → MatrixAgrees s → RouteListed t ∧ MatrixAgrees t

/-- R33, R48, R75: every change of an effective route, of an effective source or of a mute state leaves an order for it on the
route line, whatever command brings it, the expiries of a second event among them. -/
def Obligations.ChangesAreOrdered : Prop :=
  ∀ (i : Instr) (s t : State), s.running = true → (s.gen.due = [] ∨ isExpiry i = true) → exec i s = .next t →
    t.running = true →
    (∀ c, effectiveRoute t c ≠ effectiveRoute s c → .route c (effectiveRoute t c) ∈ routeOrders t) ∧
    (∀ b, (t.booth b).effective ≠ (s.booth b).effective → .listen b (t.booth b).effective ∈ routeOrders t) ∧
    (∀ b, (t.booth b).muted ≠ (s.booth b).muted → .mute b (t.booth b).muted ∈ routeOrders t)

/-- R31, R32: whatever command is taken, apart from the supplies, the resets and DEVICE_RESET: the directory sequence advances by
1 exactly when the content changes, and then the directory as it stands is being sent or is pending. An expiry that a
command names is one such event (the model's choice, log 36). -/
def Obligations.DirectoryFollowsItsContent : Prop :=
  ∀ (i : Instr) (s t : State), s.running = true → (s.gen.due = [] ∨ isExpiry i = true) → exec i s = .next t →
    t.running = true → s.supply = t.supply →
    (∀ p tag, i ≠ .deviceReset p tag) → (∀ p content, i ≠ .unknownRequest p content) →
    (dirContent t = dirContent s → t.ret.dirSeq = s.ret.dirSeq) ∧
    (dirContent t ≠ dirContent s →
      t.ret.dirSeq = (if s.ret.dirSeq < 65535 then s.ret.dirSeq + 1 else 0) ∧
      ((s.gen.dirSending = none ∧ t.gen.dirSending = some ⟨dirContent t, t.ret.dirSeq⟩ ∧ t.gen.dirCount = 0) ∨
        (s.gen.dirSending ≠ none ∧ t.gen.dirSending = s.gen.dirSending ∧ t.gen.dirPending = true)))

/-- R170, R176, R178: the notice queues of every port keep their limits and their classes, with RESTARTED nowhere but at the
head, after every step from a state where they do. That the receive framing of every port stands between frames after every
step is the model's choice (log 11): a command is a whole frame, where R170 allows one received in part. -/
def Obligations.QueuesAreKept : Prop :=
  ∀ s t : State, step s = .next t → (∀ p, QueuesBounded (s.port p)) → ∀ p, QueuesBounded (t.port p)

/-- R155, R157, R170: each port has at most one accounting job, exactly while its request in progress is that job's, after every
step from a state where it is so. That a job in flight is a QUOTE or a CLOSE, since a SNAPSHOT or SESSION_CLOSE completes at
its start, is the model's choice (log 9). -/
def Obligations.JobsAreKept : Prop :=
  ∀ s t : State, step s = .next t → JobsAgree s → JobsAgree t

/-- R119, R120, R122, R138: the hire table keeps its capacity and its tickets, and receivers and lines name each other, after
every step from a state where they do and where a CLOSE in flight finds its hire firm while the token stands. The latter is
kept too while no change count stands at the value from which it wraps. R101, R114, R120: with them, every line's credit
stays within its duration and its issue not after its end, and each listener count is the number of HIRED receivers whose
language is its slot. -/
def Obligations.HiresAndLinksAreKept : Prop :=
  ∀ s t : State, step s = .next t → HiresLawful s.ret → LinksAgree s.ret → CloseHolds s →
    HiresLawful t.ret ∧ LinksAgree t.ret ∧
    ((∀ e ∈ s.ret.hires, e.2.changeCount < 4294967295) → CloseHolds t) ∧
    (CreditAgrees s → CreditAgrees t)

/-- R151, R162, R164: while no total stands at the total limit, time charges plus loss fees equal deposits applied plus
collected minus refunded, after every step from a state where they do. -/
def Obligations.AccountsStayBalanced : Prop :=
  ∀ s t : State, step s = .next t → (s.ret.accounts.below → s.ret.accounts.balanced) → t.ret.accounts.below →
    t.ret.accounts.balanced

/-- R2, R29, R30, R53, R54, R107, R119: the clock, the counters, the buffers and the deposits keep their ranges, and no mark
stands above its counter, after every step from a state where it is so. -/
def Obligations.RangesAreKept : Prop :=
  ∀ s t : State, step s = .next t → RangesKept s → RangesKept t

/-- Every invariant of these statements holds of the state after reset. -/
def Obligations.ResetMeetsTheInvariants : Prop :=
  PlanAgrees State.reset.ret ∧ HallAgrees State.reset ∧ ListeningAgrees State.reset ∧
  relayCheck State.reset (relayArcs State.reset) = true ∧ RouteListed State.reset ∧ MatrixAgrees State.reset ∧
  (∀ p, QueuesBounded (State.reset.port p)) ∧ JobsAgree State.reset ∧ HiresLawful State.reset.ret ∧
  LinksAgree State.reset.ret ∧ CloseHolds State.reset ∧ CreditAgrees State.reset ∧ State.reset.ret.accounts.balanced ∧ State.reset.ret.accounts.below ∧
  RangesKept State.reset ∧ Awake State.reset

/-- R76: the relay check's two graph tests are what the rule says: a cycle is found exactly when following links from some
channel leads back to it; and without one, the hop count of a produced channel is the largest of in(b) + 1 over the booths
that have it as an output. -/
def Obligations.RelayGraphIsJudged : Prop :=
  ∀ arcs : List RelayArc,
    (hasCycle arcs = true ↔ ∃ c, Reaches arcs c c) ∧
    (hasCycle arcs = false → ∀ c : Chan,
      (produced arcs c = false → (hops arcs).get c = 0) ∧
      (∀ a ∈ arcs, c ∈ a.outputs → inputHops (hops arcs) a.input + 1 ≤ (hops arcs).get c) ∧
      (produced arcs c = true → ∃ a ∈ arcs, c ∈ a.outputs ∧ (hops arcs).get c = inputHops (hops arcs) a.input + 1))
end

