-- ==== Sys2Proof/Laws/Containers.lean ====
section
/-! SUPPORT. The laws of the containers: banks, things by port, and tables by number. -/

namespace Sys2Proof

namespace Bank
variable {α β : Type} {n : Nat}

@[simp] theorem get_set_same (b : Bank α n) (i : Fin n) (x : α) : (b.set i x).get i = x := by
  simp [get, set]

theorem get_set_ne (b : Bank α n) {i j : Fin n} (x : α) (h : i ≠ j) : (b.set i x).get j = b.get j := by
  have : i.val ≠ j.val := fun e => h (Fin.ext e)
  simp [get, set, this]

theorem get_set (b : Bank α n) (i j : Fin n) (x : α) : (b.set i x).get j = if i = j then x else b.get j := by
  split
  · next h => subst h; simp
  · next h => exact get_set_ne b x h

@[simp] theorem get_fill (i : Fin n) (x : α) : (fill n x).get i = x := by
  simp [get, fill]

@[simp] theorem get_build (f : Fin n → α) (i : Fin n) : (build f).get i = f i := by
  simp [get, build]

@[simp] theorem get_map (f : α → β) (b : Bank α n) (i : Fin n) : (b.map f).get i = f (b.get i) := by
  simp [get, map]

theorem get_modify (b : Bank α n) (i j : Fin n) (f : α → α) :
    (b.modify i f).get j = if i = j then f (b.get i) else b.get j := get_set b i j _

/-- Two banks that hold the same things are equal. -/
theorem ext_get {a b : Bank α n} (h : ∀ i, a.get i = b.get i) : a = b := by
  cases a with
  | mk ca sa =>
    cases b with
    | mk cb sb =>
      have : ca = cb := List.ext_getElem (sa.trans sb.symm) (fun i hi _ => h ⟨i, sa ▸ hi⟩)
      subst this; rfl

@[simp] theorem set_get (b : Bank α n) (i : Fin n) : b.set i (b.get i) = b :=
  ext_get (fun j => by rw [get_set]; split <;> simp_all)

theorem set_set (b : Bank α n) (i : Fin n) (x y : α) : (b.set i x).set i y = b.set i y :=
  ext_get (fun j => by simp only [get_set]; split <;> rfl)

end Bank

namespace Machine

@[simp] theorem PerPort.get_set_same {α : Type} (x : PerPort α) (p : Port) (v : α) : (x.set p v).get p = v := by
  cases p <;> rfl

theorem PerPort.get_set_ne {α : Type} (x : PerPort α) {p q : Port} (v : α) (h : p ≠ q) :
    (x.set p v).get q = x.get q := by
  cases p <;> cases q <;> first | rfl | exact absurd rfl h

theorem PerPort.get_set {α : Type} (x : PerPort α) (p q : Port) (v : α) :
    (x.set p v).get q = if p = q then v else x.get q := by
  cases p <;> cases q <;> rfl

@[simp] theorem PerPort.set_get {α : Type} (x : PerPort α) (p : Port) : x.set p (x.get p) = x := by
  cases p <;> rfl

theorem PerPort.set_set {α : Type} (x : PerPort α) (p : Port) (v w : α) : (x.set p v).set p w = x.set p w := by
  cases p <;> rfl

theorem PerPort.ext_get {α : Type} {x y : PerPort α} (h : ∀ p, x.get p = y.get p) : x = y := by
  cases x; cases y
  have h1 := h .console; have h2 := h .desk1; have h3 := h .desk2
  simp only [PerPort.get] at h1 h2 h3
  subst h1 h2 h3; rfl

end Machine

namespace Table
variable {α : Type}

@[simp] theorem find?_nil (n : Nat) : find? ([] : Table α) n = none := rfl

theorem find?_cons (k : Nat) (x : α) (t : Table α) (n : Nat) :
    find? ((k, x) :: t) n = if k = n then some x else find? t n := rfl

/-- A record that is found is listed. -/
theorem mem_of_find? {t : Table α} {n : Nat} {x : α} (h : find? t n = some x) : (n, x) ∈ t := by
  induction t with
  | nil => cases h
  | cons e t ih =>
    obtain ⟨k, y⟩ := e
    rw [find?_cons] at h
    split at h
    · next hk => cases h; subst hk; exact List.mem_cons_self
    · exact List.mem_cons_of_mem _ (ih h)

/-- In a sorted table a record that is listed is found. -/
theorem find?_of_mem {t : Table α} (hs : Sorted t) {n : Nat} {x : α} (h : (n, x) ∈ t) : find? t n = some x := by
  induction t with
  | nil => cases h
  | cons e t ih =>
    obtain ⟨k, y⟩ := e
    rw [find?_cons]
    rcases List.mem_cons.mp h with h | h
    · cases h; simp
    · have hlt : k < n := (List.pairwise_cons.mp hs).1 _ h
      rw [if_neg (Nat.ne_of_lt hlt)]
      exact ih (List.pairwise_cons.mp hs).2 h

/-- A number that no record of the table has is not found. -/
theorem find?_none {t : Table α} {n : Nat} (h : ∀ e ∈ t, e.1 ≠ n) : find? t n = none := by
  induction t with
  | nil => rfl
  | cons e t ih =>
    obtain ⟨k, y⟩ := e
    rw [find?_cons, if_neg (h (k, y) List.mem_cons_self)]
    exact ih (fun e he => h e (List.mem_cons_of_mem _ he))

/-- Reading after writing: the number written gives the record written, and every other number what it gave. -/
theorem find?_put (t : Table α) (n m : Nat) (x : α) :
    find? (put t n x) m = if n = m then some x else find? t m := by
  induction t with
  | nil => simp [put, find?_cons]
  | cons e t ih =>
    obtain ⟨k, y⟩ := e
    unfold put
    split
    · simp [find?_cons]
    · split
      · next h => subst h; simp only [find?_cons]; split <;> rfl
      · next h =>
        simp only [find?_cons, ih]
        split <;> split <;> first | rfl | omega

theorem mem_put {t : Table α} {n : Nat} {x : α} {e : Nat × α} (h : e ∈ put t n x) : e = (n, x) ∨ e ∈ t := by
  induction t with
  | nil => simpa [put] using h
  | cons f t ih =>
    obtain ⟨k, y⟩ := f
    unfold put at h
    split at h
    · simpa using h
    · split at h
      · rcases List.mem_cons.mp h with h | h
        · exact .inl h
        · exact .inr (List.mem_cons_of_mem _ h)
      · rcases List.mem_cons.mp h with h | h
        · exact .inr (h ▸ List.mem_cons_self)
        · exact (ih h).imp id (List.mem_cons_of_mem _)

/-- A write keeps the canonical form. -/
theorem sorted_put {t : Table α} (hs : Sorted t) (n : Nat) (x : α) : Sorted (put t n x) := by
  induction t with
  | nil => simp [put, Sorted]
  | cons e t ih =>
    obtain ⟨k, y⟩ := e
    have ht := List.pairwise_cons.mp hs
    unfold put
    split
    · next h =>
      refine List.pairwise_cons.mpr ⟨fun f hf => ?_, hs⟩
      rcases List.mem_cons.mp hf with hf | hf
      · subst hf; exact h
      · exact Nat.lt_trans h (ht.1 f hf)
    · split
      · next h => subst h; exact List.pairwise_cons.mpr ⟨ht.1, ht.2⟩
      · refine List.pairwise_cons.mpr ⟨fun f hf => ?_, ih ht.2⟩
        rcases mem_put hf with hf | hf
        · subst hf; simp only; omega
        · exact ht.1 f hf

theorem length_put_le (t : Table α) (n : Nat) (x : α) : (put t n x).length ≤ t.length + 1 := by
  induction t with
  | nil => simp [put]
  | cons e t ih =>
    obtain ⟨k, y⟩ := e
    unfold put
    split
    · simp
    · split
      · simp
      · simpa using ih

/-- Writing a record that the table already holds keeps its length. -/
theorem length_put_of_find? {t : Table α} {n : Nat} {y : α} (x : α) (hs : Sorted t) (h : find? t n = some y) :
    (put t n x).length = t.length := by
  induction t with
  | nil => cases h
  | cons e t ih =>
    obtain ⟨k, z⟩ := e
    have ht := List.pairwise_cons.mp hs
    unfold put
    rw [find?_cons] at h
    split at h
    · next hk => subst hk; simp
    · next hk =>
      have hm := ht.1 _ (mem_of_find? h)
      simp only at hm
      rw [if_neg (by omega), if_neg (by omega)]
      simpa using ih ht.2 h

theorem sorted_remove {t : Table α} (hs : Sorted t) (n : Nat) : Sorted (remove t n) := List.Pairwise.filter _ hs

theorem length_remove_le (t : Table α) (n : Nat) : (remove t n).length ≤ t.length := List.length_filter_le _ _

/-- A removed record is not found; every other one is found as before. -/
theorem find?_remove (t : Table α) (n m : Nat) :
    find? (remove t n) m = if n = m then none else find? t m := by
  induction t with
  | nil => simp [remove]
  | cons e t ih =>
    obtain ⟨k, y⟩ := e
    unfold remove at ih ⊢
    simp only [List.filter_cons]
    split
    · next h =>
      simp only [find?_cons, ih]
      split <;> split <;> first | rfl | (simp only [bne_iff_ne, ne_eq] at h; omega)
    · next h =>
      simp only [bne_iff_ne, ne_eq, not_not] at h
      simp only [find?_cons, ih]
      split <;> first | rfl | (split <;> first | rfl | omega)

/-- Changing the records and not their numbers keeps the canonical form, and changes each record found. -/
theorem sorted_map {t : Table α} (f : Nat → α → α) (hs : Sorted t) :
    Sorted (t.map (fun e => (e.1, f e.1 e.2))) := by
  refine List.pairwise_map.mpr ?_
  exact hs.imp (fun h => h)

theorem find?_map (t : Table α) (f : Nat → α → α) (n : Nat) :
    find? (t.map (fun e => (e.1, f e.1 e.2))) n = (find? t n).map (f n) := by
  induction t with
  | nil => rfl
  | cons e t ih =>
    obtain ⟨k, y⟩ := e
    simp only [List.map_cons, find?_cons, ih]
    split
    · next h => subst h; rfl
    · rfl

end Table

end Sys2Proof
end

