-- ==== Sys2Proof/Laws/State.lean ====
section
/-! SUPPORT. One lemma per field for each update of one item of state. -/

namespace Sys2Proof.Machine
open Sys2Proof

variable (s : State)

/-! ## `setChan` -/

@[simp] theorem State.setChan_pending (c : Chan) (x : ChanLive) : (s.setChan c x).pending = s.pending := rfl
@[simp] theorem State.setChan_supply (c : Chan) (x : ChanLive) : (s.setChan c x).supply = s.supply := rfl
@[simp] theorem State.setChan_lineAsserted (c : Chan) (x : ChanLive) : (s.setChan c x).lineAsserted = s.lineAsserted := rfl
@[simp] theorem State.setChan_heldStart (c : Chan) (x : ChanLive) : (s.setChan c x).heldStart = s.heldStart := rfl
@[simp] theorem State.setChan_draws (c : Chan) (x : ChanLive) : (s.setChan c x).draws = s.draws := rfl
@[simp] theorem State.setChan_breaks (c : Chan) (x : ChanLive) : (s.setChan c x).breaks = s.breaks := rfl
@[simp] theorem State.setChan_clock (c : Chan) (x : ChanLive) : (s.setChan c x).clock = s.clock := rfl
@[simp] theorem State.setChan_mark (c : Chan) (x : ChanLive) : (s.setChan c x).mark = s.mark := rfl
@[simp] theorem State.setChan_ret (c : Chan) (x : ChanLive) : (s.setChan c x).ret = s.ret := rfl
@[simp] theorem State.setChan_gen_chans (c : Chan) (x : ChanLive) : (s.setChan c x).gen.chans = s.gen.chans.set c x := rfl
@[simp] theorem State.setChan_gen_override (c : Chan) (x : ChanLive) : (s.setChan c x).gen.override = s.gen.override := rfl
@[simp] theorem State.setChan_gen_dirSending (c : Chan) (x : ChanLive) : (s.setChan c x).gen.dirSending = s.gen.dirSending := rfl
@[simp] theorem State.setChan_gen_dirPending (c : Chan) (x : ChanLive) : (s.setChan c x).gen.dirPending = s.gen.dirPending := rfl
@[simp] theorem State.setChan_gen_dirCount (c : Chan) (x : ChanLive) : (s.setChan c x).gen.dirCount = s.gen.dirCount := rfl
@[simp] theorem State.setChan_gen_routeSending (c : Chan) (x : ChanLive) : (s.setChan c x).gen.routeSending = s.gen.routeSending := rfl
@[simp] theorem State.setChan_gen_routeList (c : Chan) (x : ChanLive) : (s.setChan c x).gen.routeList = s.gen.routeList := rfl
@[simp] theorem State.setChan_gen_booths (c : Chan) (x : ChanLive) : (s.setChan c x).gen.booths = s.gen.booths := rfl
@[simp] theorem State.setChan_gen_offers (c : Chan) (x : ChanLive) : (s.setChan c x).gen.offers = s.gen.offers := rfl
@[simp] theorem State.setChan_gen_scanPos (c : Chan) (x : ChanLive) : (s.setChan c x).gen.scanPos = s.gen.scanPos := rfl
@[simp] theorem State.setChan_gen_cycle (c : Chan) (x : ChanLive) : (s.setChan c x).gen.cycle = s.gen.cycle := rfl
@[simp] theorem State.setChan_gen_intake (c : Chan) (x : ChanLive) : (s.setChan c x).gen.intake = s.gen.intake := rfl
@[simp] theorem State.setChan_gen_intakeFraming (c : Chan) (x : ChanLive) : (s.setChan c x).gen.intakeFraming = s.gen.intakeFraming := rfl
@[simp] theorem State.setChan_gen_jobs (c : Chan) (x : ChanLive) : (s.setChan c x).gen.jobs = s.gen.jobs := rfl
@[simp] theorem State.setChan_gen_flight (c : Chan) (x : ChanLive) : (s.setChan c x).gen.flight = s.gen.flight := rfl
@[simp] theorem State.setChan_gen_snapshot (c : Chan) (x : ChanLive) : (s.setChan c x).gen.snapshot = s.gen.snapshot := rfl
@[simp] theorem State.setChan_gen_start (c : Chan) (x : ChanLive) : (s.setChan c x).gen.start = s.gen.start := rfl
@[simp] theorem State.setChan_gen_ports (c : Chan) (x : ChanLive) : (s.setChan c x).gen.ports = s.gen.ports := rfl
@[simp] theorem State.setChan_gen_due (c : Chan) (x : ChanLive) : (s.setChan c x).gen.due = s.gen.due := rfl
@[simp] theorem State.setChan_read_settings (c : Chan) (x : ChanLive) (d : Chan) : (s.setChan c x).settings d = s.settings d := rfl
@[simp] theorem State.setChan_read_slot (c : Chan) (x : ChanLive) (d : Slot) : (s.setChan c x).slot d = s.slot d := rfl
@[simp] theorem State.setChan_read_booth (c : Chan) (x : ChanLive) (d : Booth) : (s.setChan c x).booth d = s.booth d := rfl
@[simp] theorem State.setChan_read_boothSettings (c : Chan) (x : ChanLive) (d : Booth) : (s.setChan c x).boothSettings d = s.boothSettings d := rfl
@[simp] theorem State.setChan_read_seat (c : Chan) (x : ChanLive) (d : Booth) (j : Seat) : (s.setChan c x).seat d j = s.seat d j := rfl
@[simp] theorem State.setChan_read_acc (c : Chan) (x : ChanLive) (d : Booth) (j : Seat) : (s.setChan c x).acc d j = s.acc d j := rfl
@[simp] theorem State.setChan_read_offer (c : Chan) (x : ChanLive) (d : Chan) : (s.setChan c x).offer d = s.offer d := rfl
@[simp] theorem State.setChan_read_port (c : Chan) (x : ChanLive) (q : Port) : (s.setChan c x).port q = s.port q := rfl
@[simp] theorem State.setChan_read_tariff (c : Chan) (x : ChanLive) (d : TClass) : (s.setChan c x).tariff d = s.tariff d := rfl
@[simp] theorem State.setChan_read_receiver (c : Chan) (x : ChanLive) (n : Nat) : (s.setChan c x).receiver n = s.receiver n := rfl
@[simp] theorem State.setChan_read_hire (c : Chan) (x : ChanLive) (n : Nat) : (s.setChan c x).hire? n = s.hire? n := rfl
@[simp] theorem State.setChan_running (c : Chan) (x : ChanLive) : (s.setChan c x).running = s.running := rfl

/-! ## `setSettings` -/

@[simp] theorem State.setSettings_pending (c : Chan) (x : ChanSettings) : (s.setSettings c x).pending = s.pending := rfl
@[simp] theorem State.setSettings_supply (c : Chan) (x : ChanSettings) : (s.setSettings c x).supply = s.supply := rfl
@[simp] theorem State.setSettings_lineAsserted (c : Chan) (x : ChanSettings) : (s.setSettings c x).lineAsserted = s.lineAsserted := rfl
@[simp] theorem State.setSettings_heldStart (c : Chan) (x : ChanSettings) : (s.setSettings c x).heldStart = s.heldStart := rfl
@[simp] theorem State.setSettings_draws (c : Chan) (x : ChanSettings) : (s.setSettings c x).draws = s.draws := rfl
@[simp] theorem State.setSettings_breaks (c : Chan) (x : ChanSettings) : (s.setSettings c x).breaks = s.breaks := rfl
@[simp] theorem State.setSettings_clock (c : Chan) (x : ChanSettings) : (s.setSettings c x).clock = s.clock := rfl
@[simp] theorem State.setSettings_mark (c : Chan) (x : ChanSettings) : (s.setSettings c x).mark = s.mark := rfl
@[simp] theorem State.setSettings_gen (c : Chan) (x : ChanSettings) : (s.setSettings c x).gen = s.gen := rfl
@[simp] theorem State.setSettings_ret_slots (c : Chan) (x : ChanSettings) : (s.setSettings c x).ret.slots = s.ret.slots := rfl
@[simp] theorem State.setSettings_ret_plan (c : Chan) (x : ChanSettings) : (s.setSettings c x).ret.plan = s.ret.plan.set c x := rfl
@[simp] theorem State.setSettings_ret_dirSeq (c : Chan) (x : ChanSettings) : (s.setSettings c x).ret.dirSeq = s.ret.dirSeq := rfl
@[simp] theorem State.setSettings_ret_booths (c : Chan) (x : ChanSettings) : (s.setSettings c x).ret.booths = s.ret.booths := rfl
@[simp] theorem State.setSettings_ret_seatAcc (c : Chan) (x : ChanSettings) : (s.setSettings c x).ret.seatAcc = s.ret.seatAcc := rfl
@[simp] theorem State.setSettings_ret_receivers (c : Chan) (x : ChanSettings) : (s.setSettings c x).ret.receivers = s.ret.receivers := rfl
@[simp] theorem State.setSettings_ret_hallCode (c : Chan) (x : ChanSettings) : (s.setSettings c x).ret.hallCode = s.ret.hallCode := rfl
@[simp] theorem State.setSettings_ret_listeners (c : Chan) (x : ChanSettings) : (s.setSettings c x).ret.listeners = s.ret.listeners := rfl
@[simp] theorem State.setSettings_ret_peaks (c : Chan) (x : ChanSettings) : (s.setSettings c x).ret.peaks = s.ret.peaks := rfl
@[simp] theorem State.setSettings_ret_hires (c : Chan) (x : ChanSettings) : (s.setSettings c x).ret.hires = s.ret.hires := rfl
@[simp] theorem State.setSettings_ret_nextTicket (c : Chan) (x : ChanSettings) : (s.setSettings c x).ret.nextTicket = s.ret.nextTicket := rfl
@[simp] theorem State.setSettings_ret_tariffs (c : Chan) (x : ChanSettings) : (s.setSettings c x).ret.tariffs = s.ret.tariffs := rfl
@[simp] theorem State.setSettings_ret_accounts (c : Chan) (x : ChanSettings) : (s.setSettings c x).ret.accounts = s.ret.accounts := rfl
@[simp] theorem State.setSettings_ret_session (c : Chan) (x : ChanSettings) : (s.setSettings c x).ret.session = s.ret.session := rfl
@[simp] theorem State.setSettings_ret_counters (c : Chan) (x : ChanSettings) : (s.setSettings c x).ret.counters = s.ret.counters := rfl
@[simp] theorem State.setSettings_read_chan (c : Chan) (x : ChanSettings) (d : Chan) : (s.setSettings c x).chan d = s.chan d := rfl
@[simp] theorem State.setSettings_read_slot (c : Chan) (x : ChanSettings) (d : Slot) : (s.setSettings c x).slot d = s.slot d := rfl
@[simp] theorem State.setSettings_read_booth (c : Chan) (x : ChanSettings) (d : Booth) : (s.setSettings c x).booth d = s.booth d := rfl
@[simp] theorem State.setSettings_read_boothSettings (c : Chan) (x : ChanSettings) (d : Booth) : (s.setSettings c x).boothSettings d = s.boothSettings d := rfl
@[simp] theorem State.setSettings_read_seat (c : Chan) (x : ChanSettings) (d : Booth) (j : Seat) : (s.setSettings c x).seat d j = s.seat d j := rfl
@[simp] theorem State.setSettings_read_acc (c : Chan) (x : ChanSettings) (d : Booth) (j : Seat) : (s.setSettings c x).acc d j = s.acc d j := rfl
@[simp] theorem State.setSettings_read_offer (c : Chan) (x : ChanSettings) (d : Chan) : (s.setSettings c x).offer d = s.offer d := rfl
@[simp] theorem State.setSettings_read_port (c : Chan) (x : ChanSettings) (q : Port) : (s.setSettings c x).port q = s.port q := rfl
@[simp] theorem State.setSettings_read_tariff (c : Chan) (x : ChanSettings) (d : TClass) : (s.setSettings c x).tariff d = s.tariff d := rfl
@[simp] theorem State.setSettings_read_receiver (c : Chan) (x : ChanSettings) (n : Nat) : (s.setSettings c x).receiver n = s.receiver n := rfl
@[simp] theorem State.setSettings_read_hire (c : Chan) (x : ChanSettings) (n : Nat) : (s.setSettings c x).hire? n = s.hire? n := rfl
@[simp] theorem State.setSettings_running (c : Chan) (x : ChanSettings) : (s.setSettings c x).running = s.running := rfl

/-! ## `setSlot` -/

@[simp] theorem State.setSlot_pending (k : Slot) (x : LangSlot) : (s.setSlot k x).pending = s.pending := rfl
@[simp] theorem State.setSlot_supply (k : Slot) (x : LangSlot) : (s.setSlot k x).supply = s.supply := rfl
@[simp] theorem State.setSlot_lineAsserted (k : Slot) (x : LangSlot) : (s.setSlot k x).lineAsserted = s.lineAsserted := rfl
@[simp] theorem State.setSlot_heldStart (k : Slot) (x : LangSlot) : (s.setSlot k x).heldStart = s.heldStart := rfl
@[simp] theorem State.setSlot_draws (k : Slot) (x : LangSlot) : (s.setSlot k x).draws = s.draws := rfl
@[simp] theorem State.setSlot_breaks (k : Slot) (x : LangSlot) : (s.setSlot k x).breaks = s.breaks := rfl
@[simp] theorem State.setSlot_clock (k : Slot) (x : LangSlot) : (s.setSlot k x).clock = s.clock := rfl
@[simp] theorem State.setSlot_mark (k : Slot) (x : LangSlot) : (s.setSlot k x).mark = s.mark := rfl
@[simp] theorem State.setSlot_gen (k : Slot) (x : LangSlot) : (s.setSlot k x).gen = s.gen := rfl
@[simp] theorem State.setSlot_ret_slots (k : Slot) (x : LangSlot) : (s.setSlot k x).ret.slots = s.ret.slots.set k x := rfl
@[simp] theorem State.setSlot_ret_plan (k : Slot) (x : LangSlot) : (s.setSlot k x).ret.plan = s.ret.plan := rfl
@[simp] theorem State.setSlot_ret_dirSeq (k : Slot) (x : LangSlot) : (s.setSlot k x).ret.dirSeq = s.ret.dirSeq := rfl
@[simp] theorem State.setSlot_ret_booths (k : Slot) (x : LangSlot) : (s.setSlot k x).ret.booths = s.ret.booths := rfl
@[simp] theorem State.setSlot_ret_seatAcc (k : Slot) (x : LangSlot) : (s.setSlot k x).ret.seatAcc = s.ret.seatAcc := rfl
@[simp] theorem State.setSlot_ret_receivers (k : Slot) (x : LangSlot) : (s.setSlot k x).ret.receivers = s.ret.receivers := rfl
@[simp] theorem State.setSlot_ret_hallCode (k : Slot) (x : LangSlot) : (s.setSlot k x).ret.hallCode = s.ret.hallCode := rfl
@[simp] theorem State.setSlot_ret_listeners (k : Slot) (x : LangSlot) : (s.setSlot k x).ret.listeners = s.ret.listeners := rfl
@[simp] theorem State.setSlot_ret_peaks (k : Slot) (x : LangSlot) : (s.setSlot k x).ret.peaks = s.ret.peaks := rfl
@[simp] theorem State.setSlot_ret_hires (k : Slot) (x : LangSlot) : (s.setSlot k x).ret.hires = s.ret.hires := rfl
@[simp] theorem State.setSlot_ret_nextTicket (k : Slot) (x : LangSlot) : (s.setSlot k x).ret.nextTicket = s.ret.nextTicket := rfl
@[simp] theorem State.setSlot_ret_tariffs (k : Slot) (x : LangSlot) : (s.setSlot k x).ret.tariffs = s.ret.tariffs := rfl
@[simp] theorem State.setSlot_ret_accounts (k : Slot) (x : LangSlot) : (s.setSlot k x).ret.accounts = s.ret.accounts := rfl
@[simp] theorem State.setSlot_ret_session (k : Slot) (x : LangSlot) : (s.setSlot k x).ret.session = s.ret.session := rfl
@[simp] theorem State.setSlot_ret_counters (k : Slot) (x : LangSlot) : (s.setSlot k x).ret.counters = s.ret.counters := rfl
@[simp] theorem State.setSlot_read_chan (k : Slot) (x : LangSlot) (d : Chan) : (s.setSlot k x).chan d = s.chan d := rfl
@[simp] theorem State.setSlot_read_settings (k : Slot) (x : LangSlot) (d : Chan) : (s.setSlot k x).settings d = s.settings d := rfl
@[simp] theorem State.setSlot_read_booth (k : Slot) (x : LangSlot) (d : Booth) : (s.setSlot k x).booth d = s.booth d := rfl
@[simp] theorem State.setSlot_read_boothSettings (k : Slot) (x : LangSlot) (d : Booth) : (s.setSlot k x).boothSettings d = s.boothSettings d := rfl
@[simp] theorem State.setSlot_read_seat (k : Slot) (x : LangSlot) (d : Booth) (j : Seat) : (s.setSlot k x).seat d j = s.seat d j := rfl
@[simp] theorem State.setSlot_read_acc (k : Slot) (x : LangSlot) (d : Booth) (j : Seat) : (s.setSlot k x).acc d j = s.acc d j := rfl
@[simp] theorem State.setSlot_read_offer (k : Slot) (x : LangSlot) (d : Chan) : (s.setSlot k x).offer d = s.offer d := rfl
@[simp] theorem State.setSlot_read_port (k : Slot) (x : LangSlot) (q : Port) : (s.setSlot k x).port q = s.port q := rfl
@[simp] theorem State.setSlot_read_tariff (k : Slot) (x : LangSlot) (d : TClass) : (s.setSlot k x).tariff d = s.tariff d := rfl
@[simp] theorem State.setSlot_read_receiver (k : Slot) (x : LangSlot) (n : Nat) : (s.setSlot k x).receiver n = s.receiver n := rfl
@[simp] theorem State.setSlot_read_hire (k : Slot) (x : LangSlot) (n : Nat) : (s.setSlot k x).hire? n = s.hire? n := rfl
@[simp] theorem State.setSlot_running (k : Slot) (x : LangSlot) : (s.setSlot k x).running = s.running := rfl

/-! ## `setBooth` -/

@[simp] theorem State.setBooth_pending (b : Booth) (x : BoothLive) : (s.setBooth b x).pending = s.pending := rfl
@[simp] theorem State.setBooth_supply (b : Booth) (x : BoothLive) : (s.setBooth b x).supply = s.supply := rfl
@[simp] theorem State.setBooth_lineAsserted (b : Booth) (x : BoothLive) : (s.setBooth b x).lineAsserted = s.lineAsserted := rfl
@[simp] theorem State.setBooth_heldStart (b : Booth) (x : BoothLive) : (s.setBooth b x).heldStart = s.heldStart := rfl
@[simp] theorem State.setBooth_draws (b : Booth) (x : BoothLive) : (s.setBooth b x).draws = s.draws := rfl
@[simp] theorem State.setBooth_breaks (b : Booth) (x : BoothLive) : (s.setBooth b x).breaks = s.breaks := rfl
@[simp] theorem State.setBooth_clock (b : Booth) (x : BoothLive) : (s.setBooth b x).clock = s.clock := rfl
@[simp] theorem State.setBooth_mark (b : Booth) (x : BoothLive) : (s.setBooth b x).mark = s.mark := rfl
@[simp] theorem State.setBooth_ret (b : Booth) (x : BoothLive) : (s.setBooth b x).ret = s.ret := rfl
@[simp] theorem State.setBooth_gen_chans (b : Booth) (x : BoothLive) : (s.setBooth b x).gen.chans = s.gen.chans := rfl
@[simp] theorem State.setBooth_gen_override (b : Booth) (x : BoothLive) : (s.setBooth b x).gen.override = s.gen.override := rfl
@[simp] theorem State.setBooth_gen_dirSending (b : Booth) (x : BoothLive) : (s.setBooth b x).gen.dirSending = s.gen.dirSending := rfl
@[simp] theorem State.setBooth_gen_dirPending (b : Booth) (x : BoothLive) : (s.setBooth b x).gen.dirPending = s.gen.dirPending := rfl
@[simp] theorem State.setBooth_gen_dirCount (b : Booth) (x : BoothLive) : (s.setBooth b x).gen.dirCount = s.gen.dirCount := rfl
@[simp] theorem State.setBooth_gen_routeSending (b : Booth) (x : BoothLive) : (s.setBooth b x).gen.routeSending = s.gen.routeSending := rfl
@[simp] theorem State.setBooth_gen_routeList (b : Booth) (x : BoothLive) : (s.setBooth b x).gen.routeList = s.gen.routeList := rfl
@[simp] theorem State.setBooth_gen_booths (b : Booth) (x : BoothLive) : (s.setBooth b x).gen.booths = s.gen.booths.set b x := rfl
@[simp] theorem State.setBooth_gen_offers (b : Booth) (x : BoothLive) : (s.setBooth b x).gen.offers = s.gen.offers := rfl
@[simp] theorem State.setBooth_gen_scanPos (b : Booth) (x : BoothLive) : (s.setBooth b x).gen.scanPos = s.gen.scanPos := rfl
@[simp] theorem State.setBooth_gen_cycle (b : Booth) (x : BoothLive) : (s.setBooth b x).gen.cycle = s.gen.cycle := rfl
@[simp] theorem State.setBooth_gen_intake (b : Booth) (x : BoothLive) : (s.setBooth b x).gen.intake = s.gen.intake := rfl
@[simp] theorem State.setBooth_gen_intakeFraming (b : Booth) (x : BoothLive) : (s.setBooth b x).gen.intakeFraming = s.gen.intakeFraming := rfl
@[simp] theorem State.setBooth_gen_jobs (b : Booth) (x : BoothLive) : (s.setBooth b x).gen.jobs = s.gen.jobs := rfl
@[simp] theorem State.setBooth_gen_flight (b : Booth) (x : BoothLive) : (s.setBooth b x).gen.flight = s.gen.flight := rfl
@[simp] theorem State.setBooth_gen_snapshot (b : Booth) (x : BoothLive) : (s.setBooth b x).gen.snapshot = s.gen.snapshot := rfl
@[simp] theorem State.setBooth_gen_start (b : Booth) (x : BoothLive) : (s.setBooth b x).gen.start = s.gen.start := rfl
@[simp] theorem State.setBooth_gen_ports (b : Booth) (x : BoothLive) : (s.setBooth b x).gen.ports = s.gen.ports := rfl
@[simp] theorem State.setBooth_gen_due (b : Booth) (x : BoothLive) : (s.setBooth b x).gen.due = s.gen.due := rfl
@[simp] theorem State.setBooth_read_chan (b : Booth) (x : BoothLive) (d : Chan) : (s.setBooth b x).chan d = s.chan d := rfl
@[simp] theorem State.setBooth_read_settings (b : Booth) (x : BoothLive) (d : Chan) : (s.setBooth b x).settings d = s.settings d := rfl
@[simp] theorem State.setBooth_read_slot (b : Booth) (x : BoothLive) (d : Slot) : (s.setBooth b x).slot d = s.slot d := rfl
@[simp] theorem State.setBooth_read_boothSettings (b : Booth) (x : BoothLive) (d : Booth) : (s.setBooth b x).boothSettings d = s.boothSettings d := rfl
@[simp] theorem State.setBooth_read_acc (b : Booth) (x : BoothLive) (d : Booth) (j : Seat) : (s.setBooth b x).acc d j = s.acc d j := rfl
@[simp] theorem State.setBooth_read_offer (b : Booth) (x : BoothLive) (d : Chan) : (s.setBooth b x).offer d = s.offer d := rfl
@[simp] theorem State.setBooth_read_port (b : Booth) (x : BoothLive) (q : Port) : (s.setBooth b x).port q = s.port q := rfl
@[simp] theorem State.setBooth_read_tariff (b : Booth) (x : BoothLive) (d : TClass) : (s.setBooth b x).tariff d = s.tariff d := rfl
@[simp] theorem State.setBooth_read_receiver (b : Booth) (x : BoothLive) (n : Nat) : (s.setBooth b x).receiver n = s.receiver n := rfl
@[simp] theorem State.setBooth_read_hire (b : Booth) (x : BoothLive) (n : Nat) : (s.setBooth b x).hire? n = s.hire? n := rfl
@[simp] theorem State.setBooth_running (b : Booth) (x : BoothLive) : (s.setBooth b x).running = s.running := rfl

/-! ## `setBoothSettings` -/

@[simp] theorem State.setBoothSettings_pending (b : Booth) (x : Option BoothSettings) : (s.setBoothSettings b x).pending = s.pending := rfl
@[simp] theorem State.setBoothSettings_supply (b : Booth) (x : Option BoothSettings) : (s.setBoothSettings b x).supply = s.supply := rfl
@[simp] theorem State.setBoothSettings_lineAsserted (b : Booth) (x : Option BoothSettings) : (s.setBoothSettings b x).lineAsserted = s.lineAsserted := rfl
@[simp] theorem State.setBoothSettings_heldStart (b : Booth) (x : Option BoothSettings) : (s.setBoothSettings b x).heldStart = s.heldStart := rfl
@[simp] theorem State.setBoothSettings_draws (b : Booth) (x : Option BoothSettings) : (s.setBoothSettings b x).draws = s.draws := rfl
@[simp] theorem State.setBoothSettings_breaks (b : Booth) (x : Option BoothSettings) : (s.setBoothSettings b x).breaks = s.breaks := rfl
@[simp] theorem State.setBoothSettings_clock (b : Booth) (x : Option BoothSettings) : (s.setBoothSettings b x).clock = s.clock := rfl
@[simp] theorem State.setBoothSettings_mark (b : Booth) (x : Option BoothSettings) : (s.setBoothSettings b x).mark = s.mark := rfl
@[simp] theorem State.setBoothSettings_gen (b : Booth) (x : Option BoothSettings) : (s.setBoothSettings b x).gen = s.gen := rfl
@[simp] theorem State.setBoothSettings_ret_slots (b : Booth) (x : Option BoothSettings) : (s.setBoothSettings b x).ret.slots = s.ret.slots := rfl
@[simp] theorem State.setBoothSettings_ret_plan (b : Booth) (x : Option BoothSettings) : (s.setBoothSettings b x).ret.plan = s.ret.plan := rfl
@[simp] theorem State.setBoothSettings_ret_dirSeq (b : Booth) (x : Option BoothSettings) : (s.setBoothSettings b x).ret.dirSeq = s.ret.dirSeq := rfl
@[simp] theorem State.setBoothSettings_ret_booths (b : Booth) (x : Option BoothSettings) : (s.setBoothSettings b x).ret.booths = s.ret.booths.set b x := rfl
@[simp] theorem State.setBoothSettings_ret_seatAcc (b : Booth) (x : Option BoothSettings) : (s.setBoothSettings b x).ret.seatAcc = s.ret.seatAcc := rfl
@[simp] theorem State.setBoothSettings_ret_receivers (b : Booth) (x : Option BoothSettings) : (s.setBoothSettings b x).ret.receivers = s.ret.receivers := rfl
@[simp] theorem State.setBoothSettings_ret_hallCode (b : Booth) (x : Option BoothSettings) : (s.setBoothSettings b x).ret.hallCode = s.ret.hallCode := rfl
@[simp] theorem State.setBoothSettings_ret_listeners (b : Booth) (x : Option BoothSettings) : (s.setBoothSettings b x).ret.listeners = s.ret.listeners := rfl
@[simp] theorem State.setBoothSettings_ret_peaks (b : Booth) (x : Option BoothSettings) : (s.setBoothSettings b x).ret.peaks = s.ret.peaks := rfl
@[simp] theorem State.setBoothSettings_ret_hires (b : Booth) (x : Option BoothSettings) : (s.setBoothSettings b x).ret.hires = s.ret.hires := rfl
@[simp] theorem State.setBoothSettings_ret_nextTicket (b : Booth) (x : Option BoothSettings) : (s.setBoothSettings b x).ret.nextTicket = s.ret.nextTicket := rfl
@[simp] theorem State.setBoothSettings_ret_tariffs (b : Booth) (x : Option BoothSettings) : (s.setBoothSettings b x).ret.tariffs = s.ret.tariffs := rfl
@[simp] theorem State.setBoothSettings_ret_accounts (b : Booth) (x : Option BoothSettings) : (s.setBoothSettings b x).ret.accounts = s.ret.accounts := rfl
@[simp] theorem State.setBoothSettings_ret_session (b : Booth) (x : Option BoothSettings) : (s.setBoothSettings b x).ret.session = s.ret.session := rfl
@[simp] theorem State.setBoothSettings_ret_counters (b : Booth) (x : Option BoothSettings) : (s.setBoothSettings b x).ret.counters = s.ret.counters := rfl
@[simp] theorem State.setBoothSettings_read_chan (b : Booth) (x : Option BoothSettings) (d : Chan) : (s.setBoothSettings b x).chan d = s.chan d := rfl
@[simp] theorem State.setBoothSettings_read_settings (b : Booth) (x : Option BoothSettings) (d : Chan) : (s.setBoothSettings b x).settings d = s.settings d := rfl
@[simp] theorem State.setBoothSettings_read_slot (b : Booth) (x : Option BoothSettings) (d : Slot) : (s.setBoothSettings b x).slot d = s.slot d := rfl
@[simp] theorem State.setBoothSettings_read_booth (b : Booth) (x : Option BoothSettings) (d : Booth) : (s.setBoothSettings b x).booth d = s.booth d := rfl
@[simp] theorem State.setBoothSettings_read_seat (b : Booth) (x : Option BoothSettings) (d : Booth) (j : Seat) : (s.setBoothSettings b x).seat d j = s.seat d j := rfl
@[simp] theorem State.setBoothSettings_read_acc (b : Booth) (x : Option BoothSettings) (d : Booth) (j : Seat) : (s.setBoothSettings b x).acc d j = s.acc d j := rfl
@[simp] theorem State.setBoothSettings_read_offer (b : Booth) (x : Option BoothSettings) (d : Chan) : (s.setBoothSettings b x).offer d = s.offer d := rfl
@[simp] theorem State.setBoothSettings_read_port (b : Booth) (x : Option BoothSettings) (q : Port) : (s.setBoothSettings b x).port q = s.port q := rfl
@[simp] theorem State.setBoothSettings_read_tariff (b : Booth) (x : Option BoothSettings) (d : TClass) : (s.setBoothSettings b x).tariff d = s.tariff d := rfl
@[simp] theorem State.setBoothSettings_read_receiver (b : Booth) (x : Option BoothSettings) (n : Nat) : (s.setBoothSettings b x).receiver n = s.receiver n := rfl
@[simp] theorem State.setBoothSettings_read_hire (b : Booth) (x : Option BoothSettings) (n : Nat) : (s.setBoothSettings b x).hire? n = s.hire? n := rfl
@[simp] theorem State.setBoothSettings_running (b : Booth) (x : Option BoothSettings) : (s.setBoothSettings b x).running = s.running := rfl

/-! ## `setSeat` -/

@[simp] theorem State.setSeat_pending (b : Booth) (k : Seat) (x : SeatState) : (s.setSeat b k x).pending = s.pending := rfl
@[simp] theorem State.setSeat_supply (b : Booth) (k : Seat) (x : SeatState) : (s.setSeat b k x).supply = s.supply := rfl
@[simp] theorem State.setSeat_lineAsserted (b : Booth) (k : Seat) (x : SeatState) : (s.setSeat b k x).lineAsserted = s.lineAsserted := rfl
@[simp] theorem State.setSeat_heldStart (b : Booth) (k : Seat) (x : SeatState) : (s.setSeat b k x).heldStart = s.heldStart := rfl
@[simp] theorem State.setSeat_draws (b : Booth) (k : Seat) (x : SeatState) : (s.setSeat b k x).draws = s.draws := rfl
@[simp] theorem State.setSeat_breaks (b : Booth) (k : Seat) (x : SeatState) : (s.setSeat b k x).breaks = s.breaks := rfl
@[simp] theorem State.setSeat_clock (b : Booth) (k : Seat) (x : SeatState) : (s.setSeat b k x).clock = s.clock := rfl
@[simp] theorem State.setSeat_mark (b : Booth) (k : Seat) (x : SeatState) : (s.setSeat b k x).mark = s.mark := rfl
@[simp] theorem State.setSeat_ret (b : Booth) (k : Seat) (x : SeatState) : (s.setSeat b k x).ret = s.ret := rfl
@[simp] theorem State.setSeat_gen_chans (b : Booth) (k : Seat) (x : SeatState) : (s.setSeat b k x).gen.chans = s.gen.chans := rfl
@[simp] theorem State.setSeat_gen_override (b : Booth) (k : Seat) (x : SeatState) : (s.setSeat b k x).gen.override = s.gen.override := rfl
@[simp] theorem State.setSeat_gen_dirSending (b : Booth) (k : Seat) (x : SeatState) : (s.setSeat b k x).gen.dirSending = s.gen.dirSending := rfl
@[simp] theorem State.setSeat_gen_dirPending (b : Booth) (k : Seat) (x : SeatState) : (s.setSeat b k x).gen.dirPending = s.gen.dirPending := rfl
@[simp] theorem State.setSeat_gen_dirCount (b : Booth) (k : Seat) (x : SeatState) : (s.setSeat b k x).gen.dirCount = s.gen.dirCount := rfl
@[simp] theorem State.setSeat_gen_routeSending (b : Booth) (k : Seat) (x : SeatState) : (s.setSeat b k x).gen.routeSending = s.gen.routeSending := rfl
@[simp] theorem State.setSeat_gen_routeList (b : Booth) (k : Seat) (x : SeatState) : (s.setSeat b k x).gen.routeList = s.gen.routeList := rfl
@[simp] theorem State.setSeat_gen_offers (b : Booth) (k : Seat) (x : SeatState) : (s.setSeat b k x).gen.offers = s.gen.offers := rfl
@[simp] theorem State.setSeat_gen_scanPos (b : Booth) (k : Seat) (x : SeatState) : (s.setSeat b k x).gen.scanPos = s.gen.scanPos := rfl
@[simp] theorem State.setSeat_gen_cycle (b : Booth) (k : Seat) (x : SeatState) : (s.setSeat b k x).gen.cycle = s.gen.cycle := rfl
@[simp] theorem State.setSeat_gen_intake (b : Booth) (k : Seat) (x : SeatState) : (s.setSeat b k x).gen.intake = s.gen.intake := rfl
@[simp] theorem State.setSeat_gen_intakeFraming (b : Booth) (k : Seat) (x : SeatState) : (s.setSeat b k x).gen.intakeFraming = s.gen.intakeFraming := rfl
@[simp] theorem State.setSeat_gen_jobs (b : Booth) (k : Seat) (x : SeatState) : (s.setSeat b k x).gen.jobs = s.gen.jobs := rfl
@[simp] theorem State.setSeat_gen_flight (b : Booth) (k : Seat) (x : SeatState) : (s.setSeat b k x).gen.flight = s.gen.flight := rfl
@[simp] theorem State.setSeat_gen_snapshot (b : Booth) (k : Seat) (x : SeatState) : (s.setSeat b k x).gen.snapshot = s.gen.snapshot := rfl
@[simp] theorem State.setSeat_gen_start (b : Booth) (k : Seat) (x : SeatState) : (s.setSeat b k x).gen.start = s.gen.start := rfl
@[simp] theorem State.setSeat_gen_ports (b : Booth) (k : Seat) (x : SeatState) : (s.setSeat b k x).gen.ports = s.gen.ports := rfl
@[simp] theorem State.setSeat_gen_due (b : Booth) (k : Seat) (x : SeatState) : (s.setSeat b k x).gen.due = s.gen.due := rfl
@[simp] theorem State.setSeat_read_chan (b : Booth) (k : Seat) (x : SeatState) (d : Chan) : (s.setSeat b k x).chan d = s.chan d := rfl
@[simp] theorem State.setSeat_read_settings (b : Booth) (k : Seat) (x : SeatState) (d : Chan) : (s.setSeat b k x).settings d = s.settings d := rfl
@[simp] theorem State.setSeat_read_slot (b : Booth) (k : Seat) (x : SeatState) (d : Slot) : (s.setSeat b k x).slot d = s.slot d := rfl
@[simp] theorem State.setSeat_read_boothSettings (b : Booth) (k : Seat) (x : SeatState) (d : Booth) : (s.setSeat b k x).boothSettings d = s.boothSettings d := rfl
@[simp] theorem State.setSeat_read_acc (b : Booth) (k : Seat) (x : SeatState) (d : Booth) (j : Seat) : (s.setSeat b k x).acc d j = s.acc d j := rfl
@[simp] theorem State.setSeat_read_offer (b : Booth) (k : Seat) (x : SeatState) (d : Chan) : (s.setSeat b k x).offer d = s.offer d := rfl
@[simp] theorem State.setSeat_read_port (b : Booth) (k : Seat) (x : SeatState) (q : Port) : (s.setSeat b k x).port q = s.port q := rfl
@[simp] theorem State.setSeat_read_tariff (b : Booth) (k : Seat) (x : SeatState) (d : TClass) : (s.setSeat b k x).tariff d = s.tariff d := rfl
@[simp] theorem State.setSeat_read_receiver (b : Booth) (k : Seat) (x : SeatState) (n : Nat) : (s.setSeat b k x).receiver n = s.receiver n := rfl
@[simp] theorem State.setSeat_read_hire (b : Booth) (k : Seat) (x : SeatState) (n : Nat) : (s.setSeat b k x).hire? n = s.hire? n := rfl
@[simp] theorem State.setSeat_running (b : Booth) (k : Seat) (x : SeatState) : (s.setSeat b k x).running = s.running := rfl

/-! ## `setAcc` -/

@[simp] theorem State.setAcc_pending (b : Booth) (k : Seat) (x : SeatAcc) : (s.setAcc b k x).pending = s.pending := rfl
@[simp] theorem State.setAcc_supply (b : Booth) (k : Seat) (x : SeatAcc) : (s.setAcc b k x).supply = s.supply := rfl
@[simp] theorem State.setAcc_lineAsserted (b : Booth) (k : Seat) (x : SeatAcc) : (s.setAcc b k x).lineAsserted = s.lineAsserted := rfl
@[simp] theorem State.setAcc_heldStart (b : Booth) (k : Seat) (x : SeatAcc) : (s.setAcc b k x).heldStart = s.heldStart := rfl
@[simp] theorem State.setAcc_draws (b : Booth) (k : Seat) (x : SeatAcc) : (s.setAcc b k x).draws = s.draws := rfl
@[simp] theorem State.setAcc_breaks (b : Booth) (k : Seat) (x : SeatAcc) : (s.setAcc b k x).breaks = s.breaks := rfl
@[simp] theorem State.setAcc_clock (b : Booth) (k : Seat) (x : SeatAcc) : (s.setAcc b k x).clock = s.clock := rfl
@[simp] theorem State.setAcc_mark (b : Booth) (k : Seat) (x : SeatAcc) : (s.setAcc b k x).mark = s.mark := rfl
@[simp] theorem State.setAcc_gen (b : Booth) (k : Seat) (x : SeatAcc) : (s.setAcc b k x).gen = s.gen := rfl
@[simp] theorem State.setAcc_ret_slots (b : Booth) (k : Seat) (x : SeatAcc) : (s.setAcc b k x).ret.slots = s.ret.slots := rfl
@[simp] theorem State.setAcc_ret_plan (b : Booth) (k : Seat) (x : SeatAcc) : (s.setAcc b k x).ret.plan = s.ret.plan := rfl
@[simp] theorem State.setAcc_ret_dirSeq (b : Booth) (k : Seat) (x : SeatAcc) : (s.setAcc b k x).ret.dirSeq = s.ret.dirSeq := rfl
@[simp] theorem State.setAcc_ret_booths (b : Booth) (k : Seat) (x : SeatAcc) : (s.setAcc b k x).ret.booths = s.ret.booths := rfl
@[simp] theorem State.setAcc_ret_receivers (b : Booth) (k : Seat) (x : SeatAcc) : (s.setAcc b k x).ret.receivers = s.ret.receivers := rfl
@[simp] theorem State.setAcc_ret_hallCode (b : Booth) (k : Seat) (x : SeatAcc) : (s.setAcc b k x).ret.hallCode = s.ret.hallCode := rfl
@[simp] theorem State.setAcc_ret_listeners (b : Booth) (k : Seat) (x : SeatAcc) : (s.setAcc b k x).ret.listeners = s.ret.listeners := rfl
@[simp] theorem State.setAcc_ret_peaks (b : Booth) (k : Seat) (x : SeatAcc) : (s.setAcc b k x).ret.peaks = s.ret.peaks := rfl
@[simp] theorem State.setAcc_ret_hires (b : Booth) (k : Seat) (x : SeatAcc) : (s.setAcc b k x).ret.hires = s.ret.hires := rfl
@[simp] theorem State.setAcc_ret_nextTicket (b : Booth) (k : Seat) (x : SeatAcc) : (s.setAcc b k x).ret.nextTicket = s.ret.nextTicket := rfl
@[simp] theorem State.setAcc_ret_tariffs (b : Booth) (k : Seat) (x : SeatAcc) : (s.setAcc b k x).ret.tariffs = s.ret.tariffs := rfl
@[simp] theorem State.setAcc_ret_accounts (b : Booth) (k : Seat) (x : SeatAcc) : (s.setAcc b k x).ret.accounts = s.ret.accounts := rfl
@[simp] theorem State.setAcc_ret_session (b : Booth) (k : Seat) (x : SeatAcc) : (s.setAcc b k x).ret.session = s.ret.session := rfl
@[simp] theorem State.setAcc_ret_counters (b : Booth) (k : Seat) (x : SeatAcc) : (s.setAcc b k x).ret.counters = s.ret.counters := rfl
@[simp] theorem State.setAcc_read_chan (b : Booth) (k : Seat) (x : SeatAcc) (d : Chan) : (s.setAcc b k x).chan d = s.chan d := rfl
@[simp] theorem State.setAcc_read_settings (b : Booth) (k : Seat) (x : SeatAcc) (d : Chan) : (s.setAcc b k x).settings d = s.settings d := rfl
@[simp] theorem State.setAcc_read_slot (b : Booth) (k : Seat) (x : SeatAcc) (d : Slot) : (s.setAcc b k x).slot d = s.slot d := rfl
@[simp] theorem State.setAcc_read_booth (b : Booth) (k : Seat) (x : SeatAcc) (d : Booth) : (s.setAcc b k x).booth d = s.booth d := rfl
@[simp] theorem State.setAcc_read_boothSettings (b : Booth) (k : Seat) (x : SeatAcc) (d : Booth) : (s.setAcc b k x).boothSettings d = s.boothSettings d := rfl
@[simp] theorem State.setAcc_read_seat (b : Booth) (k : Seat) (x : SeatAcc) (d : Booth) (j : Seat) : (s.setAcc b k x).seat d j = s.seat d j := rfl
@[simp] theorem State.setAcc_read_offer (b : Booth) (k : Seat) (x : SeatAcc) (d : Chan) : (s.setAcc b k x).offer d = s.offer d := rfl
@[simp] theorem State.setAcc_read_port (b : Booth) (k : Seat) (x : SeatAcc) (q : Port) : (s.setAcc b k x).port q = s.port q := rfl
@[simp] theorem State.setAcc_read_tariff (b : Booth) (k : Seat) (x : SeatAcc) (d : TClass) : (s.setAcc b k x).tariff d = s.tariff d := rfl
@[simp] theorem State.setAcc_read_receiver (b : Booth) (k : Seat) (x : SeatAcc) (n : Nat) : (s.setAcc b k x).receiver n = s.receiver n := rfl
@[simp] theorem State.setAcc_read_hire (b : Booth) (k : Seat) (x : SeatAcc) (n : Nat) : (s.setAcc b k x).hire? n = s.hire? n := rfl
@[simp] theorem State.setAcc_running (b : Booth) (k : Seat) (x : SeatAcc) : (s.setAcc b k x).running = s.running := rfl

/-! ## `setOffer` -/

@[simp] theorem State.setOffer_pending (c : Chan) (x : Option Offer) : (s.setOffer c x).pending = s.pending := rfl
@[simp] theorem State.setOffer_supply (c : Chan) (x : Option Offer) : (s.setOffer c x).supply = s.supply := rfl
@[simp] theorem State.setOffer_lineAsserted (c : Chan) (x : Option Offer) : (s.setOffer c x).lineAsserted = s.lineAsserted := rfl
@[simp] theorem State.setOffer_heldStart (c : Chan) (x : Option Offer) : (s.setOffer c x).heldStart = s.heldStart := rfl
@[simp] theorem State.setOffer_draws (c : Chan) (x : Option Offer) : (s.setOffer c x).draws = s.draws := rfl
@[simp] theorem State.setOffer_breaks (c : Chan) (x : Option Offer) : (s.setOffer c x).breaks = s.breaks := rfl
@[simp] theorem State.setOffer_clock (c : Chan) (x : Option Offer) : (s.setOffer c x).clock = s.clock := rfl
@[simp] theorem State.setOffer_mark (c : Chan) (x : Option Offer) : (s.setOffer c x).mark = s.mark := rfl
@[simp] theorem State.setOffer_ret (c : Chan) (x : Option Offer) : (s.setOffer c x).ret = s.ret := rfl
@[simp] theorem State.setOffer_gen_chans (c : Chan) (x : Option Offer) : (s.setOffer c x).gen.chans = s.gen.chans := rfl
@[simp] theorem State.setOffer_gen_override (c : Chan) (x : Option Offer) : (s.setOffer c x).gen.override = s.gen.override := rfl
@[simp] theorem State.setOffer_gen_dirSending (c : Chan) (x : Option Offer) : (s.setOffer c x).gen.dirSending = s.gen.dirSending := rfl
@[simp] theorem State.setOffer_gen_dirPending (c : Chan) (x : Option Offer) : (s.setOffer c x).gen.dirPending = s.gen.dirPending := rfl
@[simp] theorem State.setOffer_gen_dirCount (c : Chan) (x : Option Offer) : (s.setOffer c x).gen.dirCount = s.gen.dirCount := rfl
@[simp] theorem State.setOffer_gen_routeSending (c : Chan) (x : Option Offer) : (s.setOffer c x).gen.routeSending = s.gen.routeSending := rfl
@[simp] theorem State.setOffer_gen_routeList (c : Chan) (x : Option Offer) : (s.setOffer c x).gen.routeList = s.gen.routeList := rfl
@[simp] theorem State.setOffer_gen_booths (c : Chan) (x : Option Offer) : (s.setOffer c x).gen.booths = s.gen.booths := rfl
@[simp] theorem State.setOffer_gen_offers (c : Chan) (x : Option Offer) : (s.setOffer c x).gen.offers = s.gen.offers.set c x := rfl
@[simp] theorem State.setOffer_gen_scanPos (c : Chan) (x : Option Offer) : (s.setOffer c x).gen.scanPos = s.gen.scanPos := rfl
@[simp] theorem State.setOffer_gen_cycle (c : Chan) (x : Option Offer) : (s.setOffer c x).gen.cycle = s.gen.cycle := rfl
@[simp] theorem State.setOffer_gen_intake (c : Chan) (x : Option Offer) : (s.setOffer c x).gen.intake = s.gen.intake := rfl
@[simp] theorem State.setOffer_gen_intakeFraming (c : Chan) (x : Option Offer) : (s.setOffer c x).gen.intakeFraming = s.gen.intakeFraming := rfl
@[simp] theorem State.setOffer_gen_jobs (c : Chan) (x : Option Offer) : (s.setOffer c x).gen.jobs = s.gen.jobs := rfl
@[simp] theorem State.setOffer_gen_flight (c : Chan) (x : Option Offer) : (s.setOffer c x).gen.flight = s.gen.flight := rfl
@[simp] theorem State.setOffer_gen_snapshot (c : Chan) (x : Option Offer) : (s.setOffer c x).gen.snapshot = s.gen.snapshot := rfl
@[simp] theorem State.setOffer_gen_start (c : Chan) (x : Option Offer) : (s.setOffer c x).gen.start = s.gen.start := rfl
@[simp] theorem State.setOffer_gen_ports (c : Chan) (x : Option Offer) : (s.setOffer c x).gen.ports = s.gen.ports := rfl
@[simp] theorem State.setOffer_gen_due (c : Chan) (x : Option Offer) : (s.setOffer c x).gen.due = s.gen.due := rfl
@[simp] theorem State.setOffer_read_chan (c : Chan) (x : Option Offer) (d : Chan) : (s.setOffer c x).chan d = s.chan d := rfl
@[simp] theorem State.setOffer_read_settings (c : Chan) (x : Option Offer) (d : Chan) : (s.setOffer c x).settings d = s.settings d := rfl
@[simp] theorem State.setOffer_read_slot (c : Chan) (x : Option Offer) (d : Slot) : (s.setOffer c x).slot d = s.slot d := rfl
@[simp] theorem State.setOffer_read_booth (c : Chan) (x : Option Offer) (d : Booth) : (s.setOffer c x).booth d = s.booth d := rfl
@[simp] theorem State.setOffer_read_boothSettings (c : Chan) (x : Option Offer) (d : Booth) : (s.setOffer c x).boothSettings d = s.boothSettings d := rfl
@[simp] theorem State.setOffer_read_seat (c : Chan) (x : Option Offer) (d : Booth) (j : Seat) : (s.setOffer c x).seat d j = s.seat d j := rfl
@[simp] theorem State.setOffer_read_acc (c : Chan) (x : Option Offer) (d : Booth) (j : Seat) : (s.setOffer c x).acc d j = s.acc d j := rfl
@[simp] theorem State.setOffer_read_port (c : Chan) (x : Option Offer) (q : Port) : (s.setOffer c x).port q = s.port q := rfl
@[simp] theorem State.setOffer_read_tariff (c : Chan) (x : Option Offer) (d : TClass) : (s.setOffer c x).tariff d = s.tariff d := rfl
@[simp] theorem State.setOffer_read_receiver (c : Chan) (x : Option Offer) (n : Nat) : (s.setOffer c x).receiver n = s.receiver n := rfl
@[simp] theorem State.setOffer_read_hire (c : Chan) (x : Option Offer) (n : Nat) : (s.setOffer c x).hire? n = s.hire? n := rfl
@[simp] theorem State.setOffer_running (c : Chan) (x : Option Offer) : (s.setOffer c x).running = s.running := rfl

/-! ## `setPort` -/

@[simp] theorem State.setPort_pending (p : Port) (x : PortState) : (s.setPort p x).pending = s.pending := rfl
@[simp] theorem State.setPort_supply (p : Port) (x : PortState) : (s.setPort p x).supply = s.supply := rfl
@[simp] theorem State.setPort_lineAsserted (p : Port) (x : PortState) : (s.setPort p x).lineAsserted = s.lineAsserted := rfl
@[simp] theorem State.setPort_heldStart (p : Port) (x : PortState) : (s.setPort p x).heldStart = s.heldStart := rfl
@[simp] theorem State.setPort_draws (p : Port) (x : PortState) : (s.setPort p x).draws = s.draws := rfl
@[simp] theorem State.setPort_breaks (p : Port) (x : PortState) : (s.setPort p x).breaks = s.breaks := rfl
@[simp] theorem State.setPort_clock (p : Port) (x : PortState) : (s.setPort p x).clock = s.clock := rfl
@[simp] theorem State.setPort_mark (p : Port) (x : PortState) : (s.setPort p x).mark = s.mark := rfl
@[simp] theorem State.setPort_ret (p : Port) (x : PortState) : (s.setPort p x).ret = s.ret := rfl
@[simp] theorem State.setPort_gen_chans (p : Port) (x : PortState) : (s.setPort p x).gen.chans = s.gen.chans := rfl
@[simp] theorem State.setPort_gen_override (p : Port) (x : PortState) : (s.setPort p x).gen.override = s.gen.override := rfl
@[simp] theorem State.setPort_gen_dirSending (p : Port) (x : PortState) : (s.setPort p x).gen.dirSending = s.gen.dirSending := rfl
@[simp] theorem State.setPort_gen_dirPending (p : Port) (x : PortState) : (s.setPort p x).gen.dirPending = s.gen.dirPending := rfl
@[simp] theorem State.setPort_gen_dirCount (p : Port) (x : PortState) : (s.setPort p x).gen.dirCount = s.gen.dirCount := rfl
@[simp] theorem State.setPort_gen_routeSending (p : Port) (x : PortState) : (s.setPort p x).gen.routeSending = s.gen.routeSending := rfl
@[simp] theorem State.setPort_gen_routeList (p : Port) (x : PortState) : (s.setPort p x).gen.routeList = s.gen.routeList := rfl
@[simp] theorem State.setPort_gen_booths (p : Port) (x : PortState) : (s.setPort p x).gen.booths = s.gen.booths := rfl
@[simp] theorem State.setPort_gen_offers (p : Port) (x : PortState) : (s.setPort p x).gen.offers = s.gen.offers := rfl
@[simp] theorem State.setPort_gen_scanPos (p : Port) (x : PortState) : (s.setPort p x).gen.scanPos = s.gen.scanPos := rfl
@[simp] theorem State.setPort_gen_cycle (p : Port) (x : PortState) : (s.setPort p x).gen.cycle = s.gen.cycle := rfl
@[simp] theorem State.setPort_gen_intake (p : Port) (x : PortState) : (s.setPort p x).gen.intake = s.gen.intake := rfl
@[simp] theorem State.setPort_gen_intakeFraming (p : Port) (x : PortState) : (s.setPort p x).gen.intakeFraming = s.gen.intakeFraming := rfl
@[simp] theorem State.setPort_gen_jobs (p : Port) (x : PortState) : (s.setPort p x).gen.jobs = s.gen.jobs := rfl
@[simp] theorem State.setPort_gen_flight (p : Port) (x : PortState) : (s.setPort p x).gen.flight = s.gen.flight := rfl
@[simp] theorem State.setPort_gen_snapshot (p : Port) (x : PortState) : (s.setPort p x).gen.snapshot = s.gen.snapshot := rfl
@[simp] theorem State.setPort_gen_start (p : Port) (x : PortState) : (s.setPort p x).gen.start = s.gen.start := rfl
@[simp] theorem State.setPort_gen_ports (p : Port) (x : PortState) : (s.setPort p x).gen.ports = s.gen.ports.set p x := rfl
@[simp] theorem State.setPort_gen_due (p : Port) (x : PortState) : (s.setPort p x).gen.due = s.gen.due := rfl
@[simp] theorem State.setPort_read_chan (p : Port) (x : PortState) (d : Chan) : (s.setPort p x).chan d = s.chan d := rfl
@[simp] theorem State.setPort_read_settings (p : Port) (x : PortState) (d : Chan) : (s.setPort p x).settings d = s.settings d := rfl
@[simp] theorem State.setPort_read_slot (p : Port) (x : PortState) (d : Slot) : (s.setPort p x).slot d = s.slot d := rfl
@[simp] theorem State.setPort_read_booth (p : Port) (x : PortState) (d : Booth) : (s.setPort p x).booth d = s.booth d := rfl
@[simp] theorem State.setPort_read_boothSettings (p : Port) (x : PortState) (d : Booth) : (s.setPort p x).boothSettings d = s.boothSettings d := rfl
@[simp] theorem State.setPort_read_seat (p : Port) (x : PortState) (d : Booth) (j : Seat) : (s.setPort p x).seat d j = s.seat d j := rfl
@[simp] theorem State.setPort_read_acc (p : Port) (x : PortState) (d : Booth) (j : Seat) : (s.setPort p x).acc d j = s.acc d j := rfl
@[simp] theorem State.setPort_read_offer (p : Port) (x : PortState) (d : Chan) : (s.setPort p x).offer d = s.offer d := rfl
@[simp] theorem State.setPort_read_tariff (p : Port) (x : PortState) (d : TClass) : (s.setPort p x).tariff d = s.tariff d := rfl
@[simp] theorem State.setPort_read_receiver (p : Port) (x : PortState) (n : Nat) : (s.setPort p x).receiver n = s.receiver n := rfl
@[simp] theorem State.setPort_read_hire (p : Port) (x : PortState) (n : Nat) : (s.setPort p x).hire? n = s.hire? n := rfl
@[simp] theorem State.setPort_running (p : Port) (x : PortState) : (s.setPort p x).running = s.running := rfl

/-! ## `setReceiver` -/

@[simp] theorem State.setReceiver_pending (i : Nat) (x : Receiver) : (s.setReceiver i x).pending = s.pending := rfl
@[simp] theorem State.setReceiver_supply (i : Nat) (x : Receiver) : (s.setReceiver i x).supply = s.supply := rfl
@[simp] theorem State.setReceiver_lineAsserted (i : Nat) (x : Receiver) : (s.setReceiver i x).lineAsserted = s.lineAsserted := rfl
@[simp] theorem State.setReceiver_heldStart (i : Nat) (x : Receiver) : (s.setReceiver i x).heldStart = s.heldStart := rfl
@[simp] theorem State.setReceiver_draws (i : Nat) (x : Receiver) : (s.setReceiver i x).draws = s.draws := rfl
@[simp] theorem State.setReceiver_breaks (i : Nat) (x : Receiver) : (s.setReceiver i x).breaks = s.breaks := rfl
@[simp] theorem State.setReceiver_clock (i : Nat) (x : Receiver) : (s.setReceiver i x).clock = s.clock := rfl
@[simp] theorem State.setReceiver_mark (i : Nat) (x : Receiver) : (s.setReceiver i x).mark = s.mark := rfl
@[simp] theorem State.setReceiver_gen (i : Nat) (x : Receiver) : (s.setReceiver i x).gen = s.gen := rfl
@[simp] theorem State.setReceiver_ret_slots (i : Nat) (x : Receiver) : (s.setReceiver i x).ret.slots = s.ret.slots := rfl
@[simp] theorem State.setReceiver_ret_plan (i : Nat) (x : Receiver) : (s.setReceiver i x).ret.plan = s.ret.plan := rfl
@[simp] theorem State.setReceiver_ret_dirSeq (i : Nat) (x : Receiver) : (s.setReceiver i x).ret.dirSeq = s.ret.dirSeq := rfl
@[simp] theorem State.setReceiver_ret_booths (i : Nat) (x : Receiver) : (s.setReceiver i x).ret.booths = s.ret.booths := rfl
@[simp] theorem State.setReceiver_ret_seatAcc (i : Nat) (x : Receiver) : (s.setReceiver i x).ret.seatAcc = s.ret.seatAcc := rfl
@[simp] theorem State.setReceiver_ret_receivers (i : Nat) (x : Receiver) : (s.setReceiver i x).ret.receivers = s.ret.receivers.put i x := rfl
@[simp] theorem State.setReceiver_ret_hallCode (i : Nat) (x : Receiver) : (s.setReceiver i x).ret.hallCode = s.ret.hallCode := rfl
@[simp] theorem State.setReceiver_ret_listeners (i : Nat) (x : Receiver) : (s.setReceiver i x).ret.listeners = s.ret.listeners := rfl
@[simp] theorem State.setReceiver_ret_peaks (i : Nat) (x : Receiver) : (s.setReceiver i x).ret.peaks = s.ret.peaks := rfl
@[simp] theorem State.setReceiver_ret_hires (i : Nat) (x : Receiver) : (s.setReceiver i x).ret.hires = s.ret.hires := rfl
@[simp] theorem State.setReceiver_ret_nextTicket (i : Nat) (x : Receiver) : (s.setReceiver i x).ret.nextTicket = s.ret.nextTicket := rfl
@[simp] theorem State.setReceiver_ret_tariffs (i : Nat) (x : Receiver) : (s.setReceiver i x).ret.tariffs = s.ret.tariffs := rfl
@[simp] theorem State.setReceiver_ret_accounts (i : Nat) (x : Receiver) : (s.setReceiver i x).ret.accounts = s.ret.accounts := rfl
@[simp] theorem State.setReceiver_ret_session (i : Nat) (x : Receiver) : (s.setReceiver i x).ret.session = s.ret.session := rfl
@[simp] theorem State.setReceiver_ret_counters (i : Nat) (x : Receiver) : (s.setReceiver i x).ret.counters = s.ret.counters := rfl
@[simp] theorem State.setReceiver_read_chan (i : Nat) (x : Receiver) (d : Chan) : (s.setReceiver i x).chan d = s.chan d := rfl
@[simp] theorem State.setReceiver_read_settings (i : Nat) (x : Receiver) (d : Chan) : (s.setReceiver i x).settings d = s.settings d := rfl
@[simp] theorem State.setReceiver_read_slot (i : Nat) (x : Receiver) (d : Slot) : (s.setReceiver i x).slot d = s.slot d := rfl
@[simp] theorem State.setReceiver_read_booth (i : Nat) (x : Receiver) (d : Booth) : (s.setReceiver i x).booth d = s.booth d := rfl
@[simp] theorem State.setReceiver_read_boothSettings (i : Nat) (x : Receiver) (d : Booth) : (s.setReceiver i x).boothSettings d = s.boothSettings d := rfl
@[simp] theorem State.setReceiver_read_seat (i : Nat) (x : Receiver) (d : Booth) (j : Seat) : (s.setReceiver i x).seat d j = s.seat d j := rfl
@[simp] theorem State.setReceiver_read_acc (i : Nat) (x : Receiver) (d : Booth) (j : Seat) : (s.setReceiver i x).acc d j = s.acc d j := rfl
@[simp] theorem State.setReceiver_read_offer (i : Nat) (x : Receiver) (d : Chan) : (s.setReceiver i x).offer d = s.offer d := rfl
@[simp] theorem State.setReceiver_read_port (i : Nat) (x : Receiver) (q : Port) : (s.setReceiver i x).port q = s.port q := rfl
@[simp] theorem State.setReceiver_read_tariff (i : Nat) (x : Receiver) (d : TClass) : (s.setReceiver i x).tariff d = s.tariff d := rfl
@[simp] theorem State.setReceiver_read_hire (i : Nat) (x : Receiver) (n : Nat) : (s.setReceiver i x).hire? n = s.hire? n := rfl
@[simp] theorem State.setReceiver_running (i : Nat) (x : Receiver) : (s.setReceiver i x).running = s.running := rfl

/-! ## `setHire` -/

@[simp] theorem State.setHire_pending (t : Nat) (x : Hire) : (s.setHire t x).pending = s.pending := rfl
@[simp] theorem State.setHire_supply (t : Nat) (x : Hire) : (s.setHire t x).supply = s.supply := rfl
@[simp] theorem State.setHire_lineAsserted (t : Nat) (x : Hire) : (s.setHire t x).lineAsserted = s.lineAsserted := rfl
@[simp] theorem State.setHire_heldStart (t : Nat) (x : Hire) : (s.setHire t x).heldStart = s.heldStart := rfl
@[simp] theorem State.setHire_draws (t : Nat) (x : Hire) : (s.setHire t x).draws = s.draws := rfl
@[simp] theorem State.setHire_breaks (t : Nat) (x : Hire) : (s.setHire t x).breaks = s.breaks := rfl
@[simp] theorem State.setHire_clock (t : Nat) (x : Hire) : (s.setHire t x).clock = s.clock := rfl
@[simp] theorem State.setHire_mark (t : Nat) (x : Hire) : (s.setHire t x).mark = s.mark := rfl
@[simp] theorem State.setHire_gen (t : Nat) (x : Hire) : (s.setHire t x).gen = s.gen := rfl
@[simp] theorem State.setHire_ret_slots (t : Nat) (x : Hire) : (s.setHire t x).ret.slots = s.ret.slots := rfl
@[simp] theorem State.setHire_ret_plan (t : Nat) (x : Hire) : (s.setHire t x).ret.plan = s.ret.plan := rfl
@[simp] theorem State.setHire_ret_dirSeq (t : Nat) (x : Hire) : (s.setHire t x).ret.dirSeq = s.ret.dirSeq := rfl
@[simp] theorem State.setHire_ret_booths (t : Nat) (x : Hire) : (s.setHire t x).ret.booths = s.ret.booths := rfl
@[simp] theorem State.setHire_ret_seatAcc (t : Nat) (x : Hire) : (s.setHire t x).ret.seatAcc = s.ret.seatAcc := rfl
@[simp] theorem State.setHire_ret_receivers (t : Nat) (x : Hire) : (s.setHire t x).ret.receivers = s.ret.receivers := rfl
@[simp] theorem State.setHire_ret_hallCode (t : Nat) (x : Hire) : (s.setHire t x).ret.hallCode = s.ret.hallCode := rfl
@[simp] theorem State.setHire_ret_listeners (t : Nat) (x : Hire) : (s.setHire t x).ret.listeners = s.ret.listeners := rfl
@[simp] theorem State.setHire_ret_peaks (t : Nat) (x : Hire) : (s.setHire t x).ret.peaks = s.ret.peaks := rfl
@[simp] theorem State.setHire_ret_hires (t : Nat) (x : Hire) : (s.setHire t x).ret.hires = s.ret.hires.put t x := rfl
@[simp] theorem State.setHire_ret_nextTicket (t : Nat) (x : Hire) : (s.setHire t x).ret.nextTicket = s.ret.nextTicket := rfl
@[simp] theorem State.setHire_ret_tariffs (t : Nat) (x : Hire) : (s.setHire t x).ret.tariffs = s.ret.tariffs := rfl
@[simp] theorem State.setHire_ret_accounts (t : Nat) (x : Hire) : (s.setHire t x).ret.accounts = s.ret.accounts := rfl
@[simp] theorem State.setHire_ret_session (t : Nat) (x : Hire) : (s.setHire t x).ret.session = s.ret.session := rfl
@[simp] theorem State.setHire_ret_counters (t : Nat) (x : Hire) : (s.setHire t x).ret.counters = s.ret.counters := rfl
@[simp] theorem State.setHire_read_chan (t : Nat) (x : Hire) (d : Chan) : (s.setHire t x).chan d = s.chan d := rfl
@[simp] theorem State.setHire_read_settings (t : Nat) (x : Hire) (d : Chan) : (s.setHire t x).settings d = s.settings d := rfl
@[simp] theorem State.setHire_read_slot (t : Nat) (x : Hire) (d : Slot) : (s.setHire t x).slot d = s.slot d := rfl
@[simp] theorem State.setHire_read_booth (t : Nat) (x : Hire) (d : Booth) : (s.setHire t x).booth d = s.booth d := rfl
@[simp] theorem State.setHire_read_boothSettings (t : Nat) (x : Hire) (d : Booth) : (s.setHire t x).boothSettings d = s.boothSettings d := rfl
@[simp] theorem State.setHire_read_seat (t : Nat) (x : Hire) (d : Booth) (j : Seat) : (s.setHire t x).seat d j = s.seat d j := rfl
@[simp] theorem State.setHire_read_acc (t : Nat) (x : Hire) (d : Booth) (j : Seat) : (s.setHire t x).acc d j = s.acc d j := rfl
@[simp] theorem State.setHire_read_offer (t : Nat) (x : Hire) (d : Chan) : (s.setHire t x).offer d = s.offer d := rfl
@[simp] theorem State.setHire_read_port (t : Nat) (x : Hire) (q : Port) : (s.setHire t x).port q = s.port q := rfl
@[simp] theorem State.setHire_read_tariff (t : Nat) (x : Hire) (d : TClass) : (s.setHire t x).tariff d = s.tariff d := rfl
@[simp] theorem State.setHire_read_receiver (t : Nat) (x : Hire) (n : Nat) : (s.setHire t x).receiver n = s.receiver n := rfl
@[simp] theorem State.setHire_running (t : Nat) (x : Hire) : (s.setHire t x).running = s.running := rfl

/-! ## Reading the item written -/

@[simp] theorem State.setChan_same (c : Chan) (x : ChanLive) : (s.setChan c x).chan c = x := Bank.get_set_same _ _ _
theorem State.setChan_chan (c d : Chan) (x : ChanLive) : (s.setChan c x).chan d = if c = d then x else s.chan d :=
  Bank.get_set _ _ _ _
@[simp] theorem State.setSettings_same (c : Chan) (x : ChanSettings) : (s.setSettings c x).settings c = x :=
  Bank.get_set_same _ _ _
theorem State.setSettings_settings (c d : Chan) (x : ChanSettings) :
    (s.setSettings c x).settings d = if c = d then x else s.settings d := Bank.get_set _ _ _ _
@[simp] theorem State.setSlot_same (k : Slot) (x : LangSlot) : (s.setSlot k x).slot k = x := Bank.get_set_same _ _ _
theorem State.setSlot_slot (k j : Slot) (x : LangSlot) : (s.setSlot k x).slot j = if k = j then x else s.slot j :=
  Bank.get_set _ _ _ _
@[simp] theorem State.setBooth_same (b : Booth) (x : BoothLive) : (s.setBooth b x).booth b = x :=
  Bank.get_set_same _ _ _
theorem State.setBooth_booth (b d : Booth) (x : BoothLive) :
    (s.setBooth b x).booth d = if b = d then x else s.booth d := Bank.get_set _ _ _ _
@[simp] theorem State.setBoothSettings_same (b : Booth) (x : Option BoothSettings) :
    (s.setBoothSettings b x).boothSettings b = x := Bank.get_set_same _ _ _
theorem State.setBoothSettings_boothSettings (b d : Booth) (x : Option BoothSettings) :
    (s.setBoothSettings b x).boothSettings d = if b = d then x else s.boothSettings d := Bank.get_set _ _ _ _
theorem State.setBooth_seat (b d : Booth) (x : BoothLive) (j : Seat) :
    (s.setBooth b x).seat d j = if b = d then x.seats.get j else s.seat d j := by
  unfold State.seat; rw [State.setBooth_booth]; split <;> rfl
@[simp] theorem State.setSeat_same (b : Booth) (k : Seat) (x : SeatState) : (s.setSeat b k x).seat b k = x := by
  simp [State.setSeat, State.seat]
theorem State.setSeat_seat (b d : Booth) (k j : Seat) (x : SeatState) :
    (s.setSeat b k x).seat d j = if b = d ∧ k = j then x else s.seat d j := by
  unfold State.setSeat
  rw [State.setBooth_seat]
  by_cases h : b = d
  · subst h; simp only [if_true, Bank.get_set, true_and]; rfl
  · simp [h]
@[simp] theorem State.setAcc_same (b : Booth) (k : Seat) (x : SeatAcc) : (s.setAcc b k x).acc b k = x := by
  simp [State.setAcc, State.acc]
theorem State.setAcc_acc (b d : Booth) (k j : Seat) (x : SeatAcc) :
    (s.setAcc b k x).acc d j = if b = d ∧ k = j then x else s.acc d j := by
  unfold State.setAcc State.acc
  simp only [Bank.get_set]
  by_cases h : b = d
  · subst h; simp only [if_true, Bank.get_set, true_and]
  · simp [h]
@[simp] theorem State.setOffer_same (c : Chan) (x : Option Offer) : (s.setOffer c x).offer c = x :=
  Bank.get_set_same _ _ _
theorem State.setOffer_offer (c d : Chan) (x : Option Offer) :
    (s.setOffer c x).offer d = if c = d then x else s.offer d := Bank.get_set _ _ _ _
@[simp] theorem State.setPort_same (p : Port) (x : PortState) : (s.setPort p x).port p = x :=
  PerPort.get_set_same _ _ _
theorem State.setPort_port (p q : Port) (x : PortState) :
    (s.setPort p x).port q = if p = q then x else s.port q := PerPort.get_set _ _ _ _
theorem State.setReceiver_receiver (i n : Nat) (x : Receiver) :
    (s.setReceiver i x).receiver n = if i = n then x else s.receiver n := by
  unfold State.receiver
  rw [State.setReceiver_ret_receivers, Table.find?_put]
  split <;> rfl
theorem State.setHire_hire (t n : Nat) (x : Hire) :
    (s.setHire t x).hire? n = if t = n then some x else s.hire? n := Table.find?_put _ _ _ _

/-! ## Writing what stands, and writing twice -/

@[simp] theorem State.setPort_self (p : Port) : s.setPort p (s.port p) = s := by
  unfold State.setPort State.port; rw [PerPort.set_get]
theorem State.setPort_setPort (p : Port) (x y : PortState) : (s.setPort p x).setPort p y = s.setPort p y := by
  unfold State.setPort; simp only [PerPort.set_set]
@[simp] theorem State.setChan_self (c : Chan) : s.setChan c (s.chan c) = s := by
  unfold State.setChan State.chan; rw [Bank.set_get]
@[simp] theorem State.setBooth_self (b : Booth) : s.setBooth b (s.booth b) = s := by
  unfold State.setBooth State.booth; rw [Bank.set_get]
theorem State.setBooth_setBooth (b : Booth) (x y : BoothLive) : (s.setBooth b x).setBooth b y = s.setBooth b y := by
  unfold State.setBooth; simp only [Bank.set_set]

/-! ## The queue -/

@[simp] theorem State.withPending_pending (q : List Instr) : (s.withPending q).pending = q := rfl
@[simp] theorem State.withPending_supply (q : List Instr) : (s.withPending q).supply = s.supply := rfl
@[simp] theorem State.withPending_lineAsserted (q : List Instr) : (s.withPending q).lineAsserted = s.lineAsserted := rfl
@[simp] theorem State.withPending_heldStart (q : List Instr) : (s.withPending q).heldStart = s.heldStart := rfl
@[simp] theorem State.withPending_draws (q : List Instr) : (s.withPending q).draws = s.draws := rfl
@[simp] theorem State.withPending_breaks (q : List Instr) : (s.withPending q).breaks = s.breaks := rfl
@[simp] theorem State.withPending_clock (q : List Instr) : (s.withPending q).clock = s.clock := rfl
@[simp] theorem State.withPending_mark (q : List Instr) : (s.withPending q).mark = s.mark := rfl
@[simp] theorem State.withPending_ret (q : List Instr) : (s.withPending q).ret = s.ret := rfl
@[simp] theorem State.withPending_gen (q : List Instr) : (s.withPending q).gen = s.gen := rfl

end Sys2Proof.Machine
end

