-- ==== Sys2Proof/Laws/Ports.lean ====
section
/-! SUPPORT. What answering a port and sending a notice can do: they write ports and nothing else. -/

namespace Sys2Proof.Machine
open Sys2Proof

/-- Everything but the ports is the same. -/
def SamePorts (s t : State) : Prop := t = { s with gen.ports := t.gen.ports }

namespace SamePorts
variable {s t u : State}

theorem refl (s : State) : SamePorts s s := rfl
theorem trans (h : SamePorts s t) (k : SamePorts t u) : SamePorts s u := by
  unfold SamePorts at *; rw [k, h]
theorem setPort (s : State) (p : Port) (x : PortState) : SamePorts s (s.setPort p x) := rfl
theorem pending (h : SamePorts s t) : t.pending = s.pending := congrArg (fun x => x.pending) h
theorem supply (h : SamePorts s t) : t.supply = s.supply := congrArg (fun x => x.supply) h
theorem lineAsserted (h : SamePorts s t) : t.lineAsserted = s.lineAsserted := congrArg (fun x => x.lineAsserted) h
theorem breaks (h : SamePorts s t) : t.breaks = s.breaks := congrArg (fun x => x.breaks) h
theorem clock (h : SamePorts s t) : t.clock = s.clock := congrArg (fun x => x.clock) h
theorem mark (h : SamePorts s t) : t.mark = s.mark := congrArg (fun x => x.mark) h
theorem ret (h : SamePorts s t) : t.ret = s.ret := congrArg (fun x => x.ret) h
theorem gen (h : SamePorts s t) : t.gen = { s.gen with ports := t.gen.ports } := congrArg (fun x => x.gen) h
theorem chans (h : SamePorts s t) : t.gen.chans = s.gen.chans := congrArg (fun x => x.gen.chans) h
theorem booths (h : SamePorts s t) : t.gen.booths = s.gen.booths := congrArg (fun x => x.gen.booths) h
theorem offers (h : SamePorts s t) : t.gen.offers = s.gen.offers := congrArg (fun x => x.gen.offers) h
theorem override (h : SamePorts s t) : t.gen.override = s.gen.override := congrArg (fun x => x.gen.override) h
theorem jobs (h : SamePorts s t) : t.gen.jobs = s.gen.jobs := congrArg (fun x => x.gen.jobs) h
theorem flight (h : SamePorts s t) : t.gen.flight = s.gen.flight := congrArg (fun x => x.gen.flight) h
theorem due (h : SamePorts s t) : t.gen.due = s.gen.due := congrArg (fun x => x.gen.due) h
theorem routeSending (h : SamePorts s t) : t.gen.routeSending = s.gen.routeSending :=
  congrArg (fun x => x.gen.routeSending) h
theorem routeList (h : SamePorts s t) : t.gen.routeList = s.gen.routeList := congrArg (fun x => x.gen.routeList) h
end SamePorts

theorem transmit_ports (p : Port) (f : TxFrame) (s : State) : SamePorts s (transmit p f s) := rfl
theorem answer_ports (p : Port) (tag : Byte) (a : Answer) (d : List Byte) (s : State) :
    SamePorts s (answer p tag a d s) := rfl

/-- What being held in reset leaves of each port. -/
@[simp] theorem State.stopped_port (s : State) (p : Port) :
    ({ s with gen := s.gen.stopped } : State).port p = (s.port p).stopped := by cases p <;> rfl
@[simp] theorem PortState.stopped_inProgress (k : PortState) : k.stopped.inProgress = none := rfl
@[simp] theorem PortState.stopped_transmit (k : PortState) : k.stopped.transmit = [] := rfl
@[simp] theorem PortState.stopped_framing (k : PortState) : k.stopped.framing = .between := rfl
@[simp] theorem PortState.stopped_urgent (k : PortState) : k.stopped.urgent = k.urgent := rfl
@[simp] theorem PortState.stopped_routine (k : PortState) : k.stopped.routine = k.routine := rfl

/-- What being held in reset leaves of the rest: the hall, with its offers, stands as it was, and no order or directory is
being sent. -/
theorem General.stopped_keeps (g : General) :
    g.stopped = { g with
      dirSending := none, dirPending := false, routeSending := none, routeList := [], cycle := .idle
      intakeFraming := .between, jobs := [], flight := none, ports := g.stopped.ports } := rfl

/-- What `finish` does: it answers the request in progress and ends it, or there is none. -/
theorem finish_cases (p : Port) (a : Answer) (d : List Byte) (s : State) :
    ((s.port p).inProgress = none ∧ finish p a d s = s) ∨
    (∃ r, (s.port p).inProgress = some r ∧
      finish p a d s = s.setPort p { s.port p with
        inProgress := none, transmit := (s.port p).transmit ++ [⟨r.tag, a, d⟩] }) := by
  unfold finish
  cases h : (s.port p).inProgress with
  | none => exact .inl ⟨rfl, rfl⟩
  | some r =>
    refine .inr ⟨r, rfl, ?_⟩
    simp [transmit, State.setPort_setPort]

theorem finish_ports (p : Port) (a : Answer) (d : List Byte) (s : State) : SamePorts s (finish p a d s) := by
  rcases finish_cases p a d s with ⟨_, h⟩ | ⟨_, _, h⟩ <;> rw [h] <;> rfl

theorem finish_other (p q : Port) (a : Answer) (d : List Byte) (s : State) (h : p ≠ q) :
    (finish p a d s).port q = s.port q := by
  rcases finish_cases p a d s with ⟨_, e⟩ | ⟨_, _, e⟩ <;> rw [e]
  rw [State.setPort_port, if_neg h]

/-- What one port's share of a notice does: a pending wait returns it; else it is queued. -/
theorem giveNotice_cases (p : Port) (n : Notice) (s : State) :
    (∃ c t w, (s.port p).inProgress = some ⟨c, t, some w⟩ ∧
      giveNotice p n s = s.setPort p { s.port p with
        overrun := false, inProgress := none
        transmit := (s.port p).transmit ++ [⟨t, .done, u8 w.applied ++ noticeBytes n (s.port p).overrun⟩] }) ∨
    ((∀ c t w, (s.port p).inProgress ≠ some ⟨c, t, some w⟩) ∧ giveNotice p n s = s.setPort p (enqueue n (s.port p))) := by
  unfold giveNotice
  split
  · next c t w h =>
    refine .inl ⟨c, t, w, h, ?_⟩
    unfold finish
    simp [h, transmit, State.setPort_setPort]
  · next h => exact .inr ⟨fun c t w e => h c t w e, rfl⟩

theorem giveNotice_ports (p : Port) (n : Notice) (s : State) : SamePorts s (giveNotice p n s) := by
  rcases giveNotice_cases p n s with ⟨_, _, _, _, h⟩ | ⟨_, h⟩ <;> rw [h] <;> exact .setPort _ _ _

theorem offerNotice_ports (n : Notice) (p : Port) (s : State) : SamePorts s (offerNotice n p s) := by
  unfold offerNotice; split
  · exact giveNotice_ports p n s
  · rfl

theorem notifyExcept_ports (skip : Option Port) (b : NoticeBody) (s : State) : SamePorts s (notifyExcept skip b s) := by
  unfold notifyExcept
  generalize [Port.console, .desk1, .desk2] = ps
  suffices h : ∀ (ps : List Port) (t : State), SamePorts t (ps.foldl
      (fun s p => if skip = some p then s else offerNotice ⟨s.clock, b⟩ p s) t) from h ps s
  intro ps
  induction ps with
  | nil => exact fun t => .refl t
  | cons p ps ih =>
    intro t
    simp only [List.foldl_cons]
    split
    · exact ih t
    · exact (offerNotice_ports _ p t).trans (ih _)

theorem notify_ports (b : NoticeBody) (s : State) : SamePorts s (notify b s) := notifyExcept_ports none b s

/-- One port's share of a notice leaves every other port alone. -/
theorem offerNotice_other (n : Notice) (p q : Port) (s : State) (h : p ≠ q) :
    (offerNotice n p s).port q = s.port q := by
  unfold offerNotice
  split
  · rcases giveNotice_cases p n s with ⟨_, _, _, _, e⟩ | ⟨_, e⟩ <;> rw [e, State.setPort_port, if_neg h]
  · rfl

theorem endWait_cases (p : Port) (a : Answer) (s : State) :
    (∃ c t w, (s.port p).inProgress = some ⟨c, t, some w⟩ ∧
      endWait p a s = s.setPort p { s.port p with
        inProgress := none, transmit := (s.port p).transmit ++ [⟨t, a, u8 w.applied⟩] }) ∨
    ((∀ c t w, (s.port p).inProgress ≠ some ⟨c, t, some w⟩) ∧ endWait p a s = s) := by
  unfold endWait
  split
  · next c t w h =>
    refine .inl ⟨c, t, w, h, ?_⟩
    unfold finish
    simp [h, transmit, State.setPort_setPort]
  · next h => exact .inr ⟨fun c t w e => h c t w e, rfl⟩

theorem endWait_ports (p : Port) (a : Answer) (s : State) : SamePorts s (endWait p a s) := by
  rcases endWait_cases p a s with ⟨_, _, _, _, h⟩ | ⟨_, h⟩ <;> rw [h] <;> rfl

end Sys2Proof.Machine
end

