-- ==== Sys2Proof/Laws/Lines.lean ====
section
/-! SUPPORT. What placing a route order and updating the directory can do. -/

namespace Sys2Proof.Machine
open Sys2Proof

/-! ## The route line (R33) -/

/-- Everything but the route line is the same. -/
def SameRoutes (s t : State) : Prop :=
  t = { s with gen.routeSending := t.gen.routeSending, gen.routeList := t.gen.routeList }

theorem SameRoutes.refl (s : State) : SameRoutes s s := rfl
theorem SameRoutes.trans {s t u : State} (h : SameRoutes s t) (k : SameRoutes t u) : SameRoutes s u := by
  unfold SameRoutes at *; rw [k, h]

theorem sameSubject_symm (a b : RouteOrder) : sameSubject a b = sameSubject b a := by
  cases a <;> cases b <;> simp [sameSubject, Bool.beq_comm]

theorem sameSubject_trans {a b c : RouteOrder} (h : sameSubject a b = true) : sameSubject a c = sameSubject b c := by
  cases a <;> cases b <;> simp [sameSubject] at h <;> subst h <;> cases c <;> rfl

/-- What an idle or busy line does with its list. -/
theorem routeBegin_cases (s : State) :
    (s.gen.routeSending = none ∧ ∃ o rest, s.gen.routeList = o :: rest ∧
      routeBegin s = { s with gen.routeSending := some o, gen.routeList := rest }) ∨
    ((s.gen.routeSending ≠ none ∨ s.gen.routeList = []) ∧ routeBegin s = s) := by
  unfold routeBegin
  split
  · next o rest h1 h2 => exact .inl ⟨h1, o, rest, h2, rfl⟩
  · next h =>
    refine .inr ⟨?_, rfl⟩
    by_cases h1 : s.gen.routeSending = none
    · cases h2 : s.gen.routeList with
      | nil => exact .inr rfl
      | cons o rest => exact absurd h2 (h o rest h1)
    · exact .inl h1

theorem routeBegin_routes (s : State) : SameRoutes s (routeBegin s) := by
  rcases routeBegin_cases s with ⟨_, _, _, _, h⟩ | ⟨_, h⟩ <;> rw [h] <;> rfl

theorem placeOrder_routes (o : RouteOrder) (s : State) : SameRoutes s (placeOrder o s) :=
  SameRoutes.trans (t := { s with gen.routeList := placeUnsent o s.gen.routeList }) rfl (routeBegin_routes _)

/-- The order placed is among the unsent ones; every other one was there before, with another subject. -/
theorem mem_placeUnsent (o x : RouteOrder) (l : List RouteOrder) (h : x ∈ placeUnsent o l) : x = o ∨ x ∈ l := by
  induction l with
  | nil => simpa [placeUnsent] using h
  | cons y l ih =>
    unfold placeUnsent at h
    split at h
    · rcases List.mem_cons.mp h with h | h
      · exact .inl h
      · exact .inr (List.mem_cons_of_mem _ h)
    · rcases List.mem_cons.mp h with h | h
      · exact .inr (h ▸ List.mem_cons_self)
      · exact (ih h).imp id (List.mem_cons_of_mem _)

theorem placeUnsent_mem (o : RouteOrder) (l : List RouteOrder) : o ∈ placeUnsent o l := by
  induction l with
  | nil => simp [placeUnsent]
  | cons y l ih =>
    unfold placeUnsent
    split
    · exact List.mem_cons_self
    · exact List.mem_cons_of_mem _ ih

/-- Placing an order keeps one unsent order at most for each subject. -/
theorem placeUnsent_once (o : RouteOrder) (l : List RouteOrder)
    (h : l.Pairwise (fun a b => sameSubject a b = false)) :
    (placeUnsent o l).Pairwise (fun a b => sameSubject a b = false) := by
  induction l with
  | nil => simp [placeUnsent]
  | cons y l ih =>
    have hy := List.pairwise_cons.mp h
    unfold placeUnsent
    split
    · next e =>
      refine List.pairwise_cons.mpr ⟨fun b hb => ?_, hy.2⟩
      rw [← sameSubject_trans e]; exact hy.1 b hb
    · next e =>
      refine List.pairwise_cons.mpr ⟨fun b hb => ?_, ih hy.2⟩
      rcases mem_placeUnsent o b l hb with hb | hb
      · subst hb; simpa using e
      · exact hy.1 b hb

/-- An order whose subject no unsent order has joins the end. -/
theorem placeUnsent_fresh (o : RouteOrder) (l : List RouteOrder) (h : ∀ x ∈ l, sameSubject x o = false) :
    placeUnsent o l = l ++ [o] := by
  induction l with
  | nil => rfl
  | cons y l ih =>
    unfold placeUnsent
    rw [if_neg (by simp [h y List.mem_cons_self]), ih (fun x hx => h x (List.mem_cons_of_mem _ hx))]
    rfl

theorem routeAfter_routes (b : State) (c : Chan) (s : State) : SameRoutes s (routeAfter b c s) := by
  unfold routeAfter; split
  · rfl
  · exact placeOrder_routes _ s

/-! ## The directory line (R31, R32) -/

/-- Everything but the directory line and the directory sequence is the same. -/
def SameDirectory (s t : State) : Prop :=
  t = { s with
    ret.dirSeq := t.ret.dirSeq, gen.dirSending := t.gen.dirSending, gen.dirPending := t.gen.dirPending
    gen.dirCount := t.gen.dirCount }

theorem SameDirectory.refl (s : State) : SameDirectory s s := rfl

theorem dirDue_cases (s : State) :
    (s.gen.dirSending = none ∧ dirDue s = dirBegin s) ∨
    (s.gen.dirSending ≠ none ∧ dirDue s = { s with gen.dirPending := true }) := by
  unfold dirDue
  cases h : s.gen.dirSending <;> simp

/-- What the end of an event does: nothing where the content stands, else one advance of the sequence and one send
due. -/
theorem dirAfter_cases (b s : State) :
    (dirContent s = dirContent b ∧ dirAfter b s = s) ∨
    (dirContent s ≠ dirContent b ∧
      dirAfter b s = dirDue { s with ret.dirSeq := wrapNext Config.smallMax s.ret.dirSeq }) := by
  unfold dirAfter; split
  · next h => exact .inl ⟨h, rfl⟩
  · next h => exact .inr ⟨h, rfl⟩

theorem dirAfter_directory (b s : State) : SameDirectory s (dirAfter b s) := by
  rcases dirAfter_cases b s with ⟨_, h⟩ | ⟨_, h⟩ <;> rw [h]
  · rfl
  · rcases dirDue_cases { s with ret.dirSeq := wrapNext Config.smallMax s.ret.dirSeq } with ⟨_, h⟩ | ⟨_, h⟩ <;>
      rw [h] <;> rfl

/-- The content of the directory is read from coverage, the plan, the slots and the override alone. -/
theorem dirContent_congr {s t : State} (hc : t.gen.chans = s.gen.chans) (hp : t.ret.plan = s.ret.plan)
    (hs : t.ret.slots = s.ret.slots) (ho : t.gen.override = s.gen.override) : dirContent t = dirContent s := by
  unfold dirContent dirEntry State.settings State.chan State.slot
  rw [hc, hp, hs, ho]

end Sys2Proof.Machine
end

