-- ==== Sys2Proof/Laws/Moves.lean ====
section
/-! SUPPORT. The moves of the plan unit and the booth unit: every operation of their events is a run of six kinds of
move, so that what a move keeps, every operation keeps. -/

namespace Sys2Proof.Machine
open Sys2Proof

/-- `t` is reached from `s` by writes to live channels, live booths, seat accumulators and offers, by placing route
orders, and by giving notices. -/
inductive Moves (s : State) : State → Prop where
  | refl : Moves s s
  | chan {t : State} (c : Chan) (x : ChanLive) : Moves s t → Moves s (t.setChan c x)
  | booth {t : State} (b : Booth) (x : BoothLive) : Moves s t → Moves s (t.setBooth b x)
  | acc {t : State} (b : Booth) (k : Seat) (x : SeatAcc) : Moves s t → Moves s (t.setAcc b k x)
  | offer {t : State} (c : Chan) (x : Option Offer) : Moves s t → Moves s (t.setOffer c x)
  | order {t : State} (o : RouteOrder) : Moves s t → Moves s (placeOrder o t)
  | notice {t : State} (n : Notice) (p : Port) : Moves s t → Moves s (offerNotice n p t)

namespace Moves
variable {s t u : State}

theorem trans (h : Moves s t) (k : Moves t u) : Moves s u := by
  induction k with
  | refl => exact h
  | chan c x _ ih => exact .chan c x ih
  | booth b x _ ih => exact .booth b x ih
  | acc b k x _ ih => exact .acc b k x ih
  | offer c x _ ih => exact .offer c x ih
  | order o _ ih => exact .order o ih
  | notice n p _ ih => exact .notice n p ih

/-- A move changes the live channels and booths, the offers, the route line, the ports and the seat accumulators, and
nothing else. -/
theorem keeps (h : Moves s t) :
    t = { s with
      ret.seatAcc := t.ret.seatAcc, gen.chans := t.gen.chans, gen.booths := t.gen.booths, gen.offers := t.gen.offers
      gen.routeSending := t.gen.routeSending, gen.routeList := t.gen.routeList, gen.ports := t.gen.ports } := by
  induction h with
  | refl => rfl
  | chan c x _ ih => rw [ih]; rfl
  | booth b x _ ih => rw [ih]; rfl
  | acc b k x _ ih => rw [ih]; rfl
  | offer c x _ ih => rw [ih]; rfl
  | order o _ ih => rw [placeOrder_routes o _, ih]
  | notice n p _ ih => rw [offerNotice_ports n p _, ih]

theorem pending (h : Moves s t) : t.pending = s.pending := by rw [h.keeps]
theorem supply (h : Moves s t) : t.supply = s.supply := by rw [h.keeps]
theorem lineAsserted (h : Moves s t) : t.lineAsserted = s.lineAsserted := by rw [h.keeps]
theorem heldStart (h : Moves s t) : t.heldStart = s.heldStart := by rw [h.keeps]
theorem draws (h : Moves s t) : t.draws = s.draws := by rw [h.keeps]
theorem breaks (h : Moves s t) : t.breaks = s.breaks := by rw [h.keeps]
theorem clock (h : Moves s t) : t.clock = s.clock := by rw [h.keeps]
theorem mark (h : Moves s t) : t.mark = s.mark := by rw [h.keeps]
theorem ret (h : Moves s t) : t.ret = { s.ret with seatAcc := t.ret.seatAcc } := by rw [h.keeps]
theorem override (h : Moves s t) : t.gen.override = s.gen.override := by rw [h.keeps]
theorem dirSending (h : Moves s t) : t.gen.dirSending = s.gen.dirSending := by rw [h.keeps]
theorem dirPending (h : Moves s t) : t.gen.dirPending = s.gen.dirPending := by rw [h.keeps]
theorem dirCount (h : Moves s t) : t.gen.dirCount = s.gen.dirCount := by rw [h.keeps]
theorem scanPos (h : Moves s t) : t.gen.scanPos = s.gen.scanPos := by rw [h.keeps]
theorem cycle (h : Moves s t) : t.gen.cycle = s.gen.cycle := by rw [h.keeps]
theorem intake (h : Moves s t) : t.gen.intake = s.gen.intake := by rw [h.keeps]
theorem jobs (h : Moves s t) : t.gen.jobs = s.gen.jobs := by rw [h.keeps]
theorem flight (h : Moves s t) : t.gen.flight = s.gen.flight := by rw [h.keeps]
theorem snapshot (h : Moves s t) : t.gen.snapshot = s.gen.snapshot := by rw [h.keeps]
theorem start (h : Moves s t) : t.gen.start = s.gen.start := by rw [h.keeps]
theorem due (h : Moves s t) : t.gen.due = s.gen.due := by rw [h.keeps]
theorem running (h : Moves s t) : t.running = s.running := by rw [h.keeps]; rfl
theorem settings (h : Moves s t) (c : Chan) : t.settings c = s.settings c := by rw [h.keeps]; rfl
theorem slot (h : Moves s t) (k : Slot) : t.slot k = s.slot k := by rw [h.keeps]; rfl
theorem boothSettings (h : Moves s t) (b : Booth) : t.boothSettings b = s.boothSettings b := by rw [h.keeps]; rfl

/-- A run of moves over a list is a move. -/
theorem foldl {α : Type} (f : State → α → State) (hf : ∀ t a, Moves t (f t a)) (l : List α) (t : State) :
    Moves t (l.foldl f t) := by
  induction l generalizing t with
  | nil => exact .refl
  | cons a l ih => exact (hf t a).trans (ih (f t a))

end Moves

/-! ## The operations -/

theorem setSeat_moves (b : Booth) (k : Seat) (x : SeatState) (s : State) : Moves s (s.setSeat b k x) :=
  .booth b _ .refl
theorem notifyExcept_moves (skip : Option Port) (n : NoticeBody) (s : State) : Moves s (notifyExcept skip n s) := by
  unfold notifyExcept
  refine Moves.foldl _ (fun t p => ?_) _ s
  split
  · exact .refl
  · exact .notice _ p .refl
theorem notify_moves (n : NoticeBody) (s : State) : Moves s (notify n s) := notifyExcept_moves none n s
theorem routeAfter_moves (b : State) (c : Chan) (s : State) : Moves s (routeAfter b c s) := by
  unfold routeAfter; split
  · exact .refl
  · exact .order _ .refl
theorem setListen_moves (b : Booth) (x y : Listen) (h : Bool) (s : State) : Moves s (setListen b x y h s) := by
  unfold setListen; simp only; split
  · exact .booth b _ .refl
  · exact .order _ (.booth b _ .refl)
theorem chooseListen_moves (b : Booth) (x : Listen) (s : State) : Moves s (chooseListen b x s) := by
  unfold chooseListen; split <;> exact setListen_moves ..
theorem followOne_moves (r : Chan) (s : State) (b : Booth) : Moves s (followOne r s b) := by
  unfold followOne; split
  · simp only; split
    · exact (chooseListen_moves ..).trans (notify_moves ..)
    · exact chooseListen_moves ..
  · exact .refl
theorem relayFollow_moves (r : Chan) (s : State) : Moves s (relayFollow r s) :=
  Moves.foldl _ (fun t b => followOne_moves r t b) _ s
theorem relayUnassigned_moves (r : Chan) (s : State) : Moves s (relayUnassigned r s) := by
  refine Moves.foldl _ (fun t b => ?_) _ s
  split
  · exact chooseListen_moves ..
  · exact .refl
theorem coverageChange_moves (c : Chan) (x : ChanLive) (f : State → State) (hf : ∀ t, Moves t (f t)) (s : State) :
    Moves s (coverageChange c x f s) :=
  (((Moves.refl.chan c x).trans (routeAfter_moves s c _)).trans (hf _)).trans (relayFollow_moves c _)
theorem uncover_moves (c : Chan) (s : State) : Moves s (uncover c s) := by
  unfold uncover
  exact coverageChange_moves _ _ _ (fun t => notify_moves _ t) s
theorem enterHolding_moves (c : Chan) (x : Source) (s : State) : Moves s (enterHolding c x s) := by
  unfold enterHolding; simp only; split
  · exact (coverageChange_moves _ _ _ (fun _ => .refl) s).trans (uncover_moves ..)
  · exact coverageChange_moves _ _ _ (fun _ => .refl) s
theorem turnStart_moves (c : Chan) (h : Holder) (s : State) : Moves s (turnStart c h s) := by
  unfold turnStart
  refine coverageChange_moves _ _ _ (fun t => ?_) s
  split
  · exact notify_moves ..
  · exact .refl
theorem holderChange_moves (c : Chan) (h : Holder) (s : State) : Moves s (holderChange c h s) :=
  (Moves.refl.chan c _).trans (routeAfter_moves s c _)
theorem turnEnd_moves (c : Chan) (s : State) : Moves s (turnEnd c s) := enterHolding_moves ..
theorem indicate_moves (b : Booth) (i : Option Indication) (s : State) : Moves s (indicate b i s) := .booth b _ .refl
theorem syncMute_moves (b : Booth) (s : State) : Moves s (syncMute b s) := by
  unfold syncMute; simp only; split
  · exact .refl
  · exact .order _ (.booth b _ .refl)
theorem putSeat_moves (b : Booth) (k : Seat) (x : SeatState) (s : State) : Moves s (putSeat b k x s) :=
  (setSeat_moves b k x s).trans (syncMute_moves b _)
theorem goLive_moves (b : Booth) (k : Seat) (s : State) : Moves s (goLive b k s) :=
  (Moves.refl.acc b k _).trans (putSeat_moves b k _ _)
theorem passOffer_moves (c : Chan) (o : Offer) (m : Manner) (s : State) : Moves s (passOffer c o m s) :=
  (((Moves.refl.offer c none).trans (goLive_moves ..)).trans (holderChange_moves ..)).trans (notify_moves ..)
theorem settleChan_moves (c : Chan) (m : Manner) (s : State) : Moves s (settleChan c m s) := by
  unfold settleChan; split
  · exact passOffer_moves ..
  · exact turnEnd_moves ..
theorem withdrawOffer_moves (c : Chan) (s : State) : Moves s (withdrawOffer c s) := by
  unfold withdrawOffer; split
  · exact (Moves.refl.offer c none).trans (putSeat_moves ..)
  · exact .refl
theorem withdrawAll_moves (b : Booth) (s : State) : Moves s (withdrawAll b s) :=
  Moves.foldl _ (fun t c => withdrawOffer_moves c t) _ s
theorem endTurn_moves (b : Booth) (k : Seat) (c : Chan) (m : Manner) (s : State) : Moves s (endTurn b k c m s) :=
  (putSeat_moves b k .off s).trans (settleChan_moves ..)
theorem cutTurn_moves (b : Booth) (k : Seat) (c : Chan) (s : State) : Moves s (cutTurn b k c s) :=
  (endTurn_moves b k c _ s).trans (indicate_moves ..)
theorem claimLast_moves (c : Chan) (x h : Holder) (s : State) : Moves s (claimLast c x h s) := by
  unfold claimLast
  refine Moves.trans (t := indicate x.booth (some .cut) (putSeat x.booth x.seat .off s))
    ((putSeat_moves ..).trans (indicate_moves ..)) ?_
  simp only
  split
  · exact holderChange_moves ..
  · exact ((((passOffer_moves ..).trans (putSeat_moves ..)).trans (indicate_moves ..))).trans (holderChange_moves ..)
theorem seatLoss_moves (b : Booth) (s : State) : Moves s (seatLoss b s) := by
  unfold seatLoss
  refine (withdrawAll_moves b s).trans ?_
  simp only
  split
  · exact ((endTurn_moves ..).booth b _).trans (syncMute_moves b _)
  · exact (Moves.refl.booth b _).trans (syncMute_moves b _)
theorem claimSeat_moves (b : Booth) (k : Seat) (c : Chan) (s : State) : Moves s (claimSeat b k c s) := by
  unfold claimSeat
  split
  · exact indicate_moves ..
  · split
    · exact indicate_moves ..
    · exact (claimLast_moves ..).trans (goLive_moves ..)
    · split
      · exact indicate_moves ..
      · exact (Moves.refl.offer c _).trans (putSeat_moves ..)
  · exact (goLive_moves ..).trans (turnStart_moves ..)
theorem directHandover_moves (b : Booth) (h k : Seat) (c : Chan) (s : State) : Moves s (directHandover b h k c s) :=
  ((((putSeat_moves ..).trans (goLive_moves ..)).offer c _).trans (holderChange_moves ..)).trans (notify_moves ..)
theorem inBoothRequest_moves (b : Booth) (m : BoothSettings) (h k : Seat) (c : Chan) (s : State) :
    Moves s (inBoothRequest b m h k c s) := by
  unfold inBoothRequest
  split
  · exact directHandover_moves ..
  · split
    · exact indicate_moves ..
    · exact (Moves.refl.offer c _).trans (putSeat_moves ..)
theorem seatOnEvent_moves (b : Booth) (m : BoothSettings) (k : Seat) (s : State) : Moves s (seatOnEvent b m k s) := by
  unfold seatOnEvent
  split
  · simp only; split
    · exact claimSeat_moves ..
    · exact inBoothRequest_moves ..
  · exact .refl
theorem seatOffEvent_moves (b : Booth) (m : BoothSettings) (k : Seat) (s : State) : Moves s (seatOffEvent b m k s) := by
  unfold seatOffEvent
  split
  · exact .refl
  · split
    · exact withdrawOffer_moves ..
    · exact putSeat_moves ..
  · exact endTurn_moves ..
theorem coughDownEvent_moves (b : Booth) (m : BoothSettings) (k : Seat) (s : State) :
    Moves s (coughDownEvent b m k s) := by
  unfold coughDownEvent; split
  · exact putSeat_moves ..
  · exact .refl
theorem coughUpEvent_moves (b : Booth) (m : BoothSettings) (k : Seat) (s : State) : Moves s (coughUpEvent b m k s) := by
  unfold coughUpEvent; split
  · exact putSeat_moves ..
  · exact .refl
theorem giveEvent_moves (b : Booth) (m : BoothSettings) (k : Seat) (s : State) : Moves s (giveEvent b m k s) := by
  unfold giveEvent; simp only; split
  · split
    · exact endTurn_moves ..
    · exact .refl
  · exact .refl
theorem select_moves (b : Booth) (y : Side) (s : State) : Moves s (select b y s) := .booth b _ .refl
theorem leaveChan_moves (b : Booth) (c : Chan) (s : State) : Moves s (leaveChan b c s) := by
  unfold leaveChan
  split
  · split
    · exact ((withdrawOffer_moves ..).trans (indicate_moves ..)).trans (turnEnd_moves ..)
    · exact passOffer_moves ..
  · exact turnEnd_moves ..
theorem outputSwitch_moves (b : Booth) (k : Seat) (c d : Chan) (y : Side) (s : State) :
    Moves s (outputSwitch b k c d y s) := by
  unfold outputSwitch
  split
  · exact indicate_moves ..
  · split
    · exact ((claimLast_moves ..).trans (select_moves ..)).trans (leaveChan_moves ..)
    · exact indicate_moves ..
  · exact ((turnStart_moves ..).trans (select_moves ..)).trans (leaveChan_moves ..)
theorem outputSelectEvent_moves (b : Booth) (m : BoothSettings) (y : Side) (s : State) :
    Moves s (outputSelectEvent b m y s) := by
  unfold outputSelectEvent
  split
  · exact .refl
  · split
    · exact outputSwitch_moves ..
    · split
      · exact select_moves ..
      · exact ((select_moves ..).trans (withdrawAll_moves ..)).trans (indicate_moves ..)
theorem relaySelectEvent_moves (b : Booth) (m : BoothSettings) (x : Option Listen) (s : State) :
    Moves s (relaySelectEvent b m x s) := by
  unfold relaySelectEvent
  split
  · exact indicate_moves ..
  · split
    · exact indicate_moves ..
    · exact chooseListen_moves ..
theorem relayUnproduced_moves (s : State) : Moves s (relayUnproduced s) := by
  unfold relayUnproduced
  refine Moves.foldl _ (fun t b => ?_) _ s
  split
  · split
    · exact .refl
    · exact chooseListen_moves ..
  · exact .refl
theorem lapse_moves (c : Chan) (o : Offer) (s : State) : Moves s (lapse c o s) :=
  (((Moves.refl.offer c none).trans (putSeat_moves ..)).trans (indicate_moves ..)).trans (notify_moves ..)
theorem expireOffer_moves (c : Chan) (o : Offer) (s : State) : Moves s (expireOffer c o s) := by
  unfold expireOffer; split
  · exact endTurn_moves ..
  · exact lapse_moves ..
theorem becomeAbsent_moves (b : Booth) (m : MissCause) (s : State) : Moves s (becomeAbsent b m s) :=
  ((Moves.refl.booth b _).trans (notify_moves ..)).trans (seatLoss_moves ..)
theorem miss_moves (b : Booth) (m : MissCause) (s : State) : Moves s (miss b m s) := by
  unfold miss; simp only; split
  · split
    · exact .booth b _ .refl
    · exact becomeAbsent_moves ..
  · exact .refl

end Sys2Proof.Machine
end

