-- ==== Sys2Proof/Laws/Books.lean ====
section
/-! SUPPORT. The entries of the receiver register and the hire table: every operation of theirs is a run of five kinds
of entry. -/

namespace Sys2Proof.Machine
open Sys2Proof

/-- `t` is reached from `s` by writing receiver records, hires, listener counts, peaks and the count of hires opened,
and by giving notices. -/
inductive Books (s : State) : State → Prop where
  | refl : Books s s
  | receiver {t : State} (n : Nat) (r : Receiver) : Books s t → Books s (t.setReceiver n r)
  | hire {t : State} (k : Nat) (h : Hire) : Books s t → Books s (t.setHire k h)
  | counts {t : State} (x y : Bank Nat 32) : Books s t → Books s { t with ret.listeners := x, ret.peaks := y }
  | notice {t : State} (n : Notice) (p : Port) : Books s t → Books s (offerNotice n p t)

namespace Books
variable {s t u : State}

theorem trans (h : Books s t) (k : Books t u) : Books s u := by
  induction k with
  | refl => exact h
  | receiver n r _ ih => exact .receiver n r ih
  | hire k h _ ih => exact .hire k h ih
  | counts x y _ ih => exact .counts x y ih
  | notice n p _ ih => exact .notice n p ih

/-- An entry changes receiver records, hires, listener counts, peaks and the ports, and nothing else. -/
theorem keeps (h : Books s t) :
    t = { s with
      ret.receivers := t.ret.receivers, ret.hires := t.ret.hires, ret.listeners := t.ret.listeners
      ret.peaks := t.ret.peaks, gen.ports := t.gen.ports } := by
  induction h with
  | refl => rfl
  | receiver n r _ ih => rw [ih]; rfl
  | hire k h _ ih => rw [ih]; rfl
  | counts x y _ ih => rw [ih]
  | notice n p _ ih => rw [offerNotice_ports n p _, ih]

theorem pending (h : Books s t) : t.pending = s.pending := by rw [h.keeps]
theorem clock (h : Books s t) : t.clock = s.clock := by rw [h.keeps]
theorem slots (h : Books s t) : t.ret.slots = s.ret.slots := by rw [h.keeps]
theorem plan (h : Books s t) : t.ret.plan = s.ret.plan := by rw [h.keeps]
theorem accounts (h : Books s t) : t.ret.accounts = s.ret.accounts := by rw [h.keeps]
theorem tariffs (h : Books s t) : t.ret.tariffs = s.ret.tariffs := by rw [h.keeps]
theorem gen (h : Books s t) : t.gen = { s.gen with ports := t.gen.ports } := by rw [h.keeps]
theorem running (h : Books s t) : t.running = s.running := by rw [h.keeps]; rfl

theorem foldl {α : Type} (f : State → α → State) (hf : ∀ t a, Books t (f t a)) (l : List α) (t : State) :
    Books t (l.foldl f t) := by
  induction l generalizing t with
  | nil => exact .refl
  | cons a l ih => exact (hf t a).trans (ih (f t a))

end Books

theorem notifyExcept_books (skip : Option Port) (n : NoticeBody) (s : State) : Books s (notifyExcept skip n s) := by
  unfold notifyExcept
  refine Books.foldl _ (fun t p => ?_) _ s
  split
  · exact .refl
  · exact .notice _ p .refl
theorem notify_books (n : NoticeBody) (s : State) : Books s (notify n s) := notifyExcept_books none n s
theorem addCredit_books (k : HireLink) (secs : Nat) (s : State) : Books s (addCredit k secs s) := by
  unfold addCredit; split
  · exact .hire _ _ .refl
  · exact .refl
theorem closeCredit_books (n : Nat) (s : State) : Books s (closeCredit n s) := by
  unfold closeCredit; simp only; split
  · exact .refl
  · next tune _ =>
    split
    · next link _ =>
      exact .counts _ _ (.receiver n { s.receiver n with tuned := none }
        (addCredit_books link ((s.slot tune.slot).u - tune.mark) s))
    · exact .counts _ _ (.receiver n { s.receiver n with tuned := none } .refl)
theorem openCredit_books (n : Nat) (b : Slot) (s : State) : Books s (openCredit n b s) := by
  unfold openCredit
  exact .counts _ _ (.receiver n { s.receiver n with tuned := some ⟨b, (s.slot b).u⟩ } .refl)
theorem slotLeaves_books (k : Slot) (s : State) : Books s (slotLeaves k s) := by
  unfold slotLeaves
  refine .counts _ _ (Books.foldl (fun (s : State) (e : Nat × Receiver) =>
    if e.2.state = .hired ∧ e.2.tuned.map Tuning.slot = some k then closeCredit e.1 s else s) (fun t e => ?_) _ s)
  split
  · exact closeCredit_books ..
  · exact .refl
theorem retune_books (n : Nat) (l : Option Slot) (s : State) : Books s (retune n l s) := by
  unfold retune; split
  · exact .refl
  · simp only; split
    · exact closeCredit_books ..
    · exact (closeCredit_books ..).trans (openCredit_books ..)
theorem takeReport_books (p : Report) (s : State) : Books s (takeReport p s) := by
  unfold takeReport; simp only; split
  · split
    · split
      · exact ((Books.refl.receiver _ _).trans (notify_books ..)).trans (retune_books ..)
      · exact (Books.refl.receiver _ _).trans (retune_books ..)
    · split
      · exact .receiver _ _ .refl
      · exact (Books.refl.receiver _ _).trans (notify_books ..)
    · split
      · exact .receiver _ _ .refl
      · exact (Books.refl.receiver _ _).trans (notify_books ..)
    · exact .refl
  · exact .refl
theorem endLine_books (n : Nat) (k : HireLink) (x : LineState) (s : State) : Books s (endLine n k x s) := by
  unfold endLine; simp only; split
  · exact closeCredit_books ..
  · exact .hire _ _ (closeCredit_books ..)
theorem becomeOverdue_books (t : Nat) (h : Hire) (s : State) : Books s (becomeOverdue t h s) :=
  (Books.refl.hire _ _).trans (notify_books ..)
theorem dueAlarm_books (s : State) : Books s (dueAlarm s) := by
  unfold dueAlarm
  refine Books.foldl _ (fun t e => ?_) _ s
  split
  · exact becomeOverdue_books ..
  · exact .refl
theorem enrol_books (n : Half) (x : Word) (s : State) : Books s (enrol n x s).2 := by
  unfold enrol; split
  · exact .refl
  · split
    · exact .refl
    · exact .receiver _ _ .refl
theorem withdraw_books (n : Half) (s : State) : Books s (withdraw n s).2 := by
  unfold withdraw; split
  · exact .refl
  · simp only; split
    · exact .receiver _ _ .refl
    · exact .refl
theorem reinstate_books (n : Half) (s : State) : Books s (reinstate n s).2 := by
  unfold reinstate; split
  · exact .refl
  · simp only; split
    · split
      · exact .refl
      · exact .receiver _ _ .refl
    · exact .refl
theorem clearFlags_books (n : Half) (s : State) : Books s (clearFlags n s).2 := by
  unfold clearFlags; split
  · exact .refl
  · simp only; split
    · exact .receiver _ _ .refl
    · exact .refl
theorem issueReceiver_books (t n : Half) (s : State) : Books s (issueReceiver t n s).2.2 := by
  unfold issueReceiver; split
  · split
    · exact .refl
    · simp only; split <;> first | exact .refl | skip
      split
      · exact .refl
      · exact .receiver _ _ (.hire _ _ .refl)
  · exact .refl
theorem returnOf_books (p : Port) (n : Half) (s : State) : Books s (returnOf p n s).2.2 := by
  unfold returnOf; split
  · exact .refl
  · simp only; split <;> first | exact .refl | skip
    · exact .receiver _ _ (endLine_books ..)
    · unfold reverseLoss; simp only; split
      · exact .receiver _ _ .refl
      · exact .receiver _ _ (.hire _ _ .refl)
    · exact (Books.refl.receiver _ _).trans (notify_books ..)
theorem loseReceiver_books (n : Half) (s : State) : Books s (loseReceiver n s).2.2 := by
  unfold loseReceiver; split
  · exact .refl
  · split
    · exact .receiver _ _ (endLine_books ..)
    · exact .refl
theorem adjustDeposit_books (t : Half) (m : Bool) (x : Word) (s : State) : Books s (adjustDeposit t m x s).2.2 := by
  unfold adjustDeposit; split
  · exact .refl
  · split
    · exact .refl
    · simp only; split
      · exact .refl
      · exact .hire _ _ .refl
theorem setDue_books (t : Half) (d : Option Word) (s : State) : Books s (setDue t d s).2.2 := by
  unfold setDue; split
  · exact .refl
  · split
    · exact .refl
    · simp only; split
      · exact (Books.refl.hire _ _).trans (becomeOverdue_books ..)
      · exact .hire _ _ .refl

end Sys2Proof.Machine
end

