-- ==== Sys2Proof/Laws/Taking.lean ====
section
/-! SUPPORT. How a command comes to its block: expiries first, then the frame's tests, then the request. -/

namespace Sys2Proof.Machine
open Sys2Proof

theorem dirAfter_self (s : State) : dirAfter s s = s := by unfold dirAfter; rw [if_pos rfl]

theorem expireHold_cases (c : Chan) (s : State) : expireHold c s = s ∨ expireHold c s = uncover c s := by
  unfold expireHold; split
  · exact .inr rfl
  · exact .inl rfl

theorem expireHolds_nil (s : State) : expireHolds [] s = s := dirAfter_self s

theorem takeDue_settled {s : State} (h : s.gen.due = []) : takeDue s = s := by
  unfold takeDue; rw [h]
  show expireHolds [] { s with gen.due := [] } = s
  rw [expireHolds_nil, ← h]

/-- A property that the expiry of a hold and a directory update keep is kept by the holds of one second event. -/
theorem expireHolds_keeps (P : State → Prop) (hu : ∀ c s, P s → P (uncover c s))
    (hd : ∀ before s, P s → P (dirAfter before s)) (cs : List Chan) (s : State) (hs : P s) : P (expireHolds cs s) := by
  refine hd s _ ?_
  induction cs generalizing s with
  | nil => exact hs
  | cons c cs ih =>
    refine ih _ (?_ : P (expireHold c s))
    rcases expireHold_cases c s with e | e <;> rw [e]
    · exact hs
    · exact hu c s hs

/-- A property that the emptying of the list, the holds and every single expiry keep is kept by taking them all. -/
theorem takeDue_keeps (P : State → Prop) (h0 : ∀ s, P s → P { s with gen.due := [] })
    (hc : ∀ cs s, P s → P (expireHolds cs s)) (hd : ∀ d s, P s → P (runDue d s)) (s : State) (hs : P s) :
    P (takeDue s) := by
  unfold takeDue
  suffices h : ∀ (ds : List Due) (t : State), P t → P (ds.foldl (fun s d => runDue d s) t) from
    h _ _ (hc _ _ (h0 s hs))
  intro ds
  induction ds with
  | nil => exact fun _ h => h
  | cons d ds ih => exact fun t h => ih _ (hd d t h)

/-- What one expiry does. -/
theorem runDue_cases (d : Due) (s : State) :
    runDue d s = s ∨ (∃ c, runDue d s = dirAfter s (uncover c s)) ∨
    (∃ c o, s.offer c = some o ∧ runDue d s = dirAfter s (expireOffer c o s)) ∨
    (runDue d s = dirDue { s with gen.dirCount := 0 }) ∨ (runDue d s = dueAlarm s) ∨
    (∃ p, runDue d s = endWait p .empty s) := by
  cases d with
  | gapHold c =>
    rcases expireHold_cases c s with e | e
    · exact .inl (by simp only [runDue, event, e, dirAfter_self])
    · exact .inr (.inl ⟨c, by simp only [runDue, event, e]⟩)
  | offer c =>
    simp only [runDue]; split
    · next o h =>
      split
      · exact .inr (.inr (.inl ⟨c, o, h, rfl⟩))
      · exact .inl rfl
    · exact .inl rfl
  | directory =>
    simp only [runDue]; split
    · exact .inr (.inr (.inr (.inl rfl)))
    · exact .inl rfl
  | alarm => exact .inr (.inr (.inr (.inr (.inl rfl))))
  | wait p =>
    simp only [runDue]; split
    · split
      · exact .inr (.inr (.inr (.inr (.inr ⟨p, rfl⟩))))
      · exact .inl rfl
    · exact .inl rfl

theorem taking_awake {s : State} (h : Awake s) (f : State → State) : taking f s = .next (f s) := by
  unfold taking; rw [if_pos h.running, takeDue_settled h.settled]

theorem taking_asleep {s : State} (h : s.running = false) (f : State → State) : taking f s = .next s := by
  unfold taking; simp [h]

/-- A frame on a port with no request in progress reaches its tests on the state as it stands. -/
theorem frameArrives_ready {p : Port} {s : State} (h : Ready p s) (f : State → State) :
    frameArrives p f s = .next (f s) := by
  unfold frameArrives
  rw [taking_awake h.toAwake, if_neg (by simp [h.unbroken])]
  have hp : s.setPort p { s.port p with framing := .between } = s := by
    have : ({ s.port p with framing := .between } : PortState) = s.port p := by rw [← h.between]
    rw [this, State.setPort_self]
  rw [hp]
  have : endWait p .cancelled s = s := by
    rcases endWait_cases p .cancelled s with ⟨c, t, w, e, _⟩ | ⟨_, e⟩
    · rw [h.free] at e; cases e
    · exact e
  rw [this]

/-- A request taken by a ready port, on the port that may send it, is handed to its block. -/
theorem request_ready {p : Port} {s : State} (h : Ready p s) (tag : Byte) (code : ReqCode) (body : State → State)
    (hc : code.console = true → p = .console) : request p tag code body s = .next (body s) := by
  unfold request
  rw [frameArrives_ready h]
  unfold admitted
  rw [if_neg (by simp [h.free]), if_neg]
  cases hcc : code.console with
  | false => simp
  | true => simp [hc hcc]

/-! ## What a second event does to a channel (R24, R25) -/

@[simp] theorem countHold_coverage (meets : Bool) (l : ChanLive) : (countHold meets l).coverage = l.coverage := rfl
@[simp] theorem countHold_holder (meets : Bool) (l : ChanLive) : (countHold meets l).holder = l.holder := rfl
@[simp] theorem countHold_source (meets : Bool) (l : ChanLive) : (countHold meets l).source = l.source := rfl
@[simp] theorem countHold_fresh (meets : Bool) (l : ChanLive) : (countHold meets l).fresh = false := rfl

/-- A hold is counted at every second event but the one that its turn end came together with. -/
theorem countHold_remaining (meets : Bool) (l : ChanLive) :
    (countHold meets l).remaining =
      if l.coverage = .holding ∧ ¬ (l.fresh = true ∧ meets = true) then l.remaining - 1 else l.remaining := by
  unfold countHold
  by_cases h : l.coverage = .holding <;> cases l.fresh <;> cases meets <;> simp [h]

theorem countBlocks_chan (s : State) (c : Chan) :
    (countBlocks s).chan c = countHold (Config.turnEndMeets s.draws c) (s.chan c) := by
  have h : (countSlots s).chan c = s.chan c := by unfold countSlots; split <;> rfl
  have d : (countSlots s).draws = s.draws := by unfold countSlots; split <;> rfl
  show (Bank.build _).get c = _
  rw [Bank.get_build, h, d]

/-! ## Answers -/

theorem respond_eq (p : Port) (tag : Byte) (f : State → Result) (s : State) :
    respond p tag f s = responds p tag (f s).1 (f s).2.1 (f s).2.2 := rfl

theorem answer_eq (p : Port) (tag : Byte) (a : Answer) (d : List Byte) (s : State) :
    answer p tag a d s = responds p tag a d s := rfl

end Sys2Proof.Machine
end

