-- ==== Sys2Proof/Laws/Kept.lean ====
section
/-! SUPPORT. What placing an order and giving a notice keep of the lists they write. -/

namespace Sys2Proof.Machine
open Sys2Proof

/-! ## The route line's list -/

theorem placeOrder_listed (o : RouteOrder) {s : State} (h : RouteListed s) : RouteListed (placeOrder o s) := by
  have hp := placeUnsent_once o _ h.once
  unfold placeOrder
  rcases routeBegin_cases { s with gen.routeList := placeUnsent o s.gen.routeList } with
    ⟨_, x, rest, hl, e⟩ | ⟨hb, e⟩
  · rw [e]
    refine ⟨?_, fun h => by cases h⟩
    have hl' : placeUnsent o s.gen.routeList = x :: rest := hl
    rw [hl'] at hp
    exact (List.pairwise_cons.mp hp).2
  · rw [e]
    refine ⟨hp, fun hn => ?_⟩
    rcases hb with hb | hb
    · exact absurd hn hb
    · exact hb

theorem moves_listed {s t : State} (m : Moves s t) (h : RouteListed s) : RouteListed t := by
  induction m with
  | refl => exact h
  | chan _ _ _ ih => exact ⟨ih.once, ih.busy⟩
  | booth _ _ _ ih => exact ⟨ih.once, ih.busy⟩
  | acc _ _ _ _ ih => exact ⟨ih.once, ih.busy⟩
  | offer _ _ _ ih => exact ⟨ih.once, ih.busy⟩
  | order o _ ih => exact placeOrder_listed o ih
  | notice n p _ ih =>
    have e := offerNotice_ports n p
    exact ⟨by rw [(e _).routeList]; exact ih.once, by rw [(e _).routeSending, (e _).routeList]; exact ih.busy⟩

/-! ## The notice queues -/

theorem dropOldest_tail (l : List Notice) : ∀ n ∈ dropOldest l, n ∈ l := by
  induction l with
  | nil => exact fun _ h => h
  | cons x l ih =>
    intro n h
    unfold dropOldest at h
    split at h
    · rcases List.mem_cons.mp h with h | h
      · exact h ▸ List.mem_cons_self
      · exact List.mem_cons_of_mem _ (ih n h)
    · exact List.mem_cons_of_mem _ h

/-- Where some notice other than RESTARTED is queued, one notice is removed. -/
theorem dropOldest_length (l : List Notice) (h : ∃ n ∈ l, isRestarted n.body = false) :
    (dropOldest l).length + 1 = l.length := by
  induction l with
  | nil => obtain ⟨_, h, _⟩ := h; cases h
  | cons x l ih =>
    unfold dropOldest
    split
    · next hx =>
      obtain ⟨n, hn, hr⟩ := h
      rcases List.mem_cons.mp hn with hn | hn
      · subst hn; simp [hr] at hx
      · simp [ih ⟨n, hn, hr⟩]
    · rfl

/-- A notice that is not RESTARTED joins its queue within the limits. -/
theorem enqueue_bounded (n : Notice) {k : PortState} (hn : isRestarted n.body = false) (h : QueuesBounded k) :
    QueuesBounded (enqueue n k) := by
  unfold enqueue
  split
  · next hu =>
    split
    · next hfull =>
      have hlen : k.urgent.length = 8 := Nat.le_antisymm h.urgent hfull
      have htail : ∀ x ∈ (dropOldest k.urgent).tail, isRestarted x.body = false := by
        cases hk : k.urgent with
        | nil => rw [hk] at hlen; cases hlen
        | cons y l =>
          have hl : ∀ x ∈ l, isRestarted x.body = false := fun x hx => h.restartedFirst x (by rw [hk]; exact hx)
          unfold dropOldest
          split
          · exact fun x hx => hl x (dropOldest_tail l x hx)
          · exact fun x hx => hl x (List.mem_of_mem_tail hx)
      have hdrop : (dropOldest k.urgent).length + 1 = 8 := by
        rw [← hlen]
        refine dropOldest_length _ ?_
        match hk : k.urgent with
        | [] => rw [hk] at hlen; cases hlen
        | [_] => rw [hk] at hlen; cases hlen
        | y :: z :: l => exact ⟨z, by simp, h.restartedFirst z (by rw [hk]; simp)⟩
      refine ⟨?_, h.routine, ?_, h.routineClass, ?_, h.between⟩
      · simp; omega
      · intro x hx
        rcases List.mem_append.mp hx with hx | hx
        · exact h.urgentClass x (dropOldest_tail _ x hx)
        · rw [List.mem_singleton.mp hx]; exact hu
      · intro x hx
        cases hd : dropOldest k.urgent with
        | nil => rw [hd] at hdrop; simp at hdrop
        | cons y l =>
          simp only [hd, List.cons_append, List.tail_cons] at hx
          rcases List.mem_append.mp hx with hx | hx
          · exact htail x (by rw [hd]; exact hx)
          · rw [List.mem_singleton.mp hx]; exact hn
    · next hroom =>
      simp only [Config.urgentMax] at hroom
      refine ⟨?_, h.routine, ?_, h.routineClass, ?_, h.between⟩
      · simp; omega
      · intro x hx
        rcases List.mem_append.mp hx with hx | hx
        · exact h.urgentClass x hx
        · rw [List.mem_singleton.mp hx]; exact hu
      · intro x hx
        cases hk : k.urgent with
        | nil => simp [hk] at hx
        | cons y l =>
          simp only [hk, List.cons_append, List.tail_cons] at hx
          rcases List.mem_append.mp hx with hx | hx
          · exact h.restartedFirst x (by rw [hk]; exact hx)
          · rw [List.mem_singleton.mp hx]; exact hn
  · next hu =>
    split
    · exact ⟨h.urgent, h.routine, h.urgentClass, h.routineClass, h.restartedFirst, h.between⟩
    · next hroom =>
      simp only [Config.routineMax] at hroom
      refine ⟨h.urgent, ?_, h.urgentClass, ?_, h.restartedFirst, h.between⟩
      · simp; omega
      · intro x hx
        rcases List.mem_append.mp hx with hx | hx
        · exact h.routineClass x hx
        · rw [List.mem_singleton.mp hx]; simpa using hu

end Sys2Proof.Machine
end

