-- ==== Sys2Proof/Tests/Slice0.lean ====
section
/-! SUPPORT. Tests: the well-formedness smoke, worked examples of the spec, one step each, and for every statement with
hypotheses a concrete state and operands that meet them. The expected values are the spec's, by the section named. -/

namespace Sys2Proof.Tests
open Sys2Proof Sys2Proof.Machine

-- One theorem at a time: the machine of the check has room for few threads at once.
set_option Elab.async false

/-! ## Helpers -/

/-- The state after one command. -/
def after (c : Instr) (s : State) : State :=
  match exec c s with
  | .next t => t
  | _ => s

/-- The last response on a port's transmit list. -/
def said (p : Port) (s : State) : Option TxFrame := (s.port p).transmit.getLast?

/-- Slot `k` carries the tag on channel `c`, with claim policy, fallback and gap hold. -/
def assigned (k : Slot) (c : Chan) (tag : Nat) (y : ClaimPolicy) (f : Fallback) (hold : Nat) (s : State) : State :=
  ((s.setSlot k { s.slot k with name := some ⟨tag, [0x41]⟩, channel := some c }).setSettings c
    ⟨some k, y, f, hold, 10⟩).setChan c ⟨.holding, none, f.source, hold, false⟩

/-- Booth `b` has these settings and is PRESENT. -/
def seated (b : Booth) (m : BoothSettings) (s : State) : State :=
  (s.setBoothSettings b (some m)).setBooth b { s.booth b with presence := .present }

/-- Seat `k` of booth `b` is live on channel `c`. -/
def onAir (b : Booth) (k : Seat) (c : Chan) (s : State) : State :=
  (s.setSeat b k .live).setChan c ⟨.covered, some ⟨b, k⟩, .booth b, 0, false⟩

/-- Seat `k` of booth `b` waits for channel `c`, which seat `j` of booth `d` holds. -/
def waits (b : Booth) (k : Seat) (d : Booth) (j : Seat) (c : Chan) (seconds : Nat) (s : State) : State :=
  (s.setSeat b k .waiting).setOffer c (some ⟨if b = d then .inBooth else .across, b, k, d, j, seconds⟩)

/-- The reply of booth `b` with the one event `e` is being handed on. -/
def handing (b : Booth) (e : ReplyEvent) (s : State) : State := { s with gen.cycle := .handing b [e] }

def bothWays : BoothSettings := ⟨3, 0, some 1, .courtesy, 10, true⟩
def direct : BoothSettings := ⟨2, 0, some 1, .direct, 10, false⟩
def timed : BoothSettings := ⟨2, 0, none, .timed, 10, false⟩

/-- Channels 1 and 2 assigned; booths 1, 2 and 3 with output A on channel 1; nobody live. -/
def hall (y1 y2 : ClaimPolicy) : State :=
  seated 2 timed (seated 1 direct (seated 0 bothWays
    (assigned 1 1 11 y2 (.channel 0) 5 (assigned 0 0 10 y1 .floor 2 State.reset))))

/-- A hire with one receiver out under ticket 1. -/
def hired : State :=
  (State.reset.setHire 1 ⟨0, 5000, .desk1, 0, some 60, false, 4, [⟨7, 0, none, .out, 0⟩]⟩).setReceiver 7
    ⟨some 700, .hired, some ⟨1, 0⟩, none, none, none, false, false, 1⟩

/-- The same with the receiver declared lost. -/
def gone : State :=
  (State.reset.setHire 1 ⟨0, 5000, .desk1, 0, none, false, 4, [⟨7, 0, some 0, .lost, 0⟩]⟩).setReceiver 7
    ⟨some 700, .lost, some ⟨1, 0⟩, none, none, none, false, false, 1⟩

def class2 : Terms := ⟨900, 600, 150, 2000, 9500⟩
def priced (s : State) : State := { s with ret.tariffs := s.ret.tariffs.set 0 ⟨some class2, 3⟩ }
def opened (s : State) : State := { s with ret.session := ⟨.opened, 1, some 0, none⟩ }

/-- Port `p` has a job of this request waiting to start. -/
def queued (p : Port) (c : ReqCode) (r : JobRequest) (s : State) : State :=
  { s.setPort p { s.port p with inProgress := some ⟨c, 9, none⟩ } with gen.jobs := [⟨p, r⟩] }

/-! ## The structures of the statements, from checks that compute -/

theorem awake_of {s : State} (h : (s.running && s.gen.due.isEmpty) = true) : Awake s := by
  simp only [Bool.and_eq_true, List.isEmpty_iff] at h
  exact ⟨h.1, h.2⟩

def readyOk (p : Port) (s : State) : Bool :=
  s.running && s.gen.due.isEmpty && !s.breaks.get p && (s.port p).framing == .between && (s.port p).inProgress.isNone

theorem ready_of {p : Port} {s : State} (h : readyOk p s = true) : Ready p s := by
  simp only [readyOk, Bool.and_eq_true, List.isEmpty_iff, Bool.not_eq_true', beq_iff_eq, Option.isNone_iff_eq_none] at h
  exact ⟨⟨h.1.1.1.1, h.1.1.1.2⟩, h.1.1.2, h.1.2, h.2⟩

theorem handing_of {s : State} {b : Booth} {m : BoothSettings} {e : ReplyEvent} {rest : List ReplyEvent}
    (h : (s.running && s.gen.due.isEmpty && s.gen.cycle == .handing b (e :: rest) &&
      (s.booth b).presence == .present && s.boothSettings b == some m) = true) : Handing s b m e rest := by
  simp only [Bool.and_eq_true, List.isEmpty_iff, beq_iff_eq] at h
  exact ⟨⟨h.1.1.1.1, h.1.1.1.2⟩, h.1.1.2, h.1.2, h.2⟩

def listeningOk (s : State) : Bool :=
  (List.finRange 32).all (fun b =>
    match s.boothSettings b, (s.booth b).chosen with
    | none, chosen => chosen == .floor && (s.booth b).effective == .floor && !(s.booth b).autoHold
    | some _, .floor => (s.booth b).effective == .floor && !(s.booth b).autoHold
    | some k, .channel r =>
      if k.autoFloor = true ∧ (s.chan r).coverage = .uncovered then
        (s.booth b).effective == .floor && (s.booth b).autoHold
      else (s.booth b).effective == .channel r && !(s.booth b).autoHold)

theorem listening_of {s : State} (h : listeningOk s = true) : ListeningAgrees s := by
  intro b
  have hb := (List.all_eq_true.mp h) b (List.mem_finRange b)
  cases h1 : s.boothSettings b with
  | none => simp_all
  | some k =>
    cases h2 : (s.booth b).chosen with
    | floor => simp_all
    | channel r =>
      simp only [h1, h2] at hb ⊢
      split <;> simp_all

def hallOk (s : State) : Bool :=
  decide (∀ c, ((s.chan c).coverage = .unassigned ↔ (s.settings c).slot = none) ∧
    ((s.chan c).coverage = .covered ↔ (s.chan c).holder.isSome = true)) &&
  (List.finRange 24).all (fun c => (s.chan c).holder.all (fun x =>
    isLive (s.seat x.booth x.seat) &&
      (s.boothSettings x.booth).any (fun m => selectedChan m (s.booth x.booth) == c))) &&
  (List.finRange 32).all (fun b => (List.finRange 3).all (fun k => !isLive (s.seat b k) ||
    (s.boothSettings b).any (fun m => (s.chan (selectedChan m (s.booth b))).holder == some ⟨b, k⟩))) &&
  (List.finRange 24).all (fun c => (s.offer c).all (fun o =>
    (s.chan c).holder == some ⟨o.holdBooth, o.holdSeat⟩ && s.seat o.waitBooth o.waitSeat == .waiting &&
      (s.boothSettings o.waitBooth).any (fun m => selectedChan m (s.booth o.waitBooth) == c) &&
      decide (o.kind = .inBooth ↔ o.waitBooth = o.holdBooth) &&
      decide (o.kind = .across → (s.settings c).policy = .offer))) &&
  (List.finRange 32).all (fun b => (List.finRange 3).all (fun k => s.seat b k != .waiting ||
    (List.finRange 24).any (fun c => (s.offer c).any (fun o => o.waitBooth == b && o.waitSeat == k)))) &&
  (List.finRange 32).all (fun b => (s.booth b).muted == (List.finRange 3).any (fun k => s.seat b k == .cough))

theorem hall_of {s : State} (h : hallOk s = true) : HallAgrees s := by
  simp only [hallOk, Bool.and_eq_true, List.all_eq_true, List.mem_finRange, forall_true_left, decide_eq_true_eq,
    Option.all_eq_true, Option.any_eq_true, beq_iff_eq, Bool.or_eq_true, Bool.not_eq_true', bne_iff_ne, ne_eq,
    List.any_eq_true, true_and] at h
  obtain ⟨⟨⟨⟨⟨h1, h2⟩, h3⟩, h4⟩, h5⟩, h6⟩ := h
  refine ⟨fun c => (h1 c).1, fun c => (h1 c).2, fun c b k e => ?_, fun b k e => ?_, fun c o e => ?_, fun b k e => ?_,
    fun b => ?_⟩
  · exact h2 c ⟨b, k⟩ e
  · rcases h3 b k with x | x
    · rw [x] at e; cases e
    · exact x
  · obtain ⟨⟨⟨⟨a1, a2⟩, a3⟩, a4⟩, a5⟩ := h4 c o e
    exact ⟨a1, a2, a3, a4, a5⟩
  · rcases h5 b k with x | ⟨c, o, x, y, z⟩
    · exact absurd e x
    · exact ⟨c, o, x, y, z⟩
  · unfold MuteAgrees
    rw [h6 b, List.any_eq_true]
    simp

def planOk (r : Retained) : Bool :=
  decide (∀ (k : Slot) (c : Chan), (r.slots.get k).channel = some c ↔ (r.plan.get c).slot = some k) &&
  decide (∀ k : Slot, (r.slots.get k).channel.isSome = true → (r.slots.get k).name.isSome = true) &&
  (List.finRange 32).all (fun j => (List.finRange 32).all (fun k => (r.slots.get j).name.all (fun n =>
    (r.slots.get k).name.all (fun m => n.tag != m.tag || j == k)))) &&
  (List.finRange 32).all (fun k => (r.slots.get k).name.all (fun n =>
    decide (1 ≤ n.tag ∧ n.tag ≤ 65535 ∧ 1 ≤ n.label.length ∧ n.label.length ≤ 12))) &&
  (List.finRange 24).all (fun c => match (r.plan.get c).fallback with
    | .channel x => x != c && (r.plan.get x).slot.isSome && !chained (r.plan.get x).fallback
    | _ => true) &&
  decide (∀ c : Chan, (r.plan.get c).gapHold ≤ 60 ∧ 5 ≤ (r.plan.get c).offerTime ∧ (r.plan.get c).offerTime ≤ 120) &&
  (List.finRange 32).all (fun b => (r.booths.get b).all (fun k =>
    decide (1 ≤ k.seats ∧ k.seats ≤ 3 ∧ k.outputB ≠ some k.outputA ∧ 5 ≤ k.offerTime ∧ k.offerTime ≤ 120)))

theorem plan_of {r : Retained} (h : planOk r = true) : PlanAgrees r := by
  simp only [planOk, Bool.and_eq_true, List.all_eq_true, List.mem_finRange, forall_true_left, decide_eq_true_eq,
    Option.all_eq_true, Bool.or_eq_true, bne_iff_ne, beq_iff_eq, ne_eq] at h
  obtain ⟨⟨⟨⟨⟨⟨h1, h2⟩, h3⟩, h4⟩, h5⟩, h6⟩, h7⟩ := h
  refine ⟨h1, h2, fun j k n m e1 e2 e3 => ?_, h4, fun c x e => ?_, h6, h7⟩
  · exact (h3 j k n e1 m e2).resolve_left (fun x => x e3)
  · have := h5 c
    rw [e] at this
    simp only [Bool.and_eq_true, bne_iff_ne, ne_eq, Bool.not_eq_true'] at this
    refine ⟨this.1.1, this.1.2, fun y hy => ?_⟩
    rw [hy] at this
    exact absurd this.2 (by simp [chained])

/-! ## Well-formedness: one ill-formed term for each check -/

theorem test_ill_formed_bad_crc : WellFormed (.badCrcFrame .console (List.replicate 256 0)) = false := by decide +kernel
theorem test_ill_formed_unknown : WellFormed (.unknownRequest .desk1 (List.replicate 256 0)) = false := by decide +kernel
theorem test_ill_formed_label : WellFormed (.langDefine .console 1 0 1 (List.replicate 27 0x41)) = false := by decide
theorem test_ill_formed_empty_reply : WellFormed (.boothReply []) = false := by decide
theorem test_ill_formed_long_reply : WellFormed (.boothReply (List.replicate 515 0)) = false := by decide +kernel
theorem test_well_formed_label : WellFormed (.langDefine .console 1 0 1 (List.replicate 26 0x41)) = true := by decide

/-! ## Encodings (chapter 12) -/

/-- Section 12.2: the check of "1" to "9" is 0x29B1. -/
theorem test_crc_check : crc16 [0x31, 0x32, 0x33, 0x34, 0x35, 0x36, 0x37, 0x38, 0x39] = 0x29B1 := by decide +kernel

/-- Section 12.2: a STATUS request with tag 0x11, its CRC over 0x02, 0x11 and 0x01. -/
theorem test_status_frame :
    (frameBytes [0x11, 0x01]).take 4 = [0xA5, 0x02, 0x11, 0x01] ∧
    portLine .desk1 .between (frameBytes [0x11, 0x01]) = (.between, [.status .desk1 0x11]) := by decide +kernel

/-- R171: one bit wrong in the content, and the frame is one with a bad CRC. -/
theorem test_bad_crc_frame :
    portLine .desk1 .between ((frameBytes [0x11, 0x01]).set 2 0x10) = (.between, [.badCrcFrame .desk1 [0x10, 0x01]]) := by
  decide +kernel

/-- R184, R185: HIRE_OPEN carries class, deposit, and the due time as an optional field. -/
theorem test_hire_open_parameters :
    parseContent .desk2 [5, 0x40, 2, 0, 0, 0x13, 0x88, 1, 0, 0, 0, 60] = some (.hireOpen .desk2 5 2 5000 (some 60)) ∧
    parseContent .desk2 [5, 0x40, 2, 0, 0, 0x13, 0x88, 0, 0, 0, 0, 0] = some (.hireOpen .desk2 5 2 5000 none) ∧
    parseContent .desk2 [5, 0x40, 2, 0, 0, 0x13, 0x88, 2, 0, 0, 0, 0] = none := by decide +kernel

/-- R184: a signed delta is 0x2B or 0x2D and four bytes. -/
theorem test_signed_delta :
    parseContent .desk1 [1, 0x44, 0, 88, 0x2D, 0, 0, 3, 0xE8] = some (.depositAdjust .desk1 1 88 true 1000) ∧
    parseContent .desk1 [1, 0x44, 0, 88, 0x2B, 0, 0, 3, 0xE8] = some (.depositAdjust .desk1 1 88 false 1000) ∧
    parseContent .desk1 [1, 0x44, 0, 88, 0x2C, 0, 0, 3, 0xE8] = none := by decide +kernel

/-- Section 12.3: sizes of the directory, route order and poll frames. -/
theorem test_hall_frame_sizes :
    (Directory.bytes ⟨dirContent State.reset, 0⟩).length = 390 ∧
    (RouteOrder.bytes (.route 5 (.booth 3))).length = 7 ∧
    (RouteOrder.bytes (.route 5 (.booth 3))).take 5 = [0xE5, 1, 6, 3, 4] ∧
    (tallyOf (hall .first .last) 0 bothWays).bytes.length = 18 := by decide +kernel

/-- Section 12.5: the entry sizes. -/
theorem test_entry_sizes :
    (languageEntry LangSlot.blank 0 0).length = 38 ∧ (channelEntry ChanSettings.blank ((hall .first .last).chan 0)).length = 13 ∧
    (boothEntry (some bothWays) ((hall .first .last).booth 0)).length = 23 ∧ (seatEntry 0 .off ⟨0, 0⟩).length = 8 ∧
    offerEntry 0 none = [0, 0, 0, 0, 0, 0, 0] ∧ (offerEntry 0 (some ⟨.across, 1, 0, 0, 0, 9⟩)).length = 7 ∧ (receiverEntry 7 (hired.receiver 7)).length = 27 ∧
    (hiresEntry 1 ⟨0, 0, .desk1, 0, none, false, 0, []⟩).length = 12 ∧
    (hireRecord 1 ⟨0, 0, .desk1, 0, none, false, 0, []⟩).length = 23 ∧ (hireLineEntry 0 ⟨7, 0, none, .out, 0⟩).length = 17 ∧
    (tariffEntry 0 ⟨some class2, 3⟩).length = 18 ∧ (accountsEntry Accounts.zero).length = 90 := by decide +kernel

/-- R176: the default subscriptions, kind k at bit k − 1. -/
theorem test_default_subscriptions :
    (List.range 16).filter (fun i => (defaultSubscriptions .console).getLsbD i) =
      [1, 2, 3, 4, 6, 7, 8, 9, 10, 11, 12, 14] ∧
    (List.range 16).filter (fun i => (defaultSubscriptions .desk1).getLsbD i) = [3, 4, 5, 11, 12, 13, 14] := by decide

/-! ## The charge (section 9.5) -/

/-- Section 9.5.3: the three-line hire when firm. -/
def firmHire : WorkCopy :=
  ⟨88, 5000, 6, 2, class2, 3, 50400,
    [⟨1203, .back, 33000, 47430, 1245⟩, ⟨1204, .back, 33020, 34100, 0⟩, ⟨877, .lost, 36000, 50400, 0⟩]⟩

theorem test_firm_hire :
    (hireCharge firmHire).total = 13800 ∧ (hireCharge firmHire).time = 4300 ∧ (hireCharge firmHire).fee = 9500 ∧
    (hireCharge firmHire).amount = 8800 ∧ hireFlagsNat (hireCharge firmHire).flags = 0x13 ∧
    (hireCharge firmHire).lines.map LineCharge.quanta = [15, 2, 16] ∧
    (hireCharge firmHire).lines.map (fun l => lineFlagsNat l.flags) = [3, 1, 2] := by decide +kernel

/-- Section 9.5.2: the estimate while receivers are out. -/
theorem test_estimate :
    let h := hireCharge ⟨88, 5000, 4, 2, class2, 3, 45000,
      [⟨1203, .out, 33000, 45000, 1245⟩, ⟨1204, .back, 33020, 34100, 0⟩, ⟨877, .out, 36000, 45000, 0⟩]⟩
    h.total = 3600 ∧ h.fee = 0 ∧ h.amount = 1400 ∧ hireFlagsNat h.flags = 0x49 ∧
    h.lines.map LineCharge.charge = [1800, 300, 1500] := by decide +kernel

/-- Section 9.5.5: the grace and the quantum. -/
theorem test_grace_and_quantum :
    [0, 600, 601, 900, 901, 1800].map (fun n => (quantaOf class2 n, roundedOf class2 n)) =
      [(0, false), (0, false), (1, true), (1, false), (2, true), (2, false)] ∧
    quantaOf ⟨60, 3600, 1, 0, 0⟩ 3600 = 0 ∧ quantaOf ⟨60, 3600, 1, 0, 0⟩ 3601 = 61 ∧
    [0, 86400, 86401, 4294967295].map dayCount = [1, 1, 2, 49711] := by decide

/-- Section 9.5.6: a held product, then a cap, then a held sum. -/
theorem test_held_product :
    let l : CopyLine := ⟨1, .back, 0, 4000000, 0⟩
    (lineCharge ⟨60, 0, 65535, 0, 0⟩ l).charge = 4294967295 ∧
    lineFlagsNat (lineCharge ⟨60, 0, 65535, 0, 0⟩ l).flags = 5 ∧
    (lineCharge ⟨60, 0, 65535, 1000000, 0⟩ l).charge = 47000000 ∧
    lineFlagsNat (lineCharge ⟨60, 0, 65535, 1000000, 0⟩ l).flags = 3 ∧
    (lineCharge ⟨60, 0, 65535, 1000000, 4290000000⟩ { l with state := .lost }).fee = 4247967295 ∧
    lineFlagsNat (lineCharge ⟨60, 0, 65535, 1000000, 4290000000⟩ { l with state := .lost }).flags = 7 := by decide

/-- Section 12.4: the quote of section 9.5.3 in one response of 37 + 3 × 33 bytes, its total, fee and flags. -/
theorem test_quote_record :
    (quoteRecord firmHire 0 0).length = 136 ∧ ((quoteRecord firmHire 0 0).drop 16).take 4 = [0, 0, 0x35, 0xE8] ∧
    (quoteRecord firmHire 0 0).getD 36 0 = 0x13 := by decide +kernel

/-! ## The relay graph (section 5.7) -/

/-- The seven booths of section 5.7, in its order: B1, B7, B3, B4, B6, B2, B5. -/
def seven : List RelayArc :=
  [⟨0, .floor, 0, none⟩, ⟨6, .floor, 0, none⟩, ⟨2, .channel 0, 5, none⟩, ⟨3, .channel 5, 8, none⟩,
    ⟨5, .channel 0, 11, some 12⟩, ⟨1, .floor, 1, none⟩, ⟨4, .floor, 9, none⟩]

theorem test_hop_counts :
    [0, 5, 8, 11, 12, 1, 9].map (fun c : Chan => (hops seven).get c) = [1, 2, 3, 2, 2, 1, 1] ∧
    hasCycle seven = false := by decide +kernel

theorem test_relay_requests :
    withinHopLimit (withInput 4 (.channel 8) seven) = false ∧ (hops (withInput 4 (.channel 8) seven)).get 9 = 4 ∧
    (hops (withInput 1 (.channel 5) seven)).get 1 = 3 ∧
    hasCycle (withInput 0 (.channel 5) seven) = true ∧ hasCycle (withInput 6 (.channel 8) seven) = true ∧
    (hops (withInput 4 (.channel 11) seven)).get 9 = 3 := by decide +kernel

/-! ## One step of each command -/

def off : State := { State.reset with supply := .backup, mark := .invalid, clock := 900 }

/-- R7, R12: a full reset clears the clock, and RESTARTED says POWER and cleared. -/
theorem test_power_on : (after .powerOn off).clock = 0 ∧ (after .powerOn off).gen.start = ⟨.power, true⟩ ∧
    ((after .powerOn off).port .desk2).urgent = [⟨0, .restarted .power true⟩] := by decide +kernel

/-- R11, R12: a port in a break at a full reset has its port reset. -/
theorem test_power_on_break : (after .powerOn { off with breaks := ⟨false, true, false⟩ }).port .desk1 =
      PortState.restarted .desk1 0 .port false ∧
    (after .powerOn { off with breaks := ⟨false, true, false⟩ }).port .desk2 = PortState.restarted .desk2 0 .power true := by
  decide +kernel

/-- R7, R31: a mark that reads VALID keeps the clock, and the directory sequence advances by 1. -/
theorem test_power_on_valid : (after .powerOn { off with mark := .valid }).clock = 900 ∧
    (after .powerOn { off with mark := .valid }).ret.dirSeq = 1 := by decide +kernel

theorem test_supply_lost : (after .mainSupplyFail hired).ret = hired.ret ∧
    (after .backupDomainPowerLoss hired).mark = .invalid := by decide +kernel

/-- R10, R12, R32, R33: the reset line, asserted and released; while it is asserted nothing is being sent. -/
theorem test_reset_line : (after .resetLineAssert State.reset).attention .console = false ∧
    (after .resetLineAssert State.reset).gen.routeSending = none ∧
    (after .resetLineAssert State.reset).gen.dirSending = none ∧
    (after .resetLineRelease (after .resetLineAssert hired)).gen.start = ⟨.line, false⟩ ∧
    (after .resetLineRelease (after .resetLineAssert hired)).ret.hires = hired.ret.hires := by decide +kernel

/-- R2: the clock stops at its last value. -/
theorem test_clock_stops : (after .secondEvent { State.reset with clock := 4294967295 }).clock = 4294967295 ∧
    (after .secondEvent { State.reset with clock := 4294967294 }).clock = 4294967295 := by decide +kernel

/-- Section 2.8.1: the last second of a gap hold, then the expiry. -/
def held : State := after .secondEvent ((hall .first .last).setChan 0 ⟨.holding, none, .booth 2, 1, false⟩)
theorem test_gap_hold : held.gen.due = [.gapHold 0] ∧
    (after (.gapHoldExpiry 0) held).chan 0 = ⟨.uncovered, none, .floor, 0, false⟩ ∧
    (after (.gapHoldExpiry 0) held).ret.dirSeq = 1 ∧
    ((after (.gapHoldExpiry 0) held).port .console).urgent.map Notice.body =
      [.restarted .power true, .channelUncovered 0 10 .floor] := by decide +kernel

/-- Section 2.8.1 and R25: a hold of 10 that a turn end began is counted at the next second event, unless the two came
together; from then on it is counted in either case. -/
theorem test_fresh_hold : countHold false ⟨.holding, none, .booth 2, 10, true⟩ = ⟨.holding, none, .booth 2, 9, false⟩ ∧
    countHold true ⟨.holding, none, .booth 2, 10, true⟩ = ⟨.holding, none, .booth 2, 10, false⟩ ∧
    countHold true ⟨.holding, none, .booth 2, 10, false⟩ = ⟨.holding, none, .booth 2, 9, false⟩ := by decide

/-- R31: two holds that end at one second event, none of them named by a command, are one event (log 36); each that a command
names is one of its own. -/
def heldTwice : State :=
  after .secondEvent (((hall .first .last).setChan 0 ⟨.holding, none, .booth 2, 1, false⟩).setChan 1 ⟨.holding, none, .booth 0, 1, false⟩)
theorem test_two_gap_holds : heldTwice.gen.due = [.gapHold 0, .gapHold 1] ∧
    (after (.gapHoldExpiry 1) heldTwice).ret.dirSeq = 1 ∧ (after .routeOrderSent heldTwice).ret.dirSeq = 1 ∧
    (after (.gapHoldExpiry 1) (after (.gapHoldExpiry 0) heldTwice)).ret.dirSeq = 2 ∧
    (after .routeOrderSent heldTwice).chan 1 = ⟨.uncovered, none, .channel 0, 0, false⟩ := by decide +kernel

/-- Section 2.8.1: U counts at a second event that finds the channel UNCOVERED, V at one that finds it COVERED. -/
theorem test_counters : ((after .secondEvent ((hall .first .last).setChan 0 ⟨.uncovered, none, .floor, 0, false⟩)).slot 0).u = 1 ∧
    ((after .secondEvent (onAir 0 0 0 (hall .first .last))).slot 0).v = 1 ∧
    (after .secondEvent (onAir 0 0 0 (hall .first .last))).acc 0 0 = ⟨1, 0⟩ := by decide +kernel

/-- Section 4.7.2: an ACROSS offer lapses at its last second. -/
def across (seconds : Nat) : State := waits 1 0 0 0 0 seconds (onAir 0 0 0 (hall .offer .last))
theorem test_offer_lapses : (after (.offerExpiry 0) (after .secondEvent (across 1))).seat 1 0 = .off ∧
    ((after (.offerExpiry 0) (after .secondEvent (across 1))).booth 1).indication = some .lapsed ∧
    (after (.offerExpiry 0) (after .secondEvent (across 1))).seat 0 0 = .live := by decide +kernel

/-- R68: an offer keeps its remaining seconds while the reset line is asserted; the release takes it away (R57). -/
theorem test_line_keeps_offers : (after .secondEvent (after .resetLineAssert (across 9))).offer 0 = some ⟨.across, 1, 0, 0, 0, 9⟩ ∧
    (after .resetLineRelease (after .resetLineAssert (across 9))).offer 0 = none := by decide +kernel

/-- Section 4.7.3: an IN_BOOTH offer of a TIMED booth passes the channel from a COUGH holder, and the booth is not muted. -/
def forced : State :=
  let s := waits 2 1 2 0 0 1 (onAir 2 0 0 (hall .first .last))
  s.setBooth 2 { s.booth 2 with seats := (s.booth 2).seats.set 0 .cough, muted := true }
theorem test_offer_forced :
    let t := after (.offerExpiry 0) (after .secondEvent forced)
    t.seat 2 0 = .off ∧ t.seat 2 1 = .live ∧ (t.booth 2).muted = false ∧ t.acc 2 1 = ⟨0, 1⟩ ∧
    (t.port .console).routine.map Notice.body = [.handover 0 10 .expiry (some .inBooth) 2 0 2 1] := by decide +kernel

/-- R32: the repeat is due at the second second event; while a send is in progress it is marked pending. -/
theorem test_directory : (after .directoryRepeat (after .secondEvent (after .secondEvent State.reset))).gen.dirPending = true ∧
    (after .directorySendEnd State.reset).gen.dirSending = none := by decide +kernel

/-- R33: the line goes on with the next order of the full set. -/
theorem test_route_line : (after .routeOrderSent State.reset).gen.routeSending = some (.route 1 .silent) ∧
    routeOrders State.reset = fullSet State.reset := by decide +kernel

/-- R89, R90, R93: the first poll goes to booth 1; an unanswered window is a miss. -/
def polled : State := after .pollSent (after .pollStart (hall .first .last))
theorem test_poll : polled.gen.cycle = .window 0 false ∧
    ((after .replyWindowExpiry polled).booth 0).misses = 1 := by decide +kernel

/-- R92, R94: a good reply hands its events on in their order; one with five events is TOO_MANY. -/
theorem test_reply :
    (after (.boothReply (replyBytes 1 2 [(1, 1), (9, 0)])) polled).gen.cycle = .handing 0 [.seatOn 1] ∧
    ((after (.boothReply (replyBytes 1 5 [(1, 1), (1, 1), (1, 1), (1, 1), (1, 1)])) polled).booth 0).misses = 1 := by
  decide +kernel

/-- Section 3.10.3: the third miss takes the booth's seats, and an ACROSS offer passes its channel. -/
theorem test_third_miss :
    let s := { (across 9).setBooth 0 { (across 9).booth 0 with misses := 2 } with gen.cycle := .window 0 false }
    let t := after .replyWindowExpiry s
    t.seat 0 0 = .off ∧ t.seat 1 0 = .live ∧ (t.chan 0).holder = some ⟨1, 0⟩ ∧ (t.booth 0).presence = .absent := by
  decide +kernel

/-- Section 3.10.2: ENGAGED under FIRST; a HOLDING channel is taken, with no CHANNEL_COVERED notice. -/
theorem test_seat_on :
    let s := handing 1 (.seatOn 2) (onAir 0 0 0 (hall .first .last))
    let t := handing 1 (.seatOn 2) (hall .first .last)
    ((after (.seatOn 1 2) s).booth 1).indication = some .engaged ∧ (after (.seatOn 1 2) s).seat 1 1 = .off ∧
    (after (.seatOn 1 2) t).chan 0 = ⟨.covered, some ⟨1, 1⟩, .booth 1, 0, false⟩ ∧
    ((after (.seatOn 1 2) t).port .console).routine = [] := by decide +kernel

/-- R43: a claim under LAST cuts the holder. -/
theorem test_seat_on_last :
    let t := after (.seatOn 1 2) (handing 1 (.seatOn 2) (onAir 0 0 0 (hall .last .last)))
    t.seat 0 0 = .off ∧ t.seat 1 1 = .live ∧ (t.booth 0).indication = some .cut := by decide +kernel

/-- Section 2.8.1: a turn ends with no offer: HOLDING on the route it had. -/
theorem test_seat_off :
    (after (.seatOff 0 1) (handing 0 (.seatOff 1) (onAir 0 0 0 (hall .first .last)))).chan 0 =
      ⟨.holding, none, .booth 0, 2, true⟩ := by decide +kernel

/-- Section 3.10.1: a cough mutes the booth, and its end unmutes it. -/
theorem test_cough :
    let t := after (.coughDown 0 1) (handing 0 (.coughDown 1) (onAir 0 0 0 (hall .first .last)))
    t.seat 0 0 = .cough ∧ (t.booth 0).muted = true ∧ (t.chan 0).holder = some ⟨0, 0⟩ ∧
    ((after (.coughUp 0 1) (handing 0 (.coughUp 1) t)).booth 0).muted = false := by decide +kernel

/-- Section 4.7.1: GIVE passes the channel within the booth. -/
theorem test_give :
    let t := after (.give 0 1) (handing 0 (.give 1) (waits 0 1 0 0 0 8 (onAir 0 0 0 (hall .first .last))))
    t.seat 0 0 = .off ∧ t.seat 0 1 = .live ∧ t.acc 0 1 = ⟨0, 1⟩ ∧ t.offer 0 = none ∧
    (t.port .console).routine.map Notice.body = [.handover 0 10 .give (some .inBooth) 0 0 0 1] := by decide +kernel

/-- Section 4.7.4: a switch leaves channel 1 to the waiting seat of an ACROSS offer, and takes channel 2. -/
theorem test_output_select :
    let t := after (.outputSelect 0 .b) (handing 0 (.outputSelect .b) (across 25))
    (t.chan 0).holder = some ⟨1, 0⟩ ∧ (t.chan 1).holder = some ⟨0, 0⟩ ∧ t.acc 0 0 = ⟨0, 0⟩ ∧ t.acc 1 0 = ⟨0, 1⟩ := by
  decide +kernel

/-- Sections 5.3 and 5.7: a booth may not listen to its own output; it may listen to the floor. -/
theorem test_relay :
    ((after (.relaySelect 2 1) (handing 2 (.relaySelect 1) (hall .first .last))).booth 2).indication = some .relayRefused ∧
    said .console (after (.relaySet .console 4 3 ⟨2, 1⟩) (hall .first .last)) = some ⟨4, .loop, []⟩ ∧
    said .console (after (.relaySet .console 4 3 ⟨2, 2⟩) (hall .first .last)) = some ⟨4, .done, [2, 2, 2, 2, 1]⟩ := by
  decide +kernel

/-- Section 9.5.1: at 42,000 the report that moves from Portuguese to Spanish closes 1,245 − 400 into the line. -/
def listening : State :=
  let s := { hired with clock := 42000 }
  let s := (assigned 3 2 340 .first .floor 2 (assigned 6 5 620 .first .floor 2 s))
  let s := (s.setSlot 6 { s.slot 6 with u := 1245 }).setSlot 3 { s.slot 3 with u := 7010 }
  { s.setReceiver 7 { s.receiver 7 with tuned := some ⟨6, 400⟩ } with
    ret.listeners := s.ret.listeners.set 6 1, gen.intake := [⟨7, 700, 340, 9, 42000⟩] }
theorem test_report_taken : ((after .reportTaken listening).hire? 1).map (fun h => h.lines.map Line.credit) = some [845] ∧
    ((after .reportTaken listening).receiver 7).tuned = some ⟨3, 7010⟩ ∧
    (after .reportTaken listening).ret.listeners.get 3 = 1 ∧ (after .reportTaken listening).ret.listeners.get 6 = 0 := by
  decide +kernel

/-- R106: a report of another hall is discarded. -/
def report (hallCode : Half) : ReportBytes :=
  let r : ReportBytes := ⟨hallCode, 7, 700, 340, 9, 0⟩
  { r with crc := crc16 r.covered }
theorem test_collector :
    (after (.collectorReport (report 5)) { hired with ret.hallCode := 5 }).gen.intake = [⟨7, 700, 340, 9, 0⟩] ∧
    (after (.collectorReport (report 6)) { hired with ret.hallCode := 5 }).gen.intake = [] := by decide +kernel

/-- R11, R183: a break leaves the port its RESTARTED notice alone, and abandons its job. -/
theorem test_break : ((after (.portBreak .desk1) (queued .desk1 .snapshot .snapshot State.reset)).port .desk1).urgent =
      [⟨0, .restarted .port false⟩] ∧
    (after (.portBreak .desk1) (queued .desk1 .snapshot .snapshot State.reset)).gen.jobs = [] ∧
    (after (.breakEnd .desk1) (after (.portBreak .desk1) State.reset)).breaks.get .desk1 = false := by decide +kernel

/-- R172: the first test that fails decides. -/
theorem test_refused_frames : said .desk1 (after (.unknownRequest .desk1 [7, 0x99]) State.reset) = some ⟨7, .unknown, []⟩ ∧
    said .desk1 (after (.unknownRequest .desk1 [7]) State.reset) = some ⟨7, .malformed, []⟩ ∧
    said .desk1 (after (.badCrcFrame .desk1 [7, 1]) State.reset) = none ∧
    said .desk1 (after (.override .desk1 7 true) State.reset) = some ⟨7, .denied, []⟩ := by decide +kernel

/-- R174: STATUS of a part just reset: no session, POWER with the store cleared, one urgent notice. -/
theorem test_status : said .console (after (.status .console 7) State.reset) =
    some ⟨7, .done, [0, 0, 0, 0, 0, 0, 0, 0, 0, 0, 1, 1, 0, 0]⟩ := by decide +kernel

/-- R175: ten of the 32 booths fit, and the eleventh is the next. -/
theorem test_read_table : ((said .console (after (.readTable .console 7 2 0 255 0) State.reset)).map
    (fun f => (f.payload.length, f.payload.take 4))) = some (234, [10, 1, 0, 11]) := by decide +kernel

/-- Section 11.8.2: a wait, cancelled by the next frame, with the timeout applied. -/
def quiet : State := State.reset.setPort .desk2 { State.reset.port .desk2 with urgent := [] }
theorem test_wait : ((after (.status .desk2 19) (after (.noticeWait .desk2 18 60) quiet)).port .desk2).transmit.map
      (fun f => (f.tag, f.answer)) = [(18, .cancelled), (19, .done)] ∧
    said .desk2 (after (.noticeWaitTimeout .desk2) (after .secondEvent (after (.noticeWait .desk2 18 0) quiet))) =
      some ⟨18, .empty, [1]⟩ := by decide +kernel

/-- R176, R179: bit 15 names no kind; the fetch of the one notice. -/
theorem test_notices : said .desk1 (after (.subscribe .desk1 7 0x8000) State.reset) = some ⟨7, .badArg, []⟩ ∧
    said .desk1 (after (.subscribe .desk1 7 0x0003) State.reset) = some ⟨7, .done, [0, 2]⟩ ∧
    said .desk1 (after (.noticeFetch .desk1 7) State.reset) = some ⟨7, .done, [1, 0, 0, 0, 0, 0, 0, 1]⟩ := by decide +kernel

/-- R8, R12: DEVICE_RESET leaves no response, and a COMMAND start. -/
theorem test_device_reset : (after (.deviceReset .console 7) hired).gen.start = ⟨.command, false⟩ ∧
    said .console (after (.deviceReset .console 7) hired) = none := by decide +kernel

theorem test_clock_set : (after (.clockSet .console 7 3600) State.reset).clock = 3600 ∧
    said .console (after (.clockSet .console 7 3600) hired) = some ⟨7, .inUse, []⟩ := by decide +kernel

/-- R14, R15: definition, a tag that another slot holds, removal. -/
theorem test_languages : ((after (.langDefine .console 7 5 620 [0x50, 0x54]) State.reset).slot 5).name = some ⟨620, [0x50, 0x54]⟩ ∧
    said .console (after (.langDefine .console 7 5 10 [0x50]) (hall .first .last)) = some ⟨7, .inUse, []⟩ ∧
    said .console (after (.langRemove .console 7 0) (hall .first .last)) = some ⟨7, .inUse, []⟩ := by decide +kernel

/-- Section 2.8.2: a language moves to a channel with no slot: HOLDING there, UNASSIGNED where it was. -/
theorem test_move :
    let t := after (.chanAssign .console 7 7 ⟨1, 2, ⟨0, 0⟩, 20, 45⟩) (hall .first .last)
    said .console t = some ⟨7, .done, [20, 45]⟩ ∧ t.chan 6 = ⟨.holding, none, .floor, 20, false⟩ ∧
    t.chan 1 = ⟨.unassigned, none, .silent, 0, false⟩ ∧ (t.slot 1).channel = some 6 ∧ t.ret.dirSeq = 1 := by decide +kernel

/-- Section 2.8.3: a language leaves the plan, and the credit of its listener is closed. -/
theorem test_off_plan :
    let t := after (.chanAssign .console 7 6 ⟨0xFF, 0, ⟨0, 0⟩, 2, 10⟩) listening
    t.chan 5 = ⟨.unassigned, none, .silent, 0, false⟩ ∧ (t.hire? 1).map (fun h => h.lines.map Line.credit) = some [845] ∧
    (t.receiver 7).tuned = none ∧ t.ret.listeners.get 6 = 0 := by decide +kernel

/-- R28: the override routes the floor to every assigned channel. -/
theorem test_override :
    let t := after (.override .console 7 true) (onAir 0 0 0 (hall .first .last))
    effectiveRoute t 0 = .floor ∧ (t.chan 0).source = .booth 0 ∧ effectiveRoute t 2 = .silent ∧ t.ret.dirSeq = 1 := by
  decide +kernel

theorem test_refresh : (after (.routeRefresh .console 7) { State.reset with gen.routeSending := none, gen.routeList := [] }).gen.routeList.length = 87 := by
  decide +kernel

/-- R36, R37: an offer time below 5 is clamped; an auto-floor of no value is BAD_ARG; a booth with a live seat is IN_USE. -/
theorem test_booth_set : said .console (after (.boothSet .console 7 9 ⟨2, 3, none, 1, 0, 1⟩) State.reset) = some ⟨7, .done, [5]⟩ ∧
    said .console (after (.boothSet .console 7 9 ⟨2, 3, none, 1, 0, 2⟩) State.reset) = some ⟨7, .badArg, []⟩ ∧
    said .console (after (.boothSet .console 7 1 ⟨2, 3, none, 1, 0, 1⟩) (onAir 0 0 0 (hall .first .last))) = some ⟨7, .inUse, []⟩ := by
  decide +kernel

/-- R38, R51: the console clears a booth, or cuts its live seat. -/
theorem test_booth_clear_cut :
    let s := onAir 0 0 0 (hall .first .last)
    (after (.boothClear .console 7 1) s).boothSettings 0 = none ∧
    ((after (.boothClear .console 7 1) s).chan 0).coverage = .holding ∧
    ((after (.boothCut .console 7 1) s).booth 0).indication = some .cut ∧
    said .console (after (.boothCut .console 7 2) s) = some ⟨7, .wrongState, []⟩ := by decide +kernel

/-- R102 to R104: the register. -/
theorem test_register : (after (.receiverEnrol .console 7 9 900) State.reset).receiver 9 =
      ⟨some 900, .stock, none, none, none, none, false, false, 0⟩ ∧
    said .console (after (.receiverEnrol .console 7 9 700) hired) = some ⟨7, .inUse, []⟩ ∧
    said .console (after (.receiverWithdraw .console 7 7) hired) = some ⟨7, .wrongState, []⟩ ∧
    said .console (after (.receiverReinstate .console 7 7) hired) = some ⟨7, .wrongState, []⟩ ∧
    said .console (after (.receiverClearFlags .console 7 4096) hired) = some ⟨7, .badArg, []⟩ ∧
    said .console (after (.hallSet .console 7 0x1234) hired) = some ⟨7, .done, [0, 0, 0x12, 0x34]⟩ := by decide +kernel

/-- R122: the ticket after 65,535 is 1, or the next that no open hire holds. -/
theorem test_hire_open :
    said .desk1 (after (.hireOpen .desk1 7 0 100 none) (priced { hired with ret.nextTicket := 65535 })) =
      some ⟨7, .done, [0xFF, 0xFF, 0, 0, 0, 0, 0, 0, 0, 0, 0]⟩ ∧
    (after (.hireOpen .desk1 7 0 100 none) (priced hired)).ret.nextTicket = 3 ∧
    said .desk1 (after (.hireOpen .desk1 7 0 100 none) hired) = some ⟨7, .wrongState, []⟩ := by decide +kernel

/-- R124, R125: ISSUE of a receiver in stock, and of one that is out. -/
theorem test_issue : ((after (.issue .desk1 7 1 9) (hired.setReceiver 9 ⟨some 900, .stock, none, none, none, none, true, false, 0⟩)).receiver 9) =
      ⟨some 900, .hired, some ⟨1, 1⟩, none, none, none, false, false, 1⟩ ∧
    said .desk1 (after (.issue .desk1 7 1 7) hired) = some ⟨7, .wrongState, []⟩ := by decide +kernel

/-- R126 to R128: a return, a loss, and a loss reversed. -/
theorem test_return_and_lost : ((after (.returnReceiver .desk1 7 7) hired).receiver 7).state = .stock ∧
    (after (.lost .desk1 7 7) hired).ret.hires = [(1, ⟨0, 5000, .desk1, 0, some 60, false, 5, [⟨7, 0, some 0, .lost, 0⟩]⟩)] ∧
    (after (.returnReceiver .desk1 7 7) gone).ret.hires = [(1, ⟨0, 5000, .desk1, 0, none, false, 5, [⟨7, 0, some 0, .back, 0⟩]⟩)] := by
  decide +kernel

/-- R131: a hand-back above the deposit is refused. -/
theorem test_deposit : said .desk1 (after (.depositAdjust .desk1 7 1 true 5001) hired) = some ⟨7, .badArg, []⟩ ∧
    said .desk1 (after (.depositAdjust .desk1 7 1 true 1000) hired) = some ⟨7, .done, [0, 0, 0x0F, 0xA0, 0, 0, 0, 5]⟩ := by
  decide +kernel

/-- R132, R133: a due time that has passed brings the alarm at once; the alarm of a second event. -/
theorem test_due : said .desk1 (after (.hireDue .desk1 7 1 (some 0)) hired) = some ⟨7, .done, [1, 0, 0, 0, 0, 1]⟩ ∧
    ((after .dueAlarm (after .secondEvent { hired with clock := 59 })).hire? 1).map Hire.overdue = some true := by decide +kernel

theorem test_tariff : said .console (after (.tariffSet .console 7 0 ⟨true, 59, 0, 1, 0, 0⟩) State.reset) = some ⟨7, .badArg, []⟩ ∧
    said .console (after (.tariffSet .console 7 0 ⟨true, 60, 0, 1, 0, 0⟩) State.reset) = some ⟨7, .done, [0, 0, 1]⟩ := by
  decide +kernel

/-- R155, R158: a quote of the hire that is out, accepted, started and completed. -/
theorem test_quote :
    let s := after .quoteCompletion (after .jobStart (after (.quote .desk1 7 1 0) (priced hired)))
    (said .desk1 s).map (fun f => (f.tag, f.answer, f.payload.length)) = some (7, .done, 70) ∧ s.ret = (priced hired).ret := by
  decide +kernel

/-- R160 to R164: a close that commits: the accounts of section 9.5 for one LOST line of no duration: 9,500 against 5,000. -/
theorem test_close :
    let s := after .jobStart (after (.close .desk1 7 ⟨1, 4, 3, 1, 0⟩) (priced (opened gone)))
    let t := after .closeCompletion s
    (said .desk1 t).map (fun f => (f.tag, f.answer, f.payload.length)) = some (7, .done, 71) ∧ t.ret.hires = [] ∧
    t.ret.accounts.lossFees = 9500 ∧ t.ret.accounts.depositsApplied = 5000 ∧ t.ret.accounts.collected = 4500 ∧
    t.ret.counters = ⟨0, 1, 4500, 0⟩ ∧ (t.receiver 7).link = none ∧ (t.receiver 7).state = .lost := by decide +kernel

/-- R160, R161: a token that has moved, and a condition that does not hold. -/
theorem test_close_refused :
    said .desk1 (after .jobStart (after (.close .desk1 7 ⟨1, 3, 3, 1, 0⟩) (priced gone))) = some ⟨7, .stale, []⟩ ∧
    ((said .desk1 (after .closeCompletion (after .jobStart (after (.close .desk1 7 ⟨1, 4, 3, 2, 0⟩) (priced gone))))).map
      TxFrame.answer) = some .conditionFalse := by decide +kernel

/-- R165, R167: a session opens, its statement is taken and read, and it closes. -/
theorem test_session :
    let s := after (.sessionOpen .console 7) (hall .first .last)
    let t := after .jobStart (after (.snapshot .desk1 8) s)
    said .console s = some ⟨7, .done, [0, 1, 0, 0, 0, 0]⟩ ∧ said .desk1 t = some ⟨8, .done, [0, 0, 0, 0, 2, 7]⟩ ∧
    (said .desk2 (after (.snapshotRead .desk2 9 0 0 5) t)).map (fun f => f.payload.length) = some 38 ∧
    (after .jobStart (after (.sessionClose .console 9) s)).ret.session = ⟨.closed, 1, some 0, some 0⟩ := by decide +kernel

theorem test_accounts_clear : (after (.accountsClear .console 7) { hired with ret.accounts.collected := 9 }).ret.accounts = Accounts.zero := by
  decide +kernel

theorem test_response_sent : ((after (.responseFrameSent .desk1) (after (.status .desk1 7) State.reset)).port .desk1).transmit = [] := by
  decide +kernel

/-- The queue: the front command is taken; an empty queue idles (log 2). -/
theorem test_step : step { State.reset with pending := [.clockSet .console 7 5, .pollStart] } =
    exec (.clockSet .console 7 5) { State.reset with pending := [.pollStart] } := rfl

/-! ## A concrete state and operands for the hypotheses of every statement

`witness_X` meets the hypotheses of `Obligations.X`; a letter or a word names the clause. -/

theorem reset_awake : Awake State.reset := awake_of (by decide)
theorem reset_ready (p : Port) : Ready p State.reset := ready_of (by cases p <;> decide)

theorem witness_StepTakesTheFront :
    ({ State.reset with pending := [.pollStart] } : State).pending = .pollStart :: [] ∧ State.reset.pending = [] :=
  ⟨rfl, rfl⟩

theorem witness_EventsAreTakenInTheirTurn :
    (held.running = true ∧ isInput .pollStart = false ∧ isExpiry .pollStart = false) ∧
    (held.gen.due ≠ [] ∧ held.clock < 4294967295 ∧ held.breaks.get .desk1 = false ∧
      ({ held with breaks := ⟨false, true, false⟩ } : State).running = true ∧
      ({ held with breaks := ⟨false, true, false⟩ } : State).breaks.get .desk1 = true) ∧
    (off.running = false ∧ isInput .pollStart = false) := by decide +kernel

def under : State := { off with lineAsserted := true }
theorem witness_SuppliesFailAndReturn :
    (off.supply ≠ .main ∧ off.mark = .invalid ∧ off.lineAsserted = false) ∧
    (under.supply ≠ .main ∧ under.mark = .invalid ∧ under.lineAsserted = true) ∧
    (hired.supply = .main ∧ hired.gen.due = []) ∧ (hired.lineAsserted = false ∧ hired.gen.due = []) := by decide

def heldLine : State := { hired with lineAsserted := true }
def heldPower : State := after .powerOn { under with mark := .valid }
/-- The line is released after a power-on that it held, with the mark VALID; and asserted at such a power-on. -/
theorem witness_GeneralResetValues :
    (({ off with mark := .valid } : State).supply ≠ .main ∧ ({ off with mark := .valid } : State).mark = .valid ∧
      ({ off with mark := .valid } : State).lineAsserted = false) ∧
    (heldLine.supply = .main ∧ heldLine.lineAsserted = true ∧ heldLine.heldStart = none) ∧
    (heldPower.supply = .main ∧ heldPower.lineAsserted = true ∧ heldPower.heldStart = some false) ∧
    (({ under with mark := .valid } : State).supply ≠ .main ∧ ({ under with mark := .valid } : State).mark = .valid ∧
      ({ under with mark := .valid } : State).lineAsserted = true) ∧ Ready .console hired :=
  ⟨by decide, by decide, by decide, by decide, ready_of (by decide)⟩

def broken : State := { State.reset with breaks := ⟨false, true, false⟩ }
theorem witness_BreakResetsOnePort :
    (Awake State.reset ∧ State.reset.breaks.get .desk1 = false) ∧ (Awake broken ∧ broken.breaks.get .desk1 = true) :=
  ⟨⟨reset_awake, rfl⟩, awake_of (by decide), rfl⟩

/-- The last advance that the clock makes. -/
theorem witness_SecondEventCounts :
    Awake { across 1 with clock := 4294967294 } ∧ ({ across 1 with clock := 4294967294 } : State).clock < 4294967295 :=
  ⟨awake_of (by decide +kernel), by decide⟩

theorem witness_ClockRunsAndIsSet :
    (({ State.reset with clock := 4294967295 } : State).clock = 4294967295) ∧
    (off.supply ≠ .none ∧ off.running = false ∧ off.clock < 4294967295) ∧
    (Ready .console hired ∧ hired.ret.hires ≠ []) ∧
    (Ready .console (opened State.reset) ∧ (opened State.reset).ret.session.state = .opened) ∧
    (Ready .console State.reset ∧ State.reset.ret.hires = [] ∧ State.reset.ret.session.state ≠ .opened) :=
  ⟨rfl, by decide, ⟨ready_of (by decide), by decide⟩, ⟨ready_of (by decide), rfl⟩, reset_ready _, rfl, by decide⟩

/-- The hall with nobody live. -/
def calm : State := hall .first .last
theorem calm_plan : PlanAgrees calm.ret := plan_of (by decide +kernel)
theorem calm_hall : HallAgrees calm := hall_of (by decide +kernel)
theorem calm_listening : ListeningAgrees calm := listening_of (by decide +kernel)
theorem calm_ready : Ready .console calm := ready_of (by decide +kernel)

/-- Slot 32 is out of range; slot 31 with a label of one and of twelve characters is in it; a tag of another slot, and an
assigned slot with another tag. -/
theorem witness_LanguagesDefinedAndRemoved :
    Ready .console calm ∧ PlanAgrees calm.ret ∧ 32 ≤ (32 : Byte).toNat ∧
    ((31 : Byte).toNat = (31 : Slot).val ∧ (620 : Half) ≠ 0 ∧
      (∀ b ∈ ([0x20] : List Byte), 0x20 ≤ b.toNat ∧ b.toNat ≤ 0x7E) ∧
      (∀ b ∈ List.replicate 12 (0x7E : Byte), 0x20 ≤ b.toNat ∧ b.toNat ≤ 0x7E) ∧
      (∀ j : Slot, j ≠ 31 → (calm.slot j).name.all (fun n => n.tag != (620 : Half).toNat)) ∧
      (calm.slot 31).channel = none ∧ (calm.slot 31).name = none) ∧
    ((calm.slot 0).name.map LangName.tag = some (10 : Half).toNat) ∧
    ((calm.slot 0).channel ≠ none ∧ (calm.slot 0).name.map LangName.tag ≠ some (620 : Half).toNat) ∧
    ((calm.slot 0).name ≠ none ∧ (calm.slot 0).channel ≠ none) ∧
    (((calm.setSlot 4 ⟨some ⟨40, [0x41]⟩, none, 0, 0, 0, 0⟩).slot 4).name ≠ none ∧
      ((calm.setSlot 4 ⟨some ⟨40, [0x41]⟩, none, 0, 0, 0, 0⟩).slot 4).channel = none) :=
  ⟨calm_ready, calm_plan, by decide, by decide +kernel, by decide +kernel, by decide +kernel, by decide +kernel,
    by decide +kernel⟩

/-- A target, a slot and a fallback one past their ranges; a FLOOR with a number (log 16). -/
theorem witness_AssignRefused_arguments :
    Ready .console calm ∧ assignOf 0 ⟨0, 0, ⟨0, 0⟩, 2, 10⟩ = none ∧ assignOf 25 ⟨0, 0, ⟨0, 0⟩, 2, 10⟩ = none ∧
    assignOf 24 ⟨32, 0, ⟨0, 0⟩, 2, 10⟩ = none ∧ assignOf 24 ⟨31, 3, ⟨0, 0⟩, 2, 10⟩ = none ∧
    assignOf 24 ⟨31, 2, ⟨3, 1⟩, 2, 10⟩ = none ∧ assignOf 24 ⟨31, 2, ⟨2, 25⟩, 2, 10⟩ = none ∧
    assignOf 24 ⟨31, 2, ⟨0, 1⟩, 2, 10⟩ = none ∧ assignOf 24 ⟨0xFF, 2, ⟨2, 24⟩, 61, 4⟩ ≠ none :=
  ⟨calm_ready, by decide +kernel⟩

def movesOk (s : State) (a : Assign) (c : Chan) : Bool :=
  c != a.target && a.slot.any (fun k => (s.slot k).channel == some c)

theorem moves_iff (s : State) (a : Assign) (c : Chan) : movesOk s a c = true ↔ MovesFrom s a c := by
  simp [movesOk, MovesFrom, Option.any_eq_true]

/-- `AssignFails`, as a check that computes. -/
def failsOk (s : State) (a : Assign) : Nat → Bool
  | 2 => a.slot.any (fun k => (s.slot k).name.isNone)
  | 3 => (s.chan a.target).coverage == .covered
  | 4 => (List.finRange 24).any (fun c => movesOk s a c && (s.chan c).coverage == .covered)
  | 5 => a.fallback == .channel a.target
  | 6 => (List.finRange 24).any (fun x => a.fallback == .channel x &&
      (if x = a.target then a.slot.isNone else (s.settings x).slot.isNone || movesOk s a x))
  | 7 => (List.finRange 24).any (fun x => a.fallback == .channel x &&
      (List.finRange 24).any (fun y => (s.settings x).fallback == .channel y))
  | 8 => (List.finRange 24).any (fun x => a.fallback == .channel x) &&
      (List.finRange 24).any (fun d => d != a.target && (s.settings d).fallback == .channel a.target)
  | 9 => (List.finRange 24).any (fun c => ((c == a.target && a.slot.isNone) || movesOk s a c) &&
      (List.finRange 24).any (fun d => d != c && d != a.target && (s.settings d).fallback == .channel c))
  | _ => false

theorem fails_iff (s : State) (a : Assign) (n : Nat) : failsOk s a n = true ↔ AssignFails s a n := by
  match n with
  | 0 | 1 => simp [failsOk, AssignFails]
  | 2 => simp [failsOk, AssignFails, Option.any_eq_true]
  | 3 | 5 => simp [failsOk, AssignFails]
  | 4 => simp [failsOk, AssignFails, moves_iff]
  | 6 =>
    simp only [failsOk, AssignFails, List.any_eq_true, List.mem_finRange, true_and, Bool.and_eq_true, beq_iff_eq]
    refine exists_congr (fun x => and_congr_right (fun _ => ?_))
    split <;> simp [moves_iff]
  | 7 => simp [failsOk, AssignFails]
  | 8 => simp [failsOk, AssignFails]
  | 9 => simp [failsOk, AssignFails, moves_iff, and_assoc]
  | _ + 10 => simp [failsOk, AssignFails]

theorem first_fail {s : State} {a : Assign} {n : Nat}
    (h : (failsOk s a n && (List.range n).all (fun m => !failsOk s a m)) = true) :
    AssignFails s a n ∧ ∀ m, m < n → ¬ AssignFails s a m := by
  simp only [Bool.and_eq_true, List.all_eq_true, List.mem_range, Bool.not_eq_true'] at h
  refine ⟨(fails_iff ..).mp h.1, fun m hm hf => ?_⟩
  have := h.2 m hm
  rw [(fails_iff ..).mpr hf] at this
  cases this

theorem no_fail {s : State} {a : Assign} (h : (List.range 10).all (fun m => !failsOk s a m) = true) (n : Nat) :
    ¬ AssignFails s a n := by
  simp only [List.all_eq_true, List.mem_range, Bool.not_eq_true'] at h
  intro hf
  rcases Nat.lt_or_ge n 10 with hn | hn
  · have := h n hn
    rw [(fails_iff ..).mpr hf] at this
    cases this
  · obtain ⟨k, rfl⟩ := Nat.exists_eq_add_of_le hn
    rw [Nat.add_comm] at hf
    exact hf

/-- Each check of R17, 2 to 9, is the first that fails for some request. -/
theorem witness_AssignRefused_checks :
    (Ready .console calm ∧ Ready .console (onAir 0 0 0 calm)) ∧
    ([(5, ⟨9, 0, ⟨0, 0⟩, 2, 10⟩, 2), (6, ⟨0xFF, 0, ⟨2, 6⟩, 2, 10⟩, 5), (6, ⟨0xFF, 0, ⟨2, 7⟩, 2, 10⟩, 6),
      (6, ⟨0xFF, 0, ⟨2, 2⟩, 2, 10⟩, 7), (1, ⟨0, 0, ⟨2, 3⟩, 2, 10⟩, 8), (1, ⟨0xFF, 0, ⟨0, 0⟩, 2, 10⟩, 9)].all
      (fun (e : Byte × AssignArgs × Nat) => (assignOf e.1 e.2.1).any (fun a =>
        let s := assigned 2 2 12 .first .floor 2 calm
        failsOk s a e.2.2 && (List.range e.2.2).all (fun m => !failsOk s a m))) = true) ∧
    ([(1, ⟨0, 0, ⟨0, 0⟩, 2, 10⟩, 3), (6, ⟨0, 0, ⟨0, 0⟩, 2, 10⟩, 4)].all
      (fun (e : Byte × AssignArgs × Nat) => (assignOf e.1 e.2.1).any (fun a =>
        failsOk (onAir 0 0 0 calm) a e.2.2 && (List.range e.2.2).all (fun m => !failsOk (onAir 0 0 0 calm) a m))) = true) :=
  ⟨⟨calm_ready, ready_of (by decide +kernel)⟩, by decide +kernel, by decide +kernel⟩

/-- The same as hypotheses of the statement, for check 3. -/
theorem witness_AssignRefused : Ready .console (onAir 0 0 0 calm) ∧
    assignOf 1 ⟨0, 0, ⟨0, 0⟩, 2, 10⟩ = some ⟨0, some 0, .first, .floor, 2, 10⟩ ∧
    AssignFails (onAir 0 0 0 calm) ⟨0, some 0, .first, .floor, 2, 10⟩ 3 ∧
    ∀ m, m < 3 → ¬ AssignFails (onAir 0 0 0 calm) ⟨0, some 0, .first, .floor, 2, 10⟩ m :=
  ⟨ready_of (by decide +kernel), by decide +kernel, first_fail (by decide +kernel)⟩

/-- Slot 0 moves from channel 1 to channel 6 once nothing falls back on channel 1; gap hold 61 and offer time 4 are clamped. -/
def moving : State := hall .first .last |>.setSettings 1 ⟨some 1, .last, .floor, 5, 10⟩
theorem witness_AssignAccepted : Ready .console moving ∧
    assignOf 6 ⟨0, 0, ⟨0, 0⟩, 61, 4⟩ = some ⟨5, some 0, .first, .floor, 60, 5⟩ ∧
    ∀ n, ¬ AssignFails moving ⟨5, some 0, .first, .floor, 60, 5⟩ n :=
  ⟨ready_of (by decide +kernel), by decide +kernel, no_fail (by decide +kernel)⟩

/-- The same with gap hold 0: the target enters the plan UNCOVERED. -/
theorem witness_AssignAccepted_atOnce : assignOf 6 ⟨0, 0, ⟨0, 0⟩, 0, 4⟩ = some ⟨5, some 0, .first, .floor, 0, 5⟩ ∧
    (∀ n, ¬ AssignFails moving ⟨5, some 0, .first, .floor, 0, 5⟩ n) ∧
    entersPlan moving ⟨5, some 0, .first, .floor, 0, 5⟩ = true :=
  ⟨by decide +kernel, no_fail (by decide +kernel), by decide +kernel⟩

theorem no_hires {r : Retained} (h : r.hires = [] ∧ r.nextTicket = 1) : HiresLawful r :=
  ⟨by rw [h.1]; exact List.Pairwise.nil, by rw [h.1]; decide,
    by rw [h.1]; exact fun e he => absurd he List.not_mem_nil, by rw [h.2]; decide⟩

theorem one_link {r : Retained} {n t : Nat} {h : Hire} {l : Line} {x : Receiver} (hr : r.receivers = [(n, x)])
    (hh : r.hires = [(t, h)]) (hl : h.lines = [l]) (hn : n < 4096) (h1 : l.receiver = n) (h2 : l.state = .out)
    (h3 : x.state = .hired) (h4 : x.link = some ⟨t, 0⟩) : LinksAgree r := by
  have rec' : ∀ m, r.receiver m = if n = m then x else Receiver.unenrolled := by
    intro m
    unfold Retained.receiver
    rw [hr, Table.find?_cons]
    split <;> rfl
  have line' : ∀ link k, r.line? link = some k → link = ⟨t, 0⟩ ∧ k = l := by
    intro link k e
    unfold Retained.line? at e
    rw [hh, Table.find?_cons] at e
    split at e
    · next ht =>
      simp only [Option.bind_some, hl] at e
      obtain ⟨a, b⟩ := link
      cases b with
      | zero => simp only [List.getElem?_cons_zero, Option.some.injEq] at e; exact ⟨by simp_all, e.symm⟩
      | succ b => simp at e
    · simp at e
  have here : r.line? ⟨t, 0⟩ = some l := by
    unfold Retained.line?
    rw [hh, Table.find?_cons]
    simp [hl]
  refine ⟨by rw [hr]; exact List.pairwise_singleton .., by rw [hr]; intro e he; simp_all, ?_, ?_, ?_, ?_, ?_⟩
  · intro m hm
    rw [rec'] at hm ⊢
    split at hm
    · next e => exact ⟨⟨t, 0⟩, l, by rw [if_pos e, h4], here, by rw [h1, e], h2⟩
    · cases hm
  · intro m link hm
    rw [rec'] at hm
    split at hm
    · rw [h3] at hm; cases hm
    · cases hm
  · intro m hm
    rw [rec'] at hm ⊢
    split at hm
    · next e => rw [if_pos e]; exact .inl h3
    · simp [Receiver.unenrolled] at hm
  · intro link k e _
    obtain ⟨rfl, rfl⟩ := line' link k e
    rw [rec', if_pos h1.symm]
    exact ⟨h3, h4⟩
  · intro link k e hs
    obtain ⟨rfl, rfl⟩ := line' link k e
    rw [h2] at hs; cases hs

theorem one_hire {r : Retained} {t : Nat} {h : Hire} (hh : r.hires = [(t, h)]) (ht : 1 ≤ t ∧ t ≤ 65535)
    (hl : h.lines.length ≤ 16) (hn : 1 ≤ r.nextTicket ∧ r.nextTicket ≤ 65535) : HiresLawful r :=
  ⟨by rw [hh]; exact List.pairwise_singleton .., by rw [hh]; simp, by rw [hh]; intro e he; simp_all, hn⟩

/-- Slot 6 leaves the plan while receiver 7 listens to it. -/
theorem witness_AssignClosesCredit : Ready .console listening ∧
    assignOf 6 ⟨0xFF, 0, ⟨0, 0⟩, 2, 10⟩ = some ⟨5, none, .first, .floor, 2, 10⟩ ∧
    (∀ n, ¬ AssignFails listening ⟨5, none, .first, .floor, 2, 10⟩ n) ∧ HiresLawful listening.ret ∧
    LinksAgree listening.ret :=
  ⟨ready_of (by decide +kernel), by decide +kernel, no_fail (by decide +kernel),
    one_hire (t := 1) rfl (by decide) (by decide) (by decide),
    one_link (n := 7) (t := 1) rfl rfl rfl (by decide) rfl rfl rfl rfl⟩

theorem witness_OverrideSwitches : Ready .console calm ∧ calm.gen.override = false ∧ calm.gen.override ≠ true :=
  ⟨calm_ready, by decide +kernel⟩

/-- Booth 3 listens to channel 1 with auto-floor, and the hold of channel 1 has run out. -/
def gap : State :=
  let s := after .secondEvent (calm.setChan 0 ⟨.holding, none, .booth 0, 1, false⟩)
  (s.setBoothSettings 2 (some ⟨2, 1, none, .timed, 10, true⟩)).setBooth 2
    { s.booth 2 with chosen := .channel 0, effective := .channel 0 }
theorem witness_GapHoldExpires : gap.running = true ∧ ListeningAgrees gap ∧ Due.gapHold 0 ∈ gap.gen.due ∧
    (gap.chan 0).coverage = .holding ∧ (gap.chan 0).remaining = 0 ∧ fallenBooths gap 0 = [2] :=
  ⟨by decide +kernel, listening_of (by decide +kernel), by decide +kernel⟩

def repeatDue : State := after .secondEvent (after .secondEvent State.reset)
def idleLine : State := { State.reset with gen.routeSending := none, gen.routeList := [] }
theorem witness_LinesSendOnAndRefresh :
    (repeatDue.running = true ∧ Due.directory ∈ repeatDue.gen.due ∧ 2 ≤ repeatDue.gen.dirCount) ∧
    (Awake State.reset ∧ State.reset.gen.dirSending = some ⟨emptyDirectory, 0⟩) ∧
    (State.reset.gen.routeSending = some (.route 0 .silent)) ∧
    (Ready .console State.reset ∧ RouteListed State.reset) ∧ (Ready .console idleLine ∧ RouteListed idleLine) :=
  ⟨by decide +kernel, ⟨reset_awake, rfl⟩, rfl, ⟨reset_ready _, by decide +kernel, by decide⟩, ready_of (by decide),
    by decide, by decide⟩

/-! ### Seats and offers -/

/-- Booth 4 has output A on channel 6, which carries no language. -/
def idleBooth : State := seated 3 ⟨3, 5, none, .courtesy, 10, false⟩ calm
def uncovered : State := calm.setChan 0 ⟨.uncovered, none, .floor, 0, false⟩
theorem witness_SeatOnTakesAFreeChannel :
    (Handing (handing 3 (.seatOn 3) idleBooth) 3 ⟨3, 5, none, .courtesy, 10, false⟩ (.seatOn 3) [] ∧
      Names ⟨3, 5, none, .courtesy, 10, false⟩ 3 2 ∧ idleBooth.seat 3 2 = .off ∧
      NoneLive (handing 3 (.seatOn 3) idleBooth) 3 ∧ (idleBooth.chan 5).coverage = .unassigned) ∧
    (Handing (handing 0 (.seatOn 1) calm) 0 bothWays (.seatOn 1) [] ∧ Names bothWays 1 0 ∧
      NoneLive (handing 0 (.seatOn 1) calm) 0 ∧ (calm.chan 0).coverage = .holding) ∧
    (Handing (handing 0 (.seatOn 1) uncovered) 0 bothWays (.seatOn 1) [] ∧
      NoneLive (handing 0 (.seatOn 1) uncovered) 0 ∧ (uncovered.chan 0).coverage = .uncovered) := by
  refine ⟨⟨handing_of (by decide +kernel), ⟨by decide, by decide⟩, by decide +kernel, ?_, by decide +kernel⟩,
    ⟨handing_of (by decide +kernel), ⟨by decide, by decide⟩, ?_, by decide +kernel⟩,
    handing_of (by decide +kernel), ?_, by decide +kernel⟩ <;> (unfold NoneLive; decide +kernel)

/-- Booth 1 seat 1 holds channel 1 under `y`; booth 2 presses seat 2. -/
def contested (y : ClaimPolicy) : State := handing 1 (.seatOn 2) (onAir 0 0 0 (hall y .last))
theorem contested_met (y : ClaimPolicy) : Handing (contested y) 1 direct (.seatOn 2) [] ∧ Names direct 2 1 ∧
    (contested y).seat 1 1 = .off ∧ NoneLive (contested y) 1 ∧ selectedChan direct ((contested y).booth 1) = 0 ∧
    ((contested y).chan 0).coverage = .covered ∧ ((contested y).chan 0).holder = some ⟨0, 0⟩ ∧
    HallAgrees (contested y) ∧ ((contested y).settings 0).policy = y ∧ (contested y).offer 0 = none := by
  cases y <;>
  refine ⟨handing_of (by decide +kernel), ⟨by decide, by decide⟩, by decide +kernel, ?_, by decide +kernel,
    by decide +kernel, by decide +kernel, hall_of (by decide +kernel), by decide +kernel, by decide +kernel⟩ <;>
  (unfold NoneLive; decide +kernel)

/-- A third booth claims channel 1 while an offer stands on it. -/
def crowded : State := handing 2 (.seatOn 1) (across 9)
theorem witness_SeatOnMeetsAHolder :
    (∀ y, Handing (contested y) 1 direct (.seatOn 2) [] ∧ HallAgrees (contested y) ∧
      ((contested y).settings 0).policy = y ∧ (contested y).offer 0 = none) ∧
    (Handing crowded 2 timed (.seatOn 1) [] ∧ Names timed 1 0 ∧ NoneLive crowded 2 ∧ (crowded.chan 0).coverage = .covered ∧
      HallAgrees crowded ∧ (crowded.settings 0).policy = .offer ∧ crowded.offer 0 ≠ none) := by
  refine ⟨fun y => ⟨(contested_met y).1, (contested_met y).2.2.2.2.2.2.2⟩, handing_of (by decide +kernel),
    ⟨by decide, by decide⟩, ?_, by decide +kernel, hall_of (by decide +kernel), by decide +kernel, by decide +kernel⟩
  unfold NoneLive; decide +kernel

/-- Booth 2, DIRECT, and booth 1, COURTESY, with a live seat; booth 1 with an offer that stands. -/
def directPair : State := handing 1 (.seatOn 2) (waits 0 0 1 0 0 9 (onAir 1 0 0 (hall .offer .last)))
def courtesyPair : State := handing 0 (.seatOn 2) (onAir 0 0 0 calm)
def busyPair : State := handing 0 (.seatOn 3) (waits 0 1 0 0 0 8 (onAir 0 0 0 calm))
theorem witness_SeatOnWithinABooth :
    (Handing directPair 1 direct (.seatOn 2) [] ∧ Names direct 2 1 ∧ directPair.seat 1 1 = .off ∧
      isLive (directPair.seat 1 0) = true ∧ HallAgrees directPair ∧ direct.mode = .direct ∧
      (directPair.offer 0).map Offer.kind = some .across) ∧
    (Handing courtesyPair 0 bothWays (.seatOn 2) [] ∧ isLive (courtesyPair.seat 0 0) = true ∧ HallAgrees courtesyPair ∧
      bothWays.mode ≠ .direct ∧ courtesyPair.offer 0 = none) ∧
    (Handing busyPair 0 bothWays (.seatOn 3) [] ∧ Names bothWays 3 2 ∧ isLive (busyPair.seat 0 0) = true ∧
      HallAgrees busyPair ∧ busyPair.offer 0 ≠ none) :=
  ⟨⟨handing_of (by decide +kernel), ⟨by decide, by decide⟩, by decide +kernel, by decide +kernel,
      hall_of (by decide +kernel), rfl, by decide +kernel⟩,
    ⟨handing_of (by decide +kernel), by decide +kernel, hall_of (by decide +kernel), by decide, by decide +kernel⟩,
    handing_of (by decide +kernel), ⟨by decide, by decide⟩, by decide +kernel, hall_of (by decide +kernel),
    by decide +kernel⟩

/-- Seat 4 of a booth of 3 names no seat, for every kind of event; so does seat 0. -/
theorem witness_UnfitEventsAreIgnored :
    (∀ e ∈ ([.seatOn 4, .seatOff 4, .coughDown 0, .coughUp 0, .give 4] : List ReplyEvent),
      Handing (handing 0 e calm) 0 bothWays e []) ∧ (∀ k, ¬ Names bothWays 4 k ∧ ¬ Names bothWays 0 k) ∧
    (Awake { calm with gen.cycle := .window 0 true }) ∧ (Awake calm ∧ ∀ b v, calm.gen.cycle ≠ .window b v) ∧
    (Awake (handing 4 (.seatOn 1) calm) ∧ (calm.booth 4).presence ≠ .present) := by
  refine ⟨?_, ?_, awake_of (by decide +kernel), ⟨awake_of (by decide +kernel), ?_⟩, awake_of (by decide +kernel),
    by decide +kernel⟩
  · intro e he
    simp only [List.mem_cons, List.not_mem_nil, or_false] at he
    rcases he with rfl | rfl | rfl | rfl | rfl <;> exact handing_of (by decide +kernel)
  · intro k
    refine ⟨fun h => ?_, fun h => ?_⟩
    · exact absurd h.2 (by decide)
    · exact absurd h.1 (by simp)
  · have : calm.gen.cycle = .idle := by decide +kernel
    intro b v h
    rw [this] at h
    cases h

/-- A live seat and a coughing seat of booth 1. -/
def speaking : State := onAir 0 0 0 calm
def coughing : State :=
  speaking.setBooth 0 { speaking.booth 0 with seats := (speaking.booth 0).seats.set 0 .cough, muted := true }
theorem witness_CoughMutesTheBooth : Names bothWays 1 0 ∧
    (Handing (handing 0 (.coughDown 1) speaking) 0 bothWays (.coughDown 1) [] ∧
      HallAgrees (handing 0 (.coughDown 1) speaking) ∧ speaking.seat 0 0 = .live) ∧
    (Handing (handing 0 (.coughUp 1) coughing) 0 bothWays (.coughUp 1) [] ∧
      HallAgrees (handing 0 (.coughUp 1) coughing) ∧ coughing.seat 0 0 = .cough) :=
  ⟨⟨by decide, by decide⟩,
    ⟨handing_of (by decide +kernel), hall_of (by decide +kernel), by decide +kernel⟩,
    handing_of (by decide +kernel), hall_of (by decide +kernel), by decide +kernel⟩

def offered : State := waits 0 1 0 0 0 8 speaking
theorem witness_SeatOffAndGive :
    (Names bothWays 1 0 ∧ Handing (handing 0 (.seatOff 1) coughing) 0 bothWays (.seatOff 1) [] ∧
      HallAgrees (handing 0 (.seatOff 1) coughing) ∧ ListeningAgrees (handing 0 (.seatOff 1) coughing) ∧
      isLive (coughing.seat 0 0) = true) ∧
    (Names bothWays 2 1 ∧ Handing (handing 0 (.seatOff 2) offered) 0 bothWays (.seatOff 2) [] ∧
      HallAgrees (handing 0 (.seatOff 2) offered) ∧ ListeningAgrees (handing 0 (.seatOff 2) offered) ∧
      offered.seat 0 1 = .waiting) ∧
    (Handing (handing 0 (.give 1) offered) 0 bothWays (.give 1) [] ∧ HallAgrees (handing 0 (.give 1) offered) ∧
      ListeningAgrees (handing 0 (.give 1) offered) ∧ isLive (offered.seat 0 0) = true ∧
      (offered.offer 0).map (fun o => (o.holdBooth, o.holdSeat)) = some (0, 0)) :=
  ⟨⟨⟨by decide, by decide⟩, handing_of (by decide +kernel), hall_of (by decide +kernel), listening_of (by decide +kernel),
      by decide +kernel⟩,
    ⟨⟨by decide, by decide⟩, handing_of (by decide +kernel), hall_of (by decide +kernel),
      listening_of (by decide +kernel), by decide +kernel⟩,
    handing_of (by decide +kernel), hall_of (by decide +kernel), listening_of (by decide +kernel), by decide +kernel⟩

/-- Booth 2 waits, and selects its other output; booth 3 has no output B; booth 1 selects what is selected. -/
def leaving : State := handing 1 (.outputSelect .b) (across 9)
theorem witness_OutputSelectOffAir :
    (Handing (handing 0 (.outputSelect .a) calm) 0 bothWays (.outputSelect .a) [] ∧ (calm.booth 0).selection = .a) ∧
    (Handing (handing 2 (.outputSelect .b) calm) 2 timed (.outputSelect .b) [] ∧ timed.outputB = none) ∧
    (Handing leaving 1 direct (.outputSelect .b) [] ∧ (leaving.booth 1).selection ≠ .b ∧ direct.outputB ≠ none ∧
      NoneLive leaving 1 ∧ HallAgrees leaving) := by
  refine ⟨⟨handing_of (by decide +kernel), by decide +kernel⟩, ⟨handing_of (by decide +kernel), rfl⟩,
    handing_of (by decide +kernel), by decide +kernel, by decide, ?_, hall_of (by decide +kernel)⟩
  unfold NoneLive; decide +kernel

/-- Booth 1 live on channel 1 switches to channel 2: UNASSIGNED, held under FIRST, HOLDING, UNCOVERED, held under LAST. -/
def switching (s : State) : State := handing 0 (.outputSelect .b) (onAir 0 0 0 s)
def taken (y : ClaimPolicy) : State :=
  onAir 1 0 1 ((hall .first y).setBooth 1 { (hall .first y).booth 1 with selection := .b })
def bare : State := (calm.setSettings 1 ChanSettings.blank).setChan 1 ⟨.unassigned, none, .silent, 0, false⟩
theorem witness_OutputSwitchOnAir :
    (∀ s ∈ ([bare, taken .first, calm, calm.setChan 1 ⟨.uncovered, none, .channel 0, 0, false⟩, taken .last] : List State),
      Handing (switching s) 0 bothWays (.outputSelect .b) [] ∧ ((switching s).booth 0).selection ≠ .b ∧
      isLive ((switching s).seat 0 0) = true ∧ selectedChan bothWays ((switching s).booth 0) = 0 ∧
      outputOf bothWays .b = 1 ∧ HallAgrees (switching s) ∧ ListeningAgrees (switching s)) ∧
    ((switching bare).chan 1).coverage = .unassigned ∧
    (((switching (taken .first)).chan 1).coverage = .covered ∧ ((switching (taken .first)).settings 1).policy ≠ .last) ∧
    ((switching calm).chan 1).coverage = .holding ∧
    (((switching (taken .last)).chan 1).coverage = .covered ∧ ((switching (taken .last)).settings 1).policy = .last) := by
  refine ⟨?_, by decide +kernel, by decide +kernel, by decide +kernel, by decide +kernel⟩
  intro s hs
  simp only [List.mem_cons, List.not_mem_nil, or_false] at hs
  rcases hs with rfl | rfl | rfl | rfl | rfl <;>
    exact ⟨handing_of (by decide +kernel), by decide +kernel, by decide +kernel, by decide +kernel, by decide,
      hall_of (by decide +kernel), listening_of (by decide +kernel)⟩

/-- An IN_BOOTH offer of a TIMED booth, and an ACROSS offer, at the second event that ends them. -/
def overIn : State := after .secondEvent forced
def overAcross : State := after .secondEvent (across 1)
theorem witness_OfferExpires :
    (overIn.running = true ∧ HallAgrees overIn ∧ ListeningAgrees overIn ∧ Due.offer 0 ∈ overIn.gen.due ∧
      overIn.offer 0 = some ⟨.inBooth, 2, 1, 2, 0, 0⟩ ∧ overIn.boothSettings 2 = some timed ∧ timed.mode = .timed) ∧
    (overAcross.running = true ∧ HallAgrees overAcross ∧ ListeningAgrees overAcross ∧
      Due.offer 0 ∈ overAcross.gen.due ∧ overAcross.offer 0 = some ⟨.across, 1, 0, 0, 0, 0⟩ ∧
      overAcross.boothSettings 0 = some bothWays) :=
  ⟨⟨by decide +kernel, hall_of (by decide +kernel), listening_of (by decide +kernel), by decide +kernel,
      by decide +kernel, by decide +kernel, rfl⟩,
    by decide +kernel, hall_of (by decide +kernel), listening_of (by decide +kernel), by decide +kernel,
    by decide +kernel, by decide +kernel⟩

/-- Booths 0 and 33 and the settings just out of range; booth 32 and settings at the ends of theirs; a booth with a live
seat; a new booth. -/
theorem witness_BoothSetConfigures :
    Ready .console calm ∧ ((0 : Byte).toNat < 1 ∧ 32 < (33 : Byte).toNat ∧
      (∀ args ∈ ([⟨4, 1, none, 0, 5, 0⟩, ⟨0, 1, none, 0, 5, 0⟩, ⟨1, 25, none, 0, 5, 0⟩, ⟨1, 1, some 1, 0, 5, 0⟩,
        ⟨1, 1, some 0, 0, 5, 0⟩, ⟨1, 1, none, 3, 5, 0⟩, ⟨1, 1, none, 0, 5, 2⟩] : List BoothArgs), BoothArgsFail args)) ∧
    ((32 : Byte).toNat = (31 : Booth).val + 1 ∧ ¬ BoothArgsFail ⟨3, 24, some 1, 2, 121, 1⟩ ∧
      BoothReads ⟨3, 24, some 1, 2, 121, 1⟩ ⟨3, 23, some 0, .timed, 120, true⟩) ∧
    (Ready .console speaking ∧ ¬ NoneLive speaking 0 ∧ BoothReads ⟨1, 1, none, 0, 0, 0⟩ ⟨1, 0, none, .direct, 5, false⟩) ∧
    (NoneLive calm 31 ∧ relayCheck calm (arcsWithBooth calm 31 ⟨3, 23, some 0, .timed, 120, true⟩) = true ∧
      HallAgrees calm) := by
  refine ⟨calm_ready, ⟨by decide, by decide, ?_⟩, ⟨by decide, ?_, ?_⟩, ⟨ready_of (by decide +kernel), ?_, ?_⟩, ?_,
    by decide +kernel, calm_hall⟩
  · intro args h
    simp only [List.mem_cons, List.not_mem_nil, or_false] at h
    rcases h with rfl | rfl | rfl | rfl | rfl | rfl | rfl <;> simp [BoothArgsFail]
  · simp [BoothArgsFail]
  · unfold BoothReads; decide
  · unfold NoneLive; decide +kernel
  · unfold BoothReads; decide
  · unfold NoneLive; decide +kernel

/-- Two booths that listen to each other's output: no booth can be added to that graph. -/
def relayed : State :=
  let s := seated 3 ⟨1, 1, none, .direct, 10, false⟩ (assigned 1 1 11 .last (.channel 0) 5 (assigned 0 0 10 .first .floor 2
    (seated 4 ⟨1, 0, none, .direct, 10, false⟩ State.reset)))
  let s := s.setBooth 3 { s.booth 3 with chosen := .channel 0, effective := .channel 0 }
  s.setBooth 4 { s.booth 4 with chosen := .channel 1, effective := .channel 1 }
theorem witness_BoothSetConfigures_loop :
    Ready .console relayed ∧ (∀ k, isLive (relayed.seat 5 k) = false) ∧
    BoothReads ⟨1, 1, none, 0, 10, 0⟩ ⟨1, 0, none, .direct, 10, false⟩ ∧
    relayCheck relayed (arcsWithBooth relayed 5 ⟨1, 0, none, .direct, 10, false⟩) = false :=
  ⟨ready_of (by decide +kernel), by decide +kernel, by unfold BoothReads; decide, by decide +kernel⟩

theorem witness_BoothClearAndCut :
    Ready .console speaking ∧ (0 : Byte).toNat < 1 ∧ 32 < (33 : Byte).toNat ∧
    ((32 : Byte).toNat = (31 : Booth).val + 1 ∧ speaking.boothSettings 31 = none) ∧
    ((1 : Byte).toNat = (0 : Booth).val + 1 ∧ speaking.boothSettings 0 = some bothWays ∧ HallAgrees speaking ∧
      ListeningAgrees speaking ∧ isLive (speaking.seat 0 0) = true) ∧
    (speaking.boothSettings 1 = some direct ∧ ∀ k, isLive (speaking.seat 1 k) = false) :=
  ⟨ready_of (by decide +kernel), by decide, by decide, by decide +kernel,
    ⟨by decide, by decide +kernel, hall_of (by decide +kernel), listening_of (by decide +kernel), by decide +kernel⟩,
    by decide +kernel⟩

/-! ### Listening and the booth line -/

/-- Booth 6 with output A on channel 3, which is assigned; channel 2 is produced by booth 1 alone. -/
def tuned : State := seated 5 ⟨1, 2, none, .direct, 10, true⟩ (assigned 2 2 12 .first .floor 2 calm)
def tunedTo : BoothSettings := ⟨1, 2, none, .direct, 10, true⟩
/-- Channel 24 has no language; channel 4 is assigned and produced by no booth; channel 3 is the booth's own output; channel 1
is neither. -/
theorem witness_ListeningIsChosen_channel :
    let s := assigned 3 3 13 .first .floor 2 tuned
    (Ready .console s ∧ Handing (handing 5 (.relaySelect 24) s) 5 tunedTo (.relaySelect 24) []) ∧
    ((6 : Byte).toNat = (5 : Booth).val + 1 ∧ s.boothSettings 5 = some tunedTo ∧ (24 : Byte).toNat = (23 : Chan).val + 1 ∧
      (s.booth 5).chosen = .floor) ∧
    (s.settings 23).slot = none ∧ ((s.settings 3).slot ≠ none ∧ produced (relayArcs s) 3 = false) ∧
    ((s.settings 2).slot ≠ none ∧ produced (relayArcs s) 2 = true) ∧
    ((s.settings 0).slot ≠ none ∧ produced (relayArcs s) 0 = true ∧ hasCycle (withInput 5 (.channel 0) (relayArcs s)) = false ∧
      withinHopLimit (withInput 5 (.channel 0) (relayArcs s)) = true) :=
  ⟨⟨ready_of (by decide +kernel), handing_of (by decide +kernel)⟩, by decide +kernel⟩

/-- The same with the booth listening to channel 1. -/
def following : State := tuned.setBooth 5 { tuned.booth 5 with chosen := .channel 0, effective := .channel 0 }
theorem witness_ListeningIsChosen_floor :
    (Ready .console tuned ∧ (0 : Byte).toNat < 1 ∧ 32 < (33 : Byte).toNat ∧ tuned.boothSettings 31 = none ∧
      24 < (25 : Byte).toNat) ∧
    ((1 : Byte) ≠ 0 ∧ (1 : Byte) ≠ 2 ∧ (6 : Byte).toNat = (5 : Booth).val + 1 ∧ tuned.boothSettings 5 = some tunedTo) ∧
    Handing (handing 5 (.relaySelect 0) tuned) 5 tunedTo (.relaySelect 0) [] ∧
    Handing (handing 5 (.relaySelect 25) tuned) 5 tunedTo (.relaySelect 25) [] ∧
    (Handing (handing 5 (.relaySelect 1) following) 5 tunedTo (.relaySelect 1) [] ∧ Ready .console following ∧
      (1 : Byte).toNat = (0 : Chan).val + 1 ∧ (following.booth 5).chosen = .channel 0 ∧
      ListeningAgrees (handing 5 (.relaySelect 1) following) ∧ ListeningAgrees following) :=
  ⟨⟨ready_of (by decide +kernel), by decide +kernel⟩, by decide +kernel, handing_of (by decide +kernel),
    handing_of (by decide +kernel), handing_of (by decide +kernel), ready_of (by decide +kernel), by decide, by decide +kernel,
    listening_of (by decide +kernel), listening_of (by decide +kernel)⟩

theorem polled_next (s : State) (b : Booth) (h1 : (s.boothSettings b).isSome = true)
    (h2 : (match s.gen.scanPos with
      | none => (List.finRange 32).all (fun d => (s.boothSettings d).isNone || decide (b ≤ d))
      | some p => (decide (p < b) && (List.finRange 32).all (fun d => (s.boothSettings d).isNone || !decide (p < d) || decide (b ≤ d))) ||
        ((List.finRange 32).all (fun d => (s.boothSettings d).isNone || decide (d ≤ p)) &&
          (List.finRange 32).all (fun d => (s.boothSettings d).isNone || decide (b ≤ d)))) = true) : PolledNext s b := by
  refine ⟨fun h => (by rw [h] at h1; cases h1), ?_⟩
  have key : ∀ d, Configured s d → (s.boothSettings d).isNone = false := by
    intro d hd
    cases e : s.boothSettings d with
    | none => exact absurd e hd
    | some _ => rfl
  cases e : s.gen.scanPos with
  | none =>
    rw [e] at h2
    simp only [List.all_eq_true, List.mem_finRange, forall_true_left, Bool.or_eq_true, decide_eq_true_eq] at h2
    exact fun d hd => (h2 d).resolve_left (by rw [key d hd]; simp)
  | some p =>
    rw [e] at h2
    simp only [List.all_eq_true, List.mem_finRange, forall_true_left, Bool.or_eq_true, Bool.and_eq_true,
      decide_eq_true_eq, Bool.not_eq_true', decide_eq_false_iff_not] at h2
    rcases h2 with ⟨a, c⟩ | ⟨a, c⟩
    · refine .inl ⟨a, fun d hd hp => ?_⟩
      rcases c d with (x | x) | x
      · rw [key d hd] at x; cases x
      · exact absurd hp x
      · exact x
    · exact .inr ⟨fun d hd => (a d).resolve_left (by rw [key d hd]; simp),
        fun d hd => (c d).resolve_left (by rw [key d hd]; simp)⟩

/-- No scan position: booth 1. After booth 3, the last of the three, booth 1 again. -/
theorem witness_BoothsArePolled_polls :
    (Awake calm ∧ calm.gen.cycle = .idle ∧ PolledNext calm 0 ∧ calm.boothSettings 0 = some bothWays) ∧
    PolledNext { calm with gen.scanPos := some 2 } 0 ∧ PolledNext { calm with gen.scanPos := some 0 } 1 ∧
    (Awake polled ∧ polled.gen.cycle ≠ .idle) ∧ (Awake State.reset ∧ ∀ b, ¬ Configured State.reset b) :=
  ⟨⟨awake_of (by decide +kernel), by decide +kernel, polled_next _ _ (by decide +kernel) (by decide +kernel),
      by decide +kernel⟩,
    polled_next _ _ (by decide +kernel) (by decide +kernel), polled_next _ _ (by decide +kernel) (by decide +kernel),
    ⟨awake_of (by decide +kernel), by decide +kernel⟩, reset_awake, fun b h => h (by
      have : ∀ b, State.reset.boothSettings b = none := by decide +kernel
      exact this b)⟩

/-- POLL_SENT; a good reply of four events from a PRESENT booth, and one of none from a PENDING one. -/
def pendingBooth : State := polled.setBooth 0 { polled.booth 0 with presence := .pending }
theorem witness_BoothsArePolled_replies :
    (Awake (after .pollStart calm) ∧
      (after .pollStart calm).gen.cycle = .sending 0 (tallyOf calm 0 bothWays) false) ∧
    (Awake polled ∧ polled.gen.cycle = .window 0 false ∧ (polled.booth 0).presence = .present ∧
      (1 : Byte).toNat = (0 : Booth).val + 1 ∧ ([(1, 1), (2, 1), (7, 0), (9, 9)] : List (Byte × Byte)).length = (4 : Byte).toNat) ∧
    (Awake pendingBooth ∧ pendingBooth.gen.cycle = .window 0 false ∧ (pendingBooth.booth 0).presence = .pending ∧
      ([] : List (Byte × Byte)).length = (0 : Byte).toNat) :=
  ⟨⟨awake_of (by decide +kernel), by decide +kernel⟩, ⟨awake_of (by decide +kernel), by decide +kernel⟩,
    awake_of (by decide +kernel), by decide +kernel⟩

theorem numBytes_length (w n : Nat) : (numBytes w n).length = w := by
  induction w generalizing n with
  | zero => rfl
  | succ w ih => simp [numBytes, ih]

/-- A reply of four bytes with a wrong CRC is the bytes of no reply with a good one. -/
theorem witness_MissesAndAbsence :
    (Awake polled ∧ polled.gen.cycle = .window 0 false ∧ HallAgrees polled ∧ ListeningAgrees polled) ∧
    (1 ≤ ([1] : List Byte).length ∧ ([1] : List Byte).length ≤ 514 ∧
      ∀ (booth count : Byte) (events : List (Byte × Byte)), events.length = count.toNat →
        [1] ≠ replyBytes booth count events) ∧
    ((2 : Byte).toNat ≠ (0 : Booth).val + 1) ∧
    ((1 : Byte).toNat = (0 : Booth).val + 1 ∧ 4 < (5 : Byte).toNat ∧
      (List.replicate 5 ((1, 1) : Byte × Byte)).length = (5 : Byte).toNat) := by
  refine ⟨⟨awake_of (by decide +kernel), by decide +kernel, hall_of (by decide +kernel), listening_of (by decide +kernel)⟩,
    ⟨by decide, by decide, fun booth count events _ h => ?_⟩, by decide, by decide⟩
  have := congrArg List.length h
  simp [replyBytes] at this

/-! ### The register and the hires -/

def stocked : State :=
  (hired.setReceiver 4095 ⟨some 900, .stock, none, none, none, none, false, false, 0⟩)
/-- A report of receiver 4,095 with battery 15, its intake one short of full; and the same for an intake that is full. -/
def lastReport : ReportBytes :=
  let r : ReportBytes := ⟨5, 4095, 900, 340, 15, 0⟩
  { r with crc := crc16 r.covered }
def filled (n : Nat) : State :=
  { stocked with ret.hallCode := 5, gen.intake := List.replicate n ⟨4095, 900, 340, 15, 0⟩ }
theorem witness_ReportsArriveAndAreTaken_intake :
    Awake (filled 63) ∧ crc16 lastReport.covered = lastReport.crc ∧ lastReport.receiver.toNat < 4096 ∧
    lastReport.battery.toNat ≤ 15 ∧ (filled 63).ret.hallCode ≠ 0 ∧ lastReport.hall = (filled 63).ret.hallCode ∧
    ((filled 63).receiver 4095).state = .stock ∧ ((filled 63).receiver 4095).serial = some lastReport.serial ∧
    (filled 63).gen.intake.length < 64 ∧ 64 ≤ (filled 64).gen.intake.length ∧
    4096 ≤ ({ lastReport with receiver := 4096 } : ReportBytes).receiver.toNat ∧
    15 < ({ lastReport with battery := 16 } : ReportBytes).battery.toNat :=
  ⟨awake_of (by decide), by decide +kernel⟩

theorem witness_ReportsArriveAndAreTaken_taken :
    (Awake (filled 1) ∧ (filled 1).gen.intake = [⟨4095, 900, 340, 15, 0⟩] ∧ ((filled 1).receiver 4095).state = .stock ∧
      ((filled 1).receiver 4095).serial = some 900) ∧
    (({ gone with gen.intake := [⟨7, 700, 340, 15, 0⟩] } : State).receiver 7).state = .lost ∧
    (({ gone with gen.intake := [⟨8, 700, 340, 15, 0⟩] } : State).receiver 8).state = .unenrolled :=
  ⟨⟨awake_of (by decide), by decide +kernel⟩, by decide +kernel⟩

theorem witness_ReportsForHired : Awake listening ∧ listening.gen.intake = ⟨7, 700, 340, 9, 42000⟩ :: [] ∧
    (listening.receiver 7).state = .hired ∧ (listening.receiver 7).serial = some 700 ∧
    (listening.receiver 7).link = some ⟨1, 0⟩ ∧
    listening.hire? 1 = some ⟨0, 5000, .desk1, 0, some 60, false, 4, [⟨7, 0, none, .out, 0⟩]⟩ ∧
    (∀ k : Slot, some (3 : Slot) = some k ↔ (340 : Nat) ≠ 0 ∧ (listening.slot k).channel ≠ none ∧
      (listening.slot k).name.map LangName.tag = some 340) :=
  ⟨awake_of (by decide), by decide +kernel⟩

def withdrawn : State := State.reset.setReceiver 4095 ⟨some 900, .withdrawn, none, none, none, none, false, false, 0⟩
/-- Receiver 3 in service under the serial of the withdrawn receiver 4095. -/
def doubled : State := withdrawn.setReceiver 3 ⟨some 900, .stock, none, none, none, none, false, false, 0⟩
theorem witness_ReceiverRecordsAndHallCode :
    Ready .console stocked ∧ Ready .console withdrawn ∧ 4096 ≤ (4096 : Half).toNat ∧ (4095 : Half).toNat < 4096 ∧
    inService (stocked.receiver 4095) = true ∧
    (∃ e ∈ stocked.ret.receivers, e.1 ≠ (8 : Half).toNat ∧ inService e.2 = true ∧ e.2.serial = some 900) ∧
    (inService (stocked.receiver 8) = false ∧ ∀ e ∈ stocked.ret.receivers, e.1 ≠ 8 → inService e.2 = true →
      e.2.serial ≠ some 901) ∧
    (stocked.receiver 4095).state = .stock ∧ (stocked.receiver 7).state = .hired ∧
    ((withdrawn.receiver 4095).state = .withdrawn ∧ ∀ e ∈ withdrawn.ret.receivers, e.1 ≠ 4095 → inService e.2 = true →
      e.2.serial ≠ (withdrawn.receiver 4095).serial) ∧
    (Ready .console doubled ∧ ∃ e ∈ doubled.ret.receivers, e.1 ≠ 4095 ∧ inService e.2 = true ∧
      e.2.serial = (doubled.receiver 4095).serial) :=
  ⟨ready_of (by decide), ready_of (by decide), by decide, by decide, by decide +kernel, by decide +kernel,
    by decide +kernel, by decide +kernel, by decide +kernel, by decide +kernel, ready_of (by decide), by decide +kernel⟩

theorem hired_hires : HiresLawful hired.ret := one_hire (t := 1) rfl (by decide) (by decide) (by decide)
theorem hired_links : LinksAgree hired.ret := one_link (n := 7) (t := 1) rfl rfl rfl (by decide) rfl rfl rfl rfl

/-- 512 open hires, and a hire of 16 lines. -/
def full : State := priced { hired with ret.hires := (List.range 512).map (fun i => (i + 1, ⟨0, 0, .desk1, 0, none, false, 0, []⟩)) }
def long : State := stocked.setHire 1 ⟨0, 0, .desk1, 0, none, false, 0, List.replicate 16 ⟨9, 0, some 0, .back, 0⟩⟩
theorem witness_HiresOpenAndReceiversIssue :
    (Ready .desk1 (priced hired) ∧ 8 ≤ (8 : Byte).toNat ∧ (7 : Byte).toNat = (7 : TClass).val ∧
      ((priced hired).tariff 7).terms = none ∧ ((priced hired).tariff 0).terms ≠ none ∧
      (priced hired).ret.hires.length < 512 ∧ HiresLawful (priced hired).ret) ∧
    (Ready .desk1 full ∧ (full.tariff 0).terms ≠ none ∧ 512 ≤ full.ret.hires.length) ∧
    (Ready .desk1 stocked ∧ (0 : Half) = 0 ∧ (1 : Half) ≠ 0 ∧ (4095 : Half).toNat < 4096 ∧ stocked.hire? 2 = none ∧
      stocked.hire? 1 ≠ none ∧ (stocked.receiver 8).state = .unenrolled ∧ (stocked.receiver 7).state = .hired ∧
      (stocked.receiver 4095).state = .stock) ∧
    (Ready .desk1 long ∧ (long.hire? 1).map (fun h => h.lines.length) = some 16 ∧ (long.receiver 4095).state = .stock) :=
  ⟨⟨ready_of (by decide), by decide, by decide, by decide, by decide, by decide,
      one_hire (t := 1) rfl (by decide) (by decide) (by decide)⟩,
    ⟨ready_of (by decide +kernel), by decide +kernel⟩, ⟨ready_of (by decide), by decide +kernel⟩,
    ready_of (by decide), by decide +kernel⟩

/-- The receiver that is out; the same lost, with its link and without. -/
def unlinked : State := State.reset.setReceiver 7 ⟨some 700, .lost, none, none, none, none, false, true, 1⟩
theorem witness_ReceiversReturnedOrLost :
    (Ready .desk1 hired ∧ (7 : Half).toNat < 4096 ∧ (hired.receiver 7).state = .hired ∧
      (hired.receiver 7).link = some ⟨1, 0⟩ ∧
      hired.hire? 1 = some ⟨0, 5000, .desk1, 0, some 60, false, 4, [⟨7, 0, none, .out, 0⟩]⟩) ∧
    (4096 ≤ (4096 : Half).toNat ∧ (hired.receiver 8).state = .unenrolled ∧ (stocked.receiver 4095).state = .stock) ∧
    (Ready .desk1 gone ∧ (gone.receiver 7).state = .lost ∧ (gone.receiver 7).link = some ⟨1, 0⟩ ∧
      gone.hire? 1 = some ⟨0, 5000, .desk1, 0, none, false, 4, [⟨7, 0, some 0, .lost, 0⟩]⟩) ∧
    (Ready .desk1 unlinked ∧ (unlinked.receiver 7).state = .lost ∧ (unlinked.receiver 7).link = none) :=
  ⟨⟨ready_of (by decide), by decide +kernel⟩, by decide +kernel, ⟨ready_of (by decide), by decide +kernel⟩,
    ready_of (by decide), by decide +kernel⟩

/-- Deltas that leave −1, 0, the amount limit and one above it; a due alarm that has come. -/
def alarmed : State := after .secondEvent { hired with clock := 59 }
theorem witness_DepositsAndDueTimes :
    (Ready .desk1 hired ∧ (0 : Half) = 0 ∧ (1 : Half) ≠ 0 ∧ hired.hire? 2 = none ∧
      hired.hire? 1 = some ⟨0, 5000, .desk1, 0, some 60, false, 4, [⟨7, 0, none, .out, 0⟩]⟩ ∧ 5000 ≤ 4294967295) ∧
    ((5000 : Int) + -(5001 : Int) < 0 ∧ 0 ≤ (5000 : Int) + -(5000 : Int) ∧
      (5000 : Int) + 4294962295 ≤ 4294967295 ∧ (4294967295 : Int) < (5000 : Int) + 4294962296) ∧
    (alarmed.running = true ∧ Due.alarm ∈ alarmed.gen.due ∧ HiresLawful alarmed.ret) :=
  ⟨⟨ready_of (by decide), by decide +kernel⟩, by decide, by decide +kernel, by decide +kernel,
    one_hire (t := 1) (h := ⟨0, 5000, .desk1, 0, some 60, false, 4, [⟨7, 0, none, .out, 0⟩]⟩) (by decide +kernel)
      (by decide) (by decide) (by decide +kernel)⟩

/-! ### The charge, jobs, sessions -/

theorem witness_QuantaAreExact : 0 < class2.quantum ∧ (600 ≤ class2.grace ∧ class2.grace < 601) ∧
    (60 ≤ class2.quantum ∧ 4294967295 ≤ 4294967295) ∧
    ((⟨60, 3600, 1, 0, 0⟩ : Terms).quantum = 60 ∧ (⟨60, 3600, 1, 0, 0⟩ : Terms).grace ≤ 3600) := by decide

/-- A line of no duration and one whose credit is all of it; with and without a cap; lost and not; and the three ways that
a total meets its deposit. -/
theorem witness_ChargesAndSettlement :
    (0 < class2.quantum ∧ ∀ l ∈ ([⟨1, .back, 5, 5, 0⟩, ⟨1, .lost, 5, 86405, 86400⟩, ⟨1, .out, 5, 86406, 0⟩] : List CopyLine),
      l.issue ≤ l.ended ∧ l.credit ≤ l.ended - l.issue) ∧
    0 < class2.dayCap ∧ ({ class2 with dayCap := 0 } : Terms).dayCap = 0 ∧
    (firmHire.deposit < (hireCharge firmHire).total) ∧
    (({ firmHire with deposit := 13800 } : WorkCopy).deposit = (hireCharge { firmHire with deposit := 13800 }).total) ∧
    ((hireCharge { firmHire with deposit := 13801 }).total < ({ firmHire with deposit := 13801 } : WorkCopy).deposit) := by
  decide +kernel

theorem witness_TariffsAndSessions :
    Ready .console State.reset ∧ 8 ≤ (8 : Byte).toNat ∧ (59 : Half).toNat < 60 ∧ 14400 < (14401 : Half).toNat ∧
    3600 < (3601 : Half).toNat ∧
    ((7 : Byte).toNat = (7 : TClass).val ∧ 60 ≤ (60 : Half).toNat ∧ (14400 : Half).toNat ≤ 14400 ∧ (3600 : Half).toNat ≤ 3600) ∧
    (Ready .console (opened State.reset) ∧ (opened State.reset).ret.session.state = .opened) ∧
    State.reset.ret.session.state ≠ .opened :=
  ⟨reset_ready _, by decide, by decide, by decide, by decide, by decide, ⟨ready_of (by decide), rfl⟩, by decide⟩

def quoting (t : Half) (first : Byte) (s : State) : State := queued .desk1 .quote (.quote t first) s
def inFlight : State := after .jobStart (quoting 1 15 (priced hired))
theorem witness_JobsQueueAndQuotesRun :
    (Ready .desk1 State.reset ∧ Ready .console State.reset) ∧
    (∀ e ∈ ([(0, 0), (1, 16), (2, 15), (1, 15)] : List (Half × Byte)), Awake (quoting e.1 e.2 hired) ∧
      (quoting e.1 e.2 hired).gen.flight = none ∧ (quoting e.1 e.2 hired).gen.jobs = [⟨.desk1, .quote e.1 e.2⟩] ∧
      ((quoting e.1 e.2 hired).port .desk1).inProgress = some ⟨.quote, 9, none⟩) ∧
    (hired.hire? 2 = none ∧ (hired.hire? 1).map Hire.tariffClass = some 0 ∧ (hired.tariff 0).terms = none ∧
      ((priced hired).tariff 0).terms = some class2) ∧
    (Awake inFlight ∧ inFlight.gen.flight = some ⟨.desk1, .quote 1 15, ⟨1, 5000, 4, 0, class2, 3, 0, [⟨7, .out, 0, 0, 0⟩]⟩⟩ ∧
      (inFlight.port .desk1).inProgress = some ⟨.quote, 9, none⟩) ∧
    (Awake State.reset ∧ State.reset.gen.jobs = []) := by
  refine ⟨⟨reset_ready _, reset_ready _⟩, ?_, by decide +kernel, ⟨awake_of (by decide +kernel), by decide +kernel⟩,
    reset_awake, rfl⟩
  intro e he
  simp only [List.mem_cons, List.not_mem_nil, or_false] at he
  rcases he with rfl | rfl | rfl | rfl <;> exact ⟨awake_of (by decide), by decide +kernel⟩

/-- A close of the firm hire, with its token and with others, and of the hire that is out. -/
def closing (a : CloseArgs) (s : State) : State := queued .desk1 .close (.close a) s
theorem witness_ClosesStartAndComplete_start :
    (∀ a ∈ ([⟨0, 4, 3, 0, 0⟩, ⟨1, 4, 3, 0, 16⟩, ⟨1, 4, 3, 7, 0⟩, ⟨2, 4, 3, 6, 15⟩, ⟨1, 3, 3, 6, 15⟩, ⟨1, 4, 2, 6, 15⟩,
        ⟨1, 4, 3, 6, 15⟩] : List CloseArgs),
      Awake (closing a (priced gone)) ∧ (closing a (priced gone)).gen.flight = none ∧
      (closing a (priced gone)).gen.jobs = [⟨.desk1, .close a⟩] ∧
      ((closing a (priced gone)).port .desk1).inProgress = some ⟨.close, 9, none⟩) ∧
    (gone.hire? 2 = none ∧ (gone.hire? 1).map Hire.changeCount = some 4 ∧ (gone.tariff 0).terms = none ∧
      ((priced gone).tariff 0) = ⟨some class2, 3⟩ ∧ (gone.hire? 1).map (fun h => h.lines.map Line.state) = some [.lost] ∧
      (hired.hire? 1).map (fun h => h.lines.map Line.state) = some [.out]) := by
  refine ⟨?_, by decide +kernel⟩
  intro a ha
  simp only [List.mem_cons, List.not_mem_nil, or_false] at ha
  rcases ha with rfl | rfl | rfl | rfl | rfl | rfl | rfl <;> exact ⟨awake_of (by decide), by decide +kernel⟩

def begun (condition : Byte) : State := after .jobStart (closing ⟨1, 4, 3, condition, 0⟩ (priced gone))
def goneCopy : WorkCopy := ⟨1, 5000, 4, 0, class2, 3, 0, [⟨7, .lost, 0, 0, 0⟩]⟩
theorem witness_ClosesStartAndComplete_completion :
    (Awake (begun 1) ∧ (begun 1).gen.flight = some ⟨.desk1, .close ⟨1, 4, 3, 1, 0⟩, goneCopy⟩ ∧
      ((begun 1).port .desk1).inProgress = some ⟨.close, 9, none⟩ ∧ conditionOf 1 = some .ifOwed ∧
      ((begun 1).hire? 1).map Hire.changeCount = some 4 ∧ ((begun 1).tariff 0).generation = 3 ∧
      conditionHolds .ifOwed (hireCharge goneCopy).flags = true) ∧
    (Awake (begun 2) ∧ (begun 2).gen.flight = some ⟨.desk1, .close ⟨1, 4, 3, 2, 0⟩, goneCopy⟩ ∧
      conditionOf 2 = some .ifRefund ∧ conditionHolds .ifRefund (hireCharge goneCopy).flags = false) ∧
    ((({ begun 1 with ret.hires := [] } : State).hire? 1) = none) :=
  ⟨⟨awake_of (by decide +kernel), by decide +kernel⟩, ⟨awake_of (by decide +kernel), by decide +kernel⟩, rfl⟩

/-- A snapshot job with the session OPEN and with none; the buffer empty, with a statement, and with a job that waits. -/
def stated : State := after .jobStart (queued .desk1 .snapshot .snapshot (opened calm))
theorem witness_StatementsAreTakenAndRead :
    (Awake (queued .desk1 .snapshot .snapshot (opened calm)) ∧ (opened calm).gen.flight = none ∧
      (opened calm).ret.session.state = .opened ∧ calm.ret.session.state ≠ .opened) ∧
    (Ready .desk2 stated ∧ 2 < (3 : Byte).toNat ∧ (2 : Byte).toNat ≤ 2 ∧ stated.gen.snapshot.isSome = true ∧
      stated.gen.jobs = [] ∧ calm.gen.snapshot = none ∧ JobsAgree stated) ∧
    (Ready .desk2 (queued .desk1 .snapshot .snapshot calm) ∧
      (queued .desk1 .snapshot .snapshot calm).gen.jobs = [⟨.desk1, .snapshot⟩]) := by
  refine ⟨⟨awake_of (by decide +kernel), by decide +kernel⟩, ⟨ready_of (by decide +kernel), by decide, by decide,
    by decide +kernel, by decide +kernel, by decide +kernel, ?_⟩, ready_of (by decide +kernel), by decide +kernel⟩
  have hj : jobPorts stated = [] := by decide +kernel
  have hp : ∀ p, (stated.port p).inProgress = none := by intro p; cases p <;> decide +kernel
  have hf : stated.gen.flight = none := by decide +kernel
  refine ⟨by rw [hj]; exact List.nodup_nil, fun p => ?_, fun p r e => ?_, fun f e => ?_⟩
  · rw [hj, hp p]; simp
  · rw [hp p] at e; cases e
  · rw [hf] at e; cases e

/-! ### The ports -/

/-- Table 10 is none; the last booths from start 23, and the accounts; the one open hire from start 1, none from start 2; its
one line, asked for and not. -/
theorem witness_StatusAndTables : Ready .desk1 hired ∧ 9 < (10 : Byte).toNat ∧
    (denseTable 2 = some (1, 32, 23) ∧ 23 = max 1 (23 : Half).toNat ∧
      10 = min (min (10 : Byte).toNat (32 + 1 - 23)) (236 / 23) ∧ denseTable 9 = some (0, 0, 90) ∧
      0 = max 0 (0 : Half).toNat ∧ 1 = min (min (255 : Byte).toNat (0 + 1 - 0)) (236 / 90) ∧ PlanAgrees hired.ret) ∧
    (hired.ret.hires.filter (fun e => decide ((1 : Half).toNat ≤ e.1)) = hired.ret.hires ++ [] ∧
      hired.ret.hires.length = min (min (255 : Byte).toNat (hired.ret.hires ++ []).length) 19 ∧
      hired.ret.hires.filter (fun e => decide ((2 : Half).toNat ≤ e.1)) = [] ++ []) ∧
    (hired.hire? (2 : Half).toNat = none ∧ ∃ h l, hired.hire? (1 : Half).toNat = some h ∧
      h.lines.drop (0 : Half).toNat = [l] ++ [] ∧ [l].length = min (min (1 : Byte).toNat ([l] ++ []).length) 12 ∧
      h.lines.drop (0 : Half).toNat = [] ++ [l] ∧ ([] : List Line).length = min (min (0 : Byte).toNat ([] ++ [l]).length) 12) :=
  ⟨ready_of (by decide), by decide,
    ⟨rfl, by decide, by decide, rfl, by decide, by decide, plan_of (by decide +kernel)⟩, by decide +kernel,
    by decide +kernel, _, _, rfl, rfl, rfl, rfl, rfl⟩

/-- One urgent notice; one routine notice alone; none; a wait whose last second has gone. -/
def routine : State := quiet.setPort .desk2 { quiet.port .desk2 with routine := [⟨0, .tariffChanged 0 1 true⟩] }
def waited : State := after .secondEvent (after (.noticeWait .desk2 18 0) quiet)
theorem witness_NoticesAreFetchedAndAwaited :
    (Ready .desk1 State.reset ∧ (0x8000 : Half).getLsbD 15 = true ∧ (0x7FFF : Half).getLsbD 15 = false ∧
      (State.reset.port .desk1).urgent = [⟨0, .restarted .power true⟩]) ∧
    (Ready .desk2 routine ∧ (routine.port .desk2).urgent = [] ∧
      (routine.port .desk2).routine = [⟨0, .tariffChanged 0 1 true⟩] ∧ (nextNotice (routine.port .desk2)).isSome = true) ∧
    (Ready .desk2 quiet ∧ (quiet.port .desk2).urgent = [] ∧ (quiet.port .desk2).routine = []) ∧
    (waited.running = true ∧ Due.wait .desk2 ∈ waited.gen.due ∧
      (waited.port .desk2).inProgress = some ⟨.noticeWait, 18, some ⟨1, 0⟩⟩) :=
  ⟨⟨reset_ready _, by decide, by decide, rfl⟩, ⟨ready_of (by decide), by decide⟩, ⟨ready_of (by decide), by decide⟩,
    by decide +kernel⟩

/-- Queues one short of full, and full, with RESTARTED at the head of the urgent one. -/
def loaded (u r : Nat) : PortState :=
  { PortState.afterReset .console with
    urgent := ⟨0, .restarted .line false⟩ :: List.replicate u ⟨1, .channelUncovered 0 10 .floor⟩
    routine := List.replicate r ⟨1, .boothPresent 0 .absent⟩ }
theorem witness_NoticesAreQueued :
    (subscribes (loaded 6 31) (.channelUncovered 1 11 .floor) = true ∧ subscribes (loaded 6 31) (.boothPresent 1 .pending) = true ∧
      (loaded 6 31).inProgress.bind InProgress.wait = none ∧ isUrgent (.channelUncovered 1 11 .floor) = true ∧
      isUrgent (.boothPresent 1 .pending) = false ∧ (loaded 6 31).urgent.length < 8 ∧ (loaded 6 31).routine.length < 32) ∧
    (8 ≤ (loaded 7 32).urgent.length ∧ 32 ≤ (loaded 7 32).routine.length ∧
      (loaded 7 32).urgent = [⟨0, .restarted .line false⟩] ++ ⟨1, .channelUncovered 0 10 .floor⟩ ::
        List.replicate 6 ⟨1, .channelUncovered 0 10 .floor⟩ ∧
      (∀ y ∈ ([⟨0, .restarted .line false⟩] : List Notice), isRestarted y.body = true) ∧
      isRestarted (.channelUncovered 0 10 .floor) = false) := by decide +kernel

def waiting : State := after (.noticeWait .desk2 18 60) quiet
def busy : State := quoting 1 0 hired
theorem witness_FramesAreAdmittedOrAnswered :
    (Awake State.reset ∧ State.reset.breaks.get .desk1 = false ∧ Awake broken ∧ broken.breaks.get .desk1 = true) ∧
    (Awake waiting ∧ waiting.breaks.get .desk2 = false ∧ (waiting.port .desk2).framing = .between ∧
      (waiting.port .desk2).inProgress = some ⟨.noticeWait, 18, some ⟨60, 60⟩⟩) ∧
    (parseContent .desk1 [0x11, 1] = some (.status .desk1 0x11) ∧ parseContent .desk1 [] = none ∧
      parseContent .desk1 [7] = none ∧ parseContent .desk1 (List.replicate 33 1) = none ∧
      parseContent .desk1 [7, 0x99] = none ∧ ReqCode.ofByte 0x99 = none ∧ parseContent .desk1 [7, 0x13, 2] = none ∧
      ReqCode.ofByte 0x13 = some .override ∧ ReqCode.console .override = true ∧
      parseContent .desk1 (7 :: 0x01 :: List.replicate 30 0) = none ∧ (List.replicate 30 (0 : Byte)).length ≤ 30) ∧
    (Awake busy ∧ (busy.port .desk1).inProgress = some ⟨.quote, 9, none⟩ ∧ busy.breaks.get .desk1 = false ∧
      (busy.port .desk1).framing = .between) ∧
    (Instr.request (.status .desk1 7) = some (.desk1, 7, .status, []) ∧
      Instr.request (.routeRefresh .desk1 7) = some (.desk1, 7, .routeRefresh, []) ∧
      ReqCode.console .routeRefresh = true ∧ (Port.desk1 : Port) ≠ .console) :=
  ⟨⟨reset_awake, rfl, awake_of (by decide), rfl⟩, ⟨awake_of (by decide), by decide⟩, by decide +kernel,
    ⟨awake_of (by decide), by decide⟩, by decide⟩

/-- A label at the longest that a frame carries. -/
theorem witness_FramesAreReadAsWritten :
    WellFormed (.langDefine .console 1 0 10 (List.replicate 26 0x41)) = true ∧
    Instr.request (.langDefine .console 1 0 10 (List.replicate 26 0x41)) =
      some (.console, 1, .langDefine, 0 :: 0 :: 10 :: 26 :: List.replicate 26 0x41) := by decide +kernel

/-! ### What every step keeps -/

/-- A state with a live seat, a claim that cuts it, and a step that takes that claim. -/
def claimed : State := { contested .last with pending := [.seatOn 1 2] }
theorem claimed_steps : ∃ t, step claimed = .next t := ⟨_, rfl⟩
theorem witness_HallIsKept : (∃ t, step claimed = .next t) ∧ PlanAgrees claimed.ret ∧ HallAgrees claimed :=
  ⟨claimed_steps, plan_of (by decide +kernel), hall_of (by decide +kernel)⟩
theorem witness_PlanIsKept : (∃ t, step claimed = .next t) ∧ PlanAgrees claimed.ret :=
  ⟨claimed_steps, plan_of (by decide +kernel)⟩
theorem witness_ListeningIsKept : (∃ t, step claimed = .next t) ∧ ListeningAgrees claimed :=
  ⟨claimed_steps, listening_of (by decide +kernel)⟩
theorem witness_RelayCheckIsKept : (∃ t, step claimed = .next t) ∧ relayCheck claimed (relayArcs claimed) = true :=
  ⟨claimed_steps, by decide +kernel⟩

def refreshed : State := { State.reset with pending := [.routeRefresh .console 1] }
theorem witness_RouteLineIsKept : (∃ t, step refreshed = .next t) ∧ RouteListed refreshed ∧ MatrixAgrees refreshed := by
  refine ⟨⟨_, rfl⟩, ⟨by decide +kernel, by decide⟩, fun o ho => ?_, fun o ho => .inl ?_⟩
  · have h : ∀ x ∈ resetOrders, (∃ c, x = .route c .silent) ∨ (∃ b, x = .listen b .floor) ∨ ∃ b, x = .mute b false := by
      intro x hx
      simp only [resetOrders, List.mem_append, List.mem_map] at hx
      rcases hx with (⟨c, _, e⟩ | ⟨b, _, e⟩) | ⟨b, _, e⟩
      · exact .inl ⟨c, e.symm⟩
      · exact .inr (.inl ⟨b, e.symm⟩)
      · exact .inr (.inr ⟨b, e.symm⟩)
    have hc : ∀ c, effectiveRoute State.reset c = .silent := by decide +kernel
    have hb : ∀ b, (State.reset.booth b).effective = .floor ∧ (State.reset.booth b).muted = false := by decide +kernel
    rcases h o ho with ⟨c, rfl⟩ | ⟨b, rfl⟩ | ⟨b, rfl⟩
    · exact (hc c).symm
    · exact (hb b).1.symm
    · exact (hb b).2.symm
  · cases ho
    show Source.silent = effectiveRoute State.reset 0
    decide +kernel

/-- A claim that cuts a holder, and the expiry of a hold at which a booth goes to the floor and the fallback is taken. -/
theorem witness_ChangesAreOrdered : ((contested .last).running = true ∧ (contested .last).gen.due = []) ∧
    (∃ t, exec (.seatOn 1 2) (contested .last) = .next t ∧ t.running = true ∧
      effectiveRoute t 0 ≠ effectiveRoute (contested .last) 0) ∧
    (gap.running = true ∧ isExpiry (.gapHoldExpiry 0) = true ∧ gap.gen.due ≠ [] ∧
      ∃ t, exec (.gapHoldExpiry 0) gap = .next t ∧ t.running = true ∧ effectiveRoute t 0 ≠ effectiveRoute gap 0 ∧
        (t.booth 2).effective ≠ (gap.booth 2).effective) :=
  ⟨by decide +kernel, ⟨_, rfl, by decide +kernel, by decide +kernel⟩, by decide +kernel, rfl, by decide +kernel, _, rfl,
    by decide +kernel, by decide +kernel, by decide +kernel⟩

theorem witness_DirectoryFollowsItsContent_expiry : gap.running = true ∧ isExpiry (.gapHoldExpiry 0) = true ∧
    (∀ p tag, Instr.gapHoldExpiry 0 ≠ .deviceReset p tag) ∧ (∀ p content, Instr.gapHoldExpiry 0 ≠ .unknownRequest p content) ∧
    ∃ t, exec (.gapHoldExpiry 0) gap = .next t ∧ t.running = true ∧ gap.supply = t.supply ∧
      dirContent t ≠ dirContent gap :=
  ⟨by decide +kernel, rfl, fun _ _ h => (by cases h), fun _ _ h => (by cases h), _, rfl, by decide +kernel,
    by decide +kernel, by decide +kernel⟩

theorem witness_DirectoryFollowsItsContent : Awake calm ∧ (∀ p tag, Instr.override .console 7 true ≠ .deviceReset p tag) ∧
    (∀ p content, Instr.override .console 7 true ≠ .unknownRequest p content) ∧
    (∃ t, exec (.override .console 7 true) calm = .next t ∧ t.running = true ∧ calm.supply = t.supply ∧
      dirContent t ≠ dirContent calm) ∧
    (∃ t, exec .pollStart calm = .next t ∧ t.running = true ∧ calm.supply = t.supply ∧ dirContent t = dirContent calm) :=
  ⟨awake_of (by decide +kernel), fun _ _ h => (by cases h), fun _ _ h => (by cases h),
    ⟨_, rfl, by decide +kernel, by decide +kernel, by decide +kernel⟩, _, rfl, by decide +kernel, by decide +kernel,
    by decide +kernel⟩

theorem witness_QueuesAreKept : (∃ t, step refreshed = .next t) ∧ ∀ p, QueuesBounded (refreshed.port p) := by
  refine ⟨⟨_, rfl⟩, fun p => ?_⟩
  cases p <;> exact ⟨by decide, by decide, by decide, by decide, by decide, by decide⟩

/-- The start of a job that waits. -/
def starting : State := { busy with pending := [.jobStart] }
theorem witness_JobsAreKept : (∃ t, step starting = .next t) ∧ JobsAgree starting := by
  refine ⟨⟨_, rfl⟩, by decide, fun p => ?_, fun p r e => ?_, fun f e => ?_⟩
  · cases p
    · constructor
      · intro h; revert h; decide
      · rintro ⟨r, e, _⟩; cases e
    · exact ⟨fun _ => ⟨_, rfl, rfl⟩, fun _ => by decide⟩
    · constructor
      · intro h; revert h; decide
      · rintro ⟨r, e, _⟩; cases e
  · cases p <;> cases e
    exact ⟨fun _ => rfl, fun _ => rfl⟩
  · cases e

/-- A return of a receiver, and the commit of a CLOSE in flight. -/
def returning : State := { hired with pending := [.returnReceiver .desk1 1 7] }
theorem hired_credit : CreditAgrees returning := by
  have line' : ∀ link k, returning.ret.line? link = some k → k = ⟨7, 0, none, .out, 0⟩ := by
    intro link k e
    have hh : returning.ret.hires = [(1, ⟨0, 5000, .desk1, 0, some 60, false, 4, [⟨7, 0, none, .out, 0⟩]⟩)] := rfl
    unfold Retained.line? at e
    rw [hh, Table.find?_cons] at e
    split at e
    · simp only [Option.bind_some] at e
      cases h : link.line with
      | zero => rw [h] at e; simpa using e.symm
      | succ n => rw [h] at e; simp at e
    · simp at e
  have tuned' : ∀ n, (returning.receiver n).tuned = none := by
    intro n
    have hr : returning.ret.receivers = [(7, ⟨some 700, .hired, some ⟨1, 0⟩, none, none, none, false, false, 1⟩)] := rfl
    show ((returning.ret.receivers.find? n).getD Receiver.unenrolled).tuned = none
    rw [hr, Table.find?_cons]
    split <;> rfl
  refine ⟨fun link l e => ?_, fun link l e => ?_, fun n m e => ?_, by decide +kernel, by decide +kernel⟩
  · rw [line' link l e]; simp
  · rw [line' link l e]; decide
  · rw [tuned' n] at e; cases e
theorem witness_HiresAndLinksAreKept : (∃ t, step returning = .next t) ∧ HiresLawful returning.ret ∧
    LinksAgree returning.ret ∧ CloseHolds returning ∧ CreditAgrees returning ∧
    (∀ e ∈ returning.ret.hires, e.2.changeCount < 4294967295) :=
  ⟨⟨_, rfl⟩, hired_hires, hired_links, fun _ _ e => (by cases e), hired_credit, by decide⟩
theorem witness_HiresAndLinksAreKept_close :
    (∃ t, step { begun 1 with pending := [.closeCompletion] } = .next t ∧ t.ret.hires = []) ∧ CloseHolds (begun 1) := by
  refine ⟨⟨_, rfl, by decide +kernel⟩, fun f a e _ => ?_⟩
  have hf : ((begun 1).gen.flight.all fun f => ((begun 1).hire? f.copy.ticket).any fun h =>
      decide (f.copy.changeCount ≤ h.changeCount) && h.lines.all (fun l => l.state != .out)) = true := by decide +kernel
  rw [e] at hf
  simp only [Option.all_some, Option.any_eq_true, Bool.and_eq_true, decide_eq_true_eq, List.all_eq_true, bne_iff_ne,
    ne_eq] at hf
  obtain ⟨h, h1, h2, h3⟩ := hf
  exact ⟨h, h1, h2, fun _ => h3⟩

/-- A close that commits a loss fee, a deposit and an amount collected. -/
theorem witness_AccountsStayBalanced :
    ∃ t, step { begun 1 with pending := [.closeCompletion] } = .next t ∧
      ((begun 1).ret.accounts.below → (begun 1).ret.accounts.balanced) ∧ t.ret.accounts.below ∧
      t.ret.accounts.lossFees = 9500 := by
  refine ⟨_, rfl, fun _ => ?_, ?_, by decide +kernel⟩
  · unfold Accounts.balanced; decide +kernel
  · unfold Accounts.below; decide +kernel

theorem witness_RangesAreKept : (∃ t, step refreshed = .next t) ∧ RangesKept refreshed :=
  ⟨⟨_, rfl⟩, by decide, by decide +kernel, by decide +kernel, by decide +kernel, by decide, by decide, by decide⟩

theorem witness_RelayGraphIsJudged : hasCycle seven = false ∧ hasCycle (withInput 0 (.channel 5) seven) = true ∧
    produced seven 0 = true ∧ produced seven 2 = false := by decide +kernel

end Sys2Proof.Tests
end

section
/-! SUPPORT. What the requests of section 7.2 answer and write: one law for each outcome of RECEIVER_ENROL,
RECEIVER_WITHDRAW, RECEIVER_REINSTATE and RECEIVER_CLEAR_FLAGS, and the settlement of O32. -/

namespace Sys2Proof.Machine
open Sys2Proof

/-! ## How a console request comes to its block -/

/-- A request that its owner takes whole, on the ready console: the response carries what the owner answers. -/
theorem Ready.request_respond {s : State} (h : Ready .console s) (tag : Byte) (code : ReqCode) (f : State → Result) :
    request .console tag code (respond .console tag f) s = .next (responds .console tag (f s).1 (f s).2.1 (f s).2.2) := by
  rw [request_ready h tag code _ fun _ => rfl, respond_eq]

section
variable {s : State} (h : Ready .console s) (tag : Byte) (number : Half)
include h

theorem exec_receiverEnrol (serial : Word) : exec (.receiverEnrol .console tag number serial) s =
    .next (responds .console tag (enrol number serial s).1 [] (enrol number serial s).2) :=
  h.request_respond ..

theorem exec_receiverWithdraw : exec (.receiverWithdraw .console tag number) s =
    .next (responds .console tag (withdraw number s).1 [] (withdraw number s).2) :=
  h.request_respond ..

theorem exec_receiverReinstate : exec (.receiverReinstate .console tag number) s =
    .next (responds .console tag (reinstate number s).1 [] (reinstate number s).2) :=
  h.request_respond ..

theorem exec_receiverClearFlags : exec (.receiverClearFlags .console tag number) s =
    .next (responds .console tag (clearFlags number s).1 [] (clearFlags number s).2) :=
  h.request_respond ..

theorem exec_hallSet (code : Half) : exec (.hallSet .console tag code) s =
    .next (responds .console tag (setHall code s).1 (setHall code s).2.1 (setHall code s).2.2) :=
  h.request_respond ..

end

/-! ## The checks -/

theorem receiverOf_of_le {number : Half} (h : 4096 ≤ number.toNat) : receiverOf number = none :=
  if_neg (Nat.not_lt.mpr h)

theorem receiverOf_of_lt {number : Half} (h : number.toNat < 4096) : receiverOf number = some number.toNat :=
  if_pos h

theorem serialInUse_iff (s : State) (n : Nat) (serial : Option Word) : serialInUse s n serial = true ↔
    ∃ e ∈ s.ret.receivers, e.1 ≠ n ∧ inService e.2 = true ∧ e.2.serial = serial := by
  simp [serialInUse, and_assoc]

theorem serialInUse_eq_false_iff (s : State) (n : Nat) (serial : Option Word) : serialInUse s n serial = false ↔
    ∀ e ∈ s.ret.receivers, e.1 ≠ n → inService e.2 = true → e.2.serial ≠ serial := by
  rw [← Bool.not_eq_true, serialInUse_iff]
  push Not
  rfl

/-! ## A number out of range (R102 to R104) -/

section
variable {number : Half} (h : 4096 ≤ number.toNat) (s : State)
include h

theorem enrol_badArg (serial : Word) : enrol number serial s = (.badArg, s) := by
  simp only [enrol, receiverOf_of_le h]

theorem withdraw_badArg : withdraw number s = (.badArg, s) := by
  simp only [withdraw, receiverOf_of_le h]

theorem reinstate_badArg : reinstate number s = (.badArg, s) := by
  simp only [reinstate, receiverOf_of_le h]

theorem clearFlags_badArg : clearFlags number s = (.badArg, s) := by
  simp only [clearFlags, receiverOf_of_le h]

end

/-! ## Flags that are clear (R104) -/

theorem Receiver.clear_flags_of_clear {r : Receiver} (astray : r.astray = false) (sighted : r.sighted = false) :
    { r with astray := false, sighted := false } = r := by
  cases r
  cases astray
  cases sighted
  rfl

/-! ## A number in range (R102 to R104) -/

section
variable {number : Half} {s : State} (hn : number.toNat < 4096)
include hn

theorem enrol_inUse {serial : Word}
    (h : inService (s.receiver number.toNat) = true ∨ serialInUse s number.toNat (some serial) = true) :
    enrol number serial s = (.inUse, s) := by
  simp only [enrol, receiverOf_of_lt hn, Bool.or_eq_true, if_pos h]

theorem enrol_done {serial : Word} (hr : inService (s.receiver number.toNat) = false)
    (hs : serialInUse s number.toNat (some serial) = false) :
    enrol number serial s =
      (.done, s.setReceiver number.toNat ⟨some serial, .stock, none, none, none, none, false, false, 0⟩) := by
  simp only [enrol, receiverOf_of_lt hn, hr, hs]
  rfl

theorem withdraw_done (h : (s.receiver number.toNat).state = .stock ∨
      ((s.receiver number.toNat).state = .lost ∧ (s.receiver number.toNat).link = none)) :
    withdraw number s = (.done, s.setReceiver number.toNat
      { s.receiver number.toNat with state := .withdrawn, astray := false, sighted := false }) := by
  simp only [withdraw, receiverOf_of_lt hn, if_pos h]

theorem withdraw_wrongState (h : ¬ ((s.receiver number.toNat).state = .stock ∨
      ((s.receiver number.toNat).state = .lost ∧ (s.receiver number.toNat).link = none))) :
    withdraw number s = (.wrongState, s) := by
  simp only [withdraw, receiverOf_of_lt hn, if_neg h]

theorem reinstate_wrongState (h : (s.receiver number.toNat).state ≠ .withdrawn) :
    reinstate number s = (.wrongState, s) := by
  simp only [reinstate, receiverOf_of_lt hn, if_neg h]

theorem reinstate_inUse (h : (s.receiver number.toNat).state = .withdrawn)
    (hs : serialInUse s number.toNat (s.receiver number.toNat).serial = true) :
    reinstate number s = (.inUse, s) := by
  simp only [reinstate, receiverOf_of_lt hn, if_pos h, if_pos hs]

theorem reinstate_done (h : (s.receiver number.toNat).state = .withdrawn)
    (hs : serialInUse s number.toNat (s.receiver number.toNat).serial = false) :
    reinstate number s =
      (.done, s.setReceiver number.toNat { s.receiver number.toNat with state := .stock }) := by
  simp only [reinstate, receiverOf_of_lt hn, if_pos h, hs]
  rfl

theorem clearFlags_answer : (clearFlags number s).1 = .done := by
  simp only [clearFlags, receiverOf_of_lt hn]
  split <;> rfl

/-- Where no flag is up the record is not written, and reads as if it had been. -/
theorem clearFlags_receiver (n : Nat) : (clearFlags number s).2.receiver n =
    if n = number.toNat then { s.receiver number.toNat with astray := false, sighted := false }
    else s.receiver n := by
  simp only [clearFlags, receiverOf_of_lt hn]
  split
  · simp only [State.setReceiver_receiver, eq_comm]
  · next clear =>
    simp only [Bool.or_eq_true, not_or, Bool.not_eq_true] at clear
    obtain ⟨astray, sighted⟩ := clear
    rw [Receiver.clear_flags_of_clear astray sighted]
    split
    · next e => rw [e]
    · rfl

end

theorem clearFlags_frame (number : Half) (s : State) :
    (clearFlags number s).2 = { s with ret.receivers := (clearFlags number s).2.ret.receivers } := by
  unfold clearFlags
  split
  · rfl
  · simp only
    split <;> rfl

/-- The states in which R103 refuses a withdrawal are the ones outside its condition. -/
theorem not_withdrawable {r : Receiver}
    (h : r.state = .unenrolled ∨ r.state = .hired ∨ (r.state = .lost ∧ r.link ≠ none) ∨ r.state = .withdrawn) :
    ¬ (r.state = .stock ∨ (r.state = .lost ∧ r.link = none)) := by
  rcases h with e | e | ⟨e, linked⟩ | e
  · simp [e]
  · simp [e]
  · simp [e, linked]
  · simp [e]

/-- Settles O32, request by request: each clause cites the law of its outcome. -/
theorem receiverRecordsAndHallCode : Obligations.ReceiverRecordsAndHallCode := by
  refine ⟨fun s tag number ready => ⟨fun out => ⟨fun serial => ?_, ?_, ?_, ?_⟩, fun hn r hr => ?_⟩,
    fun s tag code ready => exec_hallSet ready tag code⟩
  · rw [exec_receiverEnrol ready, enrol_badArg out]
  · rw [exec_receiverWithdraw ready, withdraw_badArg out]
  · rw [exec_receiverReinstate ready, reinstate_badArg out]
  · rw [exec_receiverClearFlags ready, clearFlags_badArg out]
  subst hr
  refine ⟨fun serial used => ?_, fun serial idle unused => ?_, fun allowed => ?_, fun barred => ?_, fun other => ?_,
    fun withdrawn used => ?_, fun withdrawn unused => ?_, (clearFlags number s).2, ?_, clearFlags_receiver hn,
    clearFlags_frame number s⟩
  · rw [exec_receiverEnrol ready, enrol_inUse hn (used.imp_right (serialInUse_iff ..).mpr)]
  · rw [exec_receiverEnrol ready, enrol_done hn idle ((serialInUse_eq_false_iff ..).mpr unused)]
  · rw [exec_receiverWithdraw ready, withdraw_done hn allowed]
  · rw [exec_receiverWithdraw ready, withdraw_wrongState hn (not_withdrawable barred)]
  · rw [exec_receiverReinstate ready, reinstate_wrongState hn other]
  · rw [exec_receiverReinstate ready, reinstate_inUse hn withdrawn ((serialInUse_iff ..).mpr used)]
  · rw [exec_receiverReinstate ready, reinstate_done hn withdrawn ((serialInUse_eq_false_iff ..).mpr unused)]
  · rw [exec_receiverClearFlags ready, clearFlags_answer hn]

end Sys2Proof.Machine
end

section
/-! SUPPORT. The arithmetic of the charge (chapter 9): the quotient rounded up, one law for each stage of a line and for
each figure of a hire, and the settlements of O36 and O37. -/

namespace Sys2Proof.Machine
open Sys2Proof

/-! ## The quotient rounded up -/

theorem divUp_eq_ceilDiv (n d : Nat) : divUp n d = n ⌈/⌉ d := (Nat.ceilDiv_eq_add_pred_div n d).symm

/-- What marks the quotient rounded up; the bounds below follow from it alone. -/
theorem divUp_le_iff {d : Nat} (hd : 0 < d) {n q : Nat} : divUp n d ≤ q ↔ n ≤ d * q := by
  rw [divUp_eq_ceilDiv, ceilDiv_le_iff_le_mul hd]

theorem le_divUp_mul {d : Nat} (hd : 0 < d) (n : Nat) : n ≤ divUp n d * d := by
  rw [Nat.mul_comm]
  exact (divUp_le_iff hd).mp le_rfl

theorem divUp_pred_mul_lt {n d : Nat} (hd : 0 < d) (hn : 0 < n) : (divUp n d - 1) * d < n := by
  by_contra! reached
  rw [Nat.mul_comm, ← divUp_le_iff hd] at reached
  have zero : divUp n d = 0 := by omega
  have covered := le_divUp_mul hd n
  rw [zero] at covered
  omega

theorem lt_divUp_mul_iff {d : Nat} (hd : 0 < d) (n : Nat) : n < divUp n d * d ↔ ¬ d ∣ n := by
  refine ⟨fun above ⟨q, hq⟩ => ?_, fun uneven => ?_⟩
  · have le : divUp n d ≤ q := (divUp_le_iff hd).mpr hq.le
    have : divUp n d * d ≤ q * d := Nat.mul_le_mul_right d le
    rw [Nat.mul_comm q d] at this
    omega
  · exact lt_of_le_of_ne (le_divUp_mul hd n) fun even => uneven ⟨divUp n d, even.trans (Nat.mul_comm ..)⟩

/-! ## The quanta of a line (R146) -/

theorem quantaOf_of_le {t : Terms} {net : Nat} (h : net ≤ t.grace) : quantaOf t net = 0 := if_pos h

theorem quantaOf_of_lt {t : Terms} {net : Nat} (h : t.grace < net) : quantaOf t net = divUp net t.quantum :=
  if_neg (Nat.not_le.mpr h)

theorem quantaOf_le_divUp (t : Terms) (net : Nat) : quantaOf t net ≤ divUp net t.quantum := by
  unfold quantaOf
  split
  · exact Nat.zero_le _
  · exact le_rfl

theorem roundedOf_iff (t : Terms) (net : Nat) : roundedOf t net = true ↔ t.grace < net ∧ ¬ t.quantum ∣ net := by
  simp [roundedOf, Nat.dvd_iff_mod_eq_zero]

theorem roundedOf_of_le {t : Terms} {net : Nat} (h : net ≤ t.grace) : roundedOf t net = false := by
  rw [← Bool.not_eq_true, roundedOf_iff]
  exact fun ⟨past, _⟩ => Nat.not_lt.mpr h past

/-- Settles O36: past the grace, the facts of the quotient rounded up; the largest Q is 4294967295 in quanta of 60. -/
theorem quantaAreExact : Obligations.QuantaAreExact := by
  refine ⟨fun t net hq => ⟨fun within => ⟨quantaOf_of_le within, roundedOf_of_le within⟩, fun past => ?_⟩,
    fun t net hq hn => ?_, fun t hq hg => ?_⟩
  · rw [quantaOf_of_lt past, lt_divUp_mul_iff hq, roundedOf_iff]
    have rounded : t.grace < net ∧ ¬ t.quantum ∣ net ↔ ¬ t.quantum ∣ net := and_iff_right past
    exact ⟨le_divUp_mul hq net, divUp_pred_mul_lt hq (Nat.zero_lt_of_lt past), rounded, rounded⟩
  · refine (quantaOf_le_divUp t net).trans ((divUp_le_iff (by omega)).mpr ?_)
    calc net ≤ 60 * 71582789 := by omega
      _ ≤ t.quantum * 71582789 := Nat.mul_le_mul_right _ hq
  · rw [quantaOf_of_lt (by omega), hq]
    rfl

/-! ## The day cap (R148) -/

theorem dayCount_zero : dayCount 0 = 1 := rfl

theorem dayCount_of_pos {duration : Nat} (h : 0 < duration) : dayCount duration = divUp duration 86400 :=
  if_neg (Nat.ne_of_gt h)

theorem le_dayCount_mul {duration : Nat} (h : 0 < duration) : duration ≤ dayCount duration * 86400 := by
  rw [dayCount_of_pos h]
  exact le_divUp_mul (by omega) duration

theorem dayCount_pred_mul_lt {duration : Nat} (h : 0 < duration) : (dayCount duration - 1) * 86400 < duration := by
  rw [dayCount_of_pos h]
  exact divUp_pred_mul_lt (by omega) h

theorem dayCount_le {duration : Nat} (h : duration ≤ 4294967295) : dayCount duration ≤ 49711 := by
  rcases Nat.eq_zero_or_pos duration with rfl | pos
  · rw [dayCount_zero]
    omega
  · rw [dayCount_of_pos pos, divUp_le_iff (by omega)]
    omega

theorem capOf_eq (t : Terms) (duration : Nat) : capOf t duration = min 4294967295 (dayCount duration * t.dayCap) := rfl

/-! ## The stages of a line (R145 to R149) -/

section
variable (t : Terms) (l : CopyLine)

@[simp] theorem lineCharge_receiver : (lineCharge t l).receiver = l.receiver := rfl
@[simp] theorem lineCharge_state : (lineCharge t l).state = l.state := rfl
@[simp] theorem lineCharge_duration : (lineCharge t l).duration = l.ended - l.issue := rfl
@[simp] theorem lineCharge_credit : (lineCharge t l).credit = l.credit := rfl
theorem lineCharge_net : (lineCharge t l).net = (lineCharge t l).duration - l.credit := rfl
theorem lineCharge_quanta : (lineCharge t l).quanta = quantaOf t (lineCharge t l).net := rfl
theorem lineCharge_rounded : (lineCharge t l).flags.rounded = roundedOf t (lineCharge t l).net := rfl

/-- The time charge before the cap (R147), held at the amount limit. -/
def uncapped (t : Terms) (l : CopyLine) : Nat := min 4294967295 ((lineCharge t l).quanta * t.rate)

theorem lineCharge_capped_iff : (lineCharge t l).flags.capped = true ↔
    0 < t.dayCap ∧ capOf t (lineCharge t l).duration < uncapped t l := by
  have stages : (lineCharge t l).flags.capped =
      (decide (0 < t.dayCap) && decide (capOf t (lineCharge t l).duration < uncapped t l)) := rfl
  rw [stages, Bool.and_eq_true, decide_eq_true_eq, decide_eq_true_eq]

theorem lineCharge_timeCharge : (lineCharge t l).timeCharge =
    if (lineCharge t l).flags.capped then capOf t (lineCharge t l).duration else uncapped t l := rfl

theorem lineCharge_charge : (lineCharge t l).charge =
    min 4294967295 ((lineCharge t l).timeCharge + if l.state = .lost then t.lossFee else 0) := rfl

theorem lineCharge_fee : (lineCharge t l).fee = (lineCharge t l).charge - (lineCharge t l).timeCharge := rfl

variable {t}

theorem lineCharge_capped_of_no_cap (h : t.dayCap = 0) : (lineCharge t l).flags.capped = false := by
  rw [← Bool.not_eq_true, lineCharge_capped_iff, h]
  exact fun ⟨cap, _⟩ => Nat.lt_irrefl 0 cap

theorem lineCharge_timeCharge_of_no_cap (h : t.dayCap = 0) : (lineCharge t l).timeCharge = uncapped t l := by
  rw [lineCharge_timeCharge, lineCharge_capped_of_no_cap l h]
  rfl

theorem lineCharge_timeCharge_of_cap (h : 0 < t.dayCap) :
    (lineCharge t l).timeCharge = min (uncapped t l) (capOf t (lineCharge t l).duration) := by
  have capped := lineCharge_capped_iff t l
  rw [lineCharge_timeCharge]
  split
  · next reached => exact (min_eq_right (capped.mp reached).2.le).symm
  · next unreached => exact (min_eq_left (Nat.not_lt.mp fun less => unreached (capped.mpr ⟨h, less⟩))).symm

variable (t)

theorem lineCharge_timeCharge_le : (lineCharge t l).timeCharge ≤ 4294967295 := by
  rw [lineCharge_timeCharge]
  split
  · exact min_le_left ..
  · exact min_le_left ..

theorem lineCharge_timeCharge_le_charge : (lineCharge t l).timeCharge ≤ (lineCharge t l).charge := by
  rw [lineCharge_charge]
  exact le_min (lineCharge_timeCharge_le t l) (Nat.le_add_right ..)

variable {t l}

theorem lineCharge_charge_of_lost (h : l.state = .lost) :
    (lineCharge t l).charge = min 4294967295 ((lineCharge t l).timeCharge + t.lossFee) := by
  rw [lineCharge_charge, if_pos h]

theorem lineCharge_charge_of_not_lost (h : l.state ≠ .lost) :
    (lineCharge t l).charge = (lineCharge t l).timeCharge := by
  rw [lineCharge_charge, if_neg h]
  exact min_eq_right (lineCharge_timeCharge_le t l)

variable (t l)

/-- Without a loss fee the sum of the last stage cannot pass the limit: the time charge is already held at it. -/
theorem lineCharge_saturated_iff : (lineCharge t l).flags.saturated = true ↔
    (4294967295 < (lineCharge t l).quanta * t.rate ∧ (lineCharge t l).flags.capped = false) ∨
    (l.state = .lost ∧ 4294967295 < (lineCharge t l).timeCharge + t.lossFee) := by
  have stages : (lineCharge t l).flags.saturated =
      (decide (4294967295 < (lineCharge t l).quanta * t.rate) && !(lineCharge t l).flags.capped ||
        decide (4294967295 < (lineCharge t l).timeCharge + if l.state = .lost then t.lossFee else 0)) := rfl
  have last : (4294967295 < (lineCharge t l).timeCharge + if l.state = .lost then t.lossFee else 0) ↔
      l.state = .lost ∧ 4294967295 < (lineCharge t l).timeCharge + t.lossFee := by
    have held := lineCharge_timeCharge_le t l
    split
    · next lost => exact (and_iff_right lost).symm
    · next kept => exact iff_of_false (Nat.not_lt.mpr held) fun ⟨lost, _⟩ => kept lost
  rw [stages, Bool.or_eq_true, Bool.and_eq_true, Bool.not_eq_true', decide_eq_true_eq, decide_eq_true_eq, last]

end

/-! ## The settlement of a total against a deposit (R152) -/

section
variable {total deposit : Nat}

theorem settlementOf_of_lt (h : deposit < total) : settlementOf total deposit = (.owed, total - deposit) := if_pos h

theorem settlementOf_of_eq (h : deposit = total) : settlementOf total deposit = (.even, 0) := by
  rw [settlementOf, if_neg (by omega), if_pos h.symm]

theorem settlementOf_of_gt (h : total < deposit) : settlementOf total deposit = (.refund, deposit - total) := by
  rw [settlementOf, if_neg (by omega), if_neg (by omega)]

theorem settlementOf_eq_owed_iff : (settlementOf total deposit).1 = .owed ↔ deposit < total := by
  rcases lt_trichotomy deposit total with h | rfl | h
  · simp [settlementOf_of_lt h, h]
  · simp [settlementOf_of_eq rfl]
  · simp [settlementOf_of_gt h, h.le]

theorem settlementOf_eq_even_iff : (settlementOf total deposit).1 = .even ↔ deposit = total := by
  rcases lt_trichotomy deposit total with h | rfl | h
  · simp [settlementOf_of_lt h, h.ne]
  · simp [settlementOf_of_eq rfl]
  · simp [settlementOf_of_gt h, h.ne']

theorem settlementOf_eq_refund_iff : (settlementOf total deposit).1 = .refund ↔ total < deposit := by
  rcases lt_trichotomy deposit total with h | rfl | h
  · simp [settlementOf_of_lt h, h.le]
  · simp [settlementOf_of_eq rfl]
  · simp [settlementOf_of_gt h, h]

theorem settlementOf_amount_le (total deposit : Nat) : (settlementOf total deposit).2 ≤ max total deposit := by
  rcases lt_trichotomy deposit total with h | h | h
  · rw [settlementOf_of_lt h]
    omega
  · rw [settlementOf_of_eq h]
    omega
  · rw [settlementOf_of_gt h]
    omega

end

/-! ## The figures and flags of a hire (R151, R152) -/

section
variable (w : WorkCopy)

theorem hireCharge_lines : (hireCharge w).lines = w.lines.map (lineCharge w.terms) := rfl

theorem hireCharge_total :
    (hireCharge w).total = min 4294967295 ((hireCharge w).lines.map LineCharge.charge).sum := rfl

theorem hireCharge_time :
    (hireCharge w).time = min 4294967295 ((hireCharge w).lines.map LineCharge.timeCharge).sum := rfl

theorem hireCharge_fee : (hireCharge w).fee = (hireCharge w).total - (hireCharge w).time := rfl

theorem hireCharge_amount : (hireCharge w).amount = (settlementOf (hireCharge w).total w.deposit).2 := rfl

theorem hireCharge_settlement :
    (hireCharge w).flags.settlement = (settlementOf (hireCharge w).total w.deposit).1 := rfl

theorem hireCharge_rounded_iff : (hireCharge w).flags.rounded = true ↔
    ∃ l ∈ (hireCharge w).lines, l.flags.rounded = true := List.any_eq_true

theorem hireCharge_capped_iff : (hireCharge w).flags.capped = true ↔
    ∃ l ∈ (hireCharge w).lines, l.flags.capped = true := List.any_eq_true

theorem hireCharge_saturated_iff : (hireCharge w).flags.saturated = true ↔
    (∃ l ∈ (hireCharge w).lines, l.flags.saturated = true) ∨
      4294967295 < ((hireCharge w).lines.map LineCharge.charge).sum := by
  have flag : (hireCharge w).flags.saturated = ((hireCharge w).lines.any (fun l => l.flags.saturated) ||
      decide (4294967295 < ((hireCharge w).lines.map LineCharge.charge).sum)) := rfl
  rw [flag, Bool.or_eq_true, List.any_eq_true, decide_eq_true_eq]

theorem hireCharge_estimate_iff : (hireCharge w).flags.estimate = true ↔ ∃ l ∈ w.lines, l.state = .out := by
  simp only [hireCharge, List.any_eq_true, beq_iff_eq]

/-- Line by line the time charge is within the charge, so it is in the sums, and in the sums as they are held. -/
theorem hireCharge_time_le_total : (hireCharge w).time ≤ (hireCharge w).total := by
  have sums : ((hireCharge w).lines.map LineCharge.timeCharge).sum ≤ ((hireCharge w).lines.map LineCharge.charge).sum := by
    refine List.sum_le_sum fun c hc => ?_
    obtain ⟨l, -, rfl⟩ := List.mem_map.mp hc
    exact lineCharge_timeCharge_le_charge w.terms l
  rw [hireCharge_time, hireCharge_total]
  exact min_le_min_left _ sums

theorem hireCharge_parts : (hireCharge w).time + (hireCharge w).fee = (hireCharge w).total :=
  Nat.add_sub_of_le (hireCharge_time_le_total w)

variable {w}

theorem hireCharge_amount_le (h : w.deposit ≤ 4294967295) : (hireCharge w).amount ≤ 4294967295 := by
  rw [hireCharge_amount]
  exact (settlementOf_amount_le ..).trans (max_le (min_le_left ..) h)

theorem hireCharge_of_owed (h : w.deposit < (hireCharge w).total) :
    (hireCharge w).flags.settlement = .owed ∧ w.deposit + (hireCharge w).amount = (hireCharge w).total := by
  rw [hireCharge_settlement, hireCharge_amount, settlementOf_of_lt h]
  exact ⟨rfl, Nat.add_sub_of_le h.le⟩

theorem hireCharge_of_even (h : w.deposit = (hireCharge w).total) :
    (hireCharge w).flags.settlement = .even ∧ (hireCharge w).amount = 0 := by
  rw [hireCharge_settlement, hireCharge_amount, settlementOf_of_eq h]
  exact ⟨rfl, rfl⟩

theorem hireCharge_of_refund (h : (hireCharge w).total < w.deposit) :
    (hireCharge w).flags.settlement = .refund ∧ (hireCharge w).total + (hireCharge w).amount = w.deposit := by
  rw [hireCharge_settlement, hireCharge_amount, settlementOf_of_gt h]
  exact ⟨rfl, Nat.add_sub_of_le h.le⟩

/-! ## The conditions of a CLOSE (R161) -/

variable (w)

theorem conditionHolds_ifOwed : conditionHolds .ifOwed (hireCharge w).flags = true ↔ w.deposit < (hireCharge w).total :=
  beq_iff_eq.trans settlementOf_eq_owed_iff

theorem conditionHolds_ifRefund : conditionHolds .ifRefund (hireCharge w).flags = true ↔ (hireCharge w).total < w.deposit :=
  beq_iff_eq.trans settlementOf_eq_refund_iff

theorem conditionHolds_ifEven : conditionHolds .ifEven (hireCharge w).flags = true ↔ w.deposit = (hireCharge w).total :=
  beq_iff_eq.trans settlementOf_eq_even_iff

theorem conditionHolds_ifNotRefund :
    conditionHolds .ifNotRefund (hireCharge w).flags = true ↔ w.deposit ≤ (hireCharge w).total := by
  have either : conditionHolds .ifNotRefund (hireCharge w).flags = true ↔
      conditionHolds .ifOwed (hireCharge w).flags = true ∨ conditionHolds .ifEven (hireCharge w).flags = true :=
    Bool.or_eq_true_iff
  rw [either, conditionHolds_ifOwed, conditionHolds_ifEven, le_iff_lt_or_eq]

theorem conditionHolds_ifNotOwed :
    conditionHolds .ifNotOwed (hireCharge w).flags = true ↔ (hireCharge w).total ≤ w.deposit := by
  have either : conditionHolds .ifNotOwed (hireCharge w).flags = true ↔
      conditionHolds .ifRefund (hireCharge w).flags = true ∨ conditionHolds .ifEven (hireCharge w).flags = true :=
    Bool.or_eq_true_iff
  rw [either, conditionHolds_ifRefund, conditionHolds_ifEven, le_iff_lt_or_eq, eq_comm (a := w.deposit)]

theorem conditionHolds_ifUnsaturated : conditionHolds .ifUnsaturated (hireCharge w).flags = true ↔
    (hireCharge w).flags.saturated = false := Iff.of_eq (Bool.not_eq_true' _)

end

/-- Settles O37: each figure by the law of its stage; for a line with a cap, the K of R148 is the model's day count. -/
theorem chargesAndSettlement : Obligations.ChargesAndSettlement := by
  refine ⟨fun t l c _ ended credit hc => ?_, fun w h hh => ?_⟩
  · subst hc
    refine ⟨lineCharge_receiver t l, lineCharge_state t l, lineCharge_credit t l, Nat.sub_add_cancel ended,
      Nat.sub_add_cancel credit, lineCharge_quanta t l, lineCharge_rounded t l,
      fun free => ⟨lineCharge_timeCharge_of_no_cap l free, lineCharge_capped_of_no_cap l free⟩,
      fun cap => ⟨dayCount (lineCharge t l).duration, fun empty => ?_,
        fun lasting => ⟨le_dayCount_mul lasting, dayCount_pred_mul_lt lasting⟩, dayCount_le,
        lineCharge_timeCharge_of_cap l cap, (lineCharge_capped_iff t l).trans (and_iff_right cap)⟩,
      lineCharge_charge_of_lost, lineCharge_charge_of_not_lost,
      Nat.add_sub_of_le (lineCharge_timeCharge_le_charge t l), lineCharge_saturated_iff t l⟩
    rw [empty, dayCount_zero]
  · subst hh
    exact ⟨hireCharge_lines w, hireCharge_total w, hireCharge_time w, hireCharge_parts w, hireCharge_of_owed,
      hireCharge_of_even, hireCharge_of_refund, hireCharge_amount_le, hireCharge_rounded_iff w,
      hireCharge_capped_iff w, hireCharge_saturated_iff w, hireCharge_estimate_iff w, conditionHolds_ifOwed w,
      conditionHolds_ifRefund w, conditionHolds_ifEven w, conditionHolds_ifNotRefund w, conditionHolds_ifNotOwed w,
      conditionHolds_ifUnsaturated w, rfl⟩

end Sys2Proof.Machine
end

section
/-! SUPPORT. What a port's subscriptions, its notice queues and its wait answer (sections 11.3 and 11.4): one law for each
outcome of SUBSCRIBE, NOTICE_FETCH, NOTICE_WAIT and its timeout, and the settlement of O43. -/

namespace Sys2Proof.Machine
open Sys2Proof

/-! ## How these requests come to their block -/

section
variable {s : State} {p : Port} (h : Ready p s) (tag : Byte)
include h

theorem exec_subscribe (kinds : Half) : exec (.subscribe p tag kinds) s =
    .next (responds p tag (subscribeTo p kinds s).1 (subscribeTo p kinds s).2.1 (subscribeTo p kinds s).2.2) :=
  request_ready h tag .subscribe _ nofun

theorem exec_noticeFetch : exec (.noticeFetch p tag) s = .next (noticeFetchOf p tag s) :=
  request_ready h tag .noticeFetch _ nofun

theorem exec_noticeWait (timeout : Byte) : exec (.noticeWait p tag timeout) s = .next (noticeWaitOf p tag timeout s) :=
  request_ready h tag .noticeWait _ nofun

end

/-! ## SUBSCRIBE (R176) -/

theorem subscribeTo_badArg {kinds : Half} (h : kinds.getLsbD 15 = true) (p : Port) (s : State) :
    subscribeTo p kinds s = (.badArg, [], s) := if_pos h

theorem subscribeTo_done {kinds : Half} (h : kinds.getLsbD 15 = false) (p : Port) (s : State) :
    subscribeTo p kinds s = (.done, halfBytes (kinds &&& 0x7FFE#16),
      s.setPort p { s.port p with subscriptions := kinds &&& 0x7FFE#16 }) :=
  if_neg (ne_true_of_eq_false h)

/-- Of the kinds named, every one but RESTARTED is in the mask. -/
theorem getLsbD_kinds_applied {kinds : Half} (h : kinds.getLsbD 15 = false) (i : Nat) :
    (kinds &&& 0x7FFE#16).getLsbD i = (kinds.getLsbD i && i != 0) := by
  have mask : ∀ j < 15, (0x7FFE#16).getLsbD j = (j != 0) := by decide
  rw [BitVec.getLsbD_and]
  rcases lt_trichotomy i 15 with low | rfl | high
  · rw [mask i low]
  · rw [h, Bool.false_and, Bool.false_and]
  · rw [BitVec.getLsbD_of_ge kinds i high, Bool.false_and, Bool.false_and]

/-! ## The next notice (R178, R179) -/

section
variable {k : PortState} {n : Notice} {rest : List Notice}

theorem nextNotice_urgent (h : k.urgent = n :: rest) : nextNotice k = some (n, { k with urgent := rest }) := by
  simp only [nextNotice, h]

theorem nextNotice_routine (hu : k.urgent = []) (h : k.routine = n :: rest) :
    nextNotice k = some (n, { k with routine := rest }) := by
  simp only [nextNotice, hu, h]

theorem nextNotice_none (hu : k.urgent = []) (h : k.routine = []) : nextNotice k = none := by
  simp only [nextNotice, hu, h]

end

section
variable {p : Port} {s : State} {n : Notice} {k : PortState}

theorem fetchNotice_some (h : nextNotice (s.port p) = some (n, k)) :
    fetchNotice p s = some (noticeBytes n (s.port p).overrun, s.setPort p { k with overrun := false }) := by
  rw [fetchNotice, h, Option.map_some]

theorem fetchNotice_none (h : nextNotice (s.port p) = none) : fetchNotice p s = none := by
  rw [fetchNotice, h, Option.map_none]

/-! ## NOTICE_FETCH and NOTICE_WAIT (R179, R180) -/

variable (tag timeout : Byte)

theorem noticeFetchOf_some (h : nextNotice (s.port p) = some (n, k)) : noticeFetchOf p tag s =
    responds p tag .done (noticeBytes n (s.port p).overrun) (s.setPort p { k with overrun := false }) := by
  simp only [noticeFetchOf, fetchNotice_some h, answer_eq]

theorem noticeFetchOf_none (h : nextNotice (s.port p) = none) :
    noticeFetchOf p tag s = responds p tag .empty [] s := by
  simp only [noticeFetchOf, fetchNotice_none h, answer_eq]

theorem noticeWaitOf_some (h : nextNotice (s.port p) = some (n, k)) : noticeWaitOf p tag timeout s =
    responds p tag .done (u8 (max 1 timeout.toNat) ++ noticeBytes n (s.port p).overrun)
      (s.setPort p { k with overrun := false }) := by
  simp only [noticeWaitOf, fetchNotice_some h, answer_eq]

theorem noticeWaitOf_none (h : nextNotice (s.port p) = none) : noticeWaitOf p tag timeout s =
    s.setPort p { s.port p with
      inProgress := some ⟨.noticeWait, tag, some ⟨max 1 timeout.toNat, max 1 timeout.toNat⟩⟩ } := by
  simp only [noticeWaitOf, fetchNotice_none h]

end

/-! ## The timeout of a wait (R180) -/

theorem takeOne_due {d : Due} {s : State} (running : s.running = true) (due : d ∈ s.gen.due) :
    takeOne d s = .next (runDue d { s with gen.due := s.gen.due.erase d }) :=
  if_pos (by rw [running, List.contains_iff_mem.mpr due, Bool.and_true])

section
variable {p : Port} {s : State} {r : InProgress} {w : Wait} (pending : (s.port p).inProgress = some r)
  (waits : r.wait = some w)
include pending waits

theorem endWait_pending (a : Answer) : endWait p a s = answered p r a (u8 w.applied) s := by
  obtain ⟨code, tag, wait⟩ := r
  subst waits
  rcases endWait_cases p a s with ⟨_, _, _, found, ended⟩ | ⟨idle, _⟩
  · rw [pending] at found
    cases found
    exact ended
  · exact (idle _ _ _ pending).elim

theorem runDue_wait_spent (spent : w.remaining = 0) :
    runDue (.wait p) s = answered p r .empty (u8 w.applied) s := by
  rw [← endWait_pending pending waits]
  obtain ⟨code, tag, wait⟩ := r
  subst waits
  simp only [runDue, pending, if_pos spent]

end

/-- Settles O43: the queues decide, through the next notice, what a fetch and a wait answer; a wait that a second event has
brought to 0 is among the expiries, and its own command ends it. -/
theorem noticesAreFetchedAndAwaited : Obligations.NoticesAreFetchedAndAwaited := by
  refine ⟨fun s p tag ready => ⟨fun kinds named => ?_, fun kinds fits => ⟨_, getLsbD_kinds_applied fits, ?_⟩,
    fun n rest urgent => ?_, fun n rest noUrgent routine => ?_, fun noUrgent noRoutine => ?_⟩,
    fun s p tag timeout ready => ⟨fun n k next => ?_, fun noUrgent noRoutine => ?_⟩,
    fun s p r w running due pending waits spent => ?_⟩
  · rw [exec_subscribe ready, subscribeTo_badArg named]
  · rw [exec_subscribe ready, subscribeTo_done fits]
  · rw [exec_noticeFetch ready, noticeFetchOf_some tag (nextNotice_urgent urgent)]
  · rw [exec_noticeFetch ready, noticeFetchOf_some tag (nextNotice_routine noUrgent routine)]
  · rw [exec_noticeFetch ready, noticeFetchOf_none tag (nextNotice_none noUrgent noRoutine)]
  · rw [exec_noticeWait ready, noticeWaitOf_some tag timeout next]
  · rw [exec_noticeWait ready, noticeWaitOf_none tag timeout (nextNotice_none noUrgent noRoutine)]
  · calc exec (.noticeWaitTimeout p) s
        = takeOne (.wait p) s := rfl
      _ = .next (runDue (.wait p) { s with gen.due := s.gen.due.erase (.wait p) }) := takeOne_due running due
      _ = .next (answered p r .empty (u8 w.applied) { s with gen.due := s.gen.due.erase (.wait p) }) := by
        rw [runDue_wait_spent (s := { s with gen.due := s.gen.due.erase (.wait p) }) pending waits spent]

end Sys2Proof.Machine
end

section
/-! SUPPORT. The deeds of the hall: the units in which its events change the live state, each with the orders, the mute state
and the listening sources that follow it. What a deed keeps, every event of the hall keeps. -/

namespace Sys2Proof.Machine
open Sys2Proof

/-- `f` sends one notice other than RESTARTED, or nothing. -/
def Tells (f : State → State) : Prop := ∀ t, f t = t ∨ ∃ n, isRestarted n = false ∧ f t = notify n t

/-- The listening sources, the auto-floor hold and the mute state of a booth stand. -/
structure SameSources (l m : BoothLive) : Prop where
  muted : m.muted = l.muted
  chosen : m.chosen = l.chosen
  effective : m.effective = l.effective
  autoHold : m.autoHold = l.autoHold

theorem SameSources.of_eq {l m : BoothLive} (h : m = { l with
    seats := m.seats, selection := m.selection, indication := m.indication, presence := m.presence, misses := m.misses
    lastGood := m.lastGood }) : SameSources l m := by
  rw [h]; exact ⟨rfl, rfl, rfl, rfl⟩

/-- `t` is reached from `s` by changes of coverage and of holders, by writes of seats that the mute state follows, by writes of
booths that leave seats and sources alone, by writes of seat accumulators and offers, and by notices. -/
inductive Deeds (s : State) : State → Prop where
  | refl : Deeds s s
  | cover {t : State} (c : Chan) (x : ChanLive) (f : State → State) (hf : Tells f) :
      Deeds s t → Deeds s (coverageChange c x f t)
  | hold {t : State} (c : Chan) (h : Holder) : Deeds s t → Deeds s (holderChange c h t)
  | seats {t : State} (b : Booth) (l : BoothLive) (h : SameSources (t.booth b) l) :
      Deeds s t → Deeds s (syncMute b (t.setBooth b l))
  | booth {t : State} (b : Booth) (l : BoothLive) (h : SameSources (t.booth b) l) (hs : l.seats = (t.booth b).seats) :
      Deeds s t → Deeds s (t.setBooth b l)
  | acc {t : State} (b : Booth) (k : Seat) (turns : Nat) (hx : turns ≤ 65535) :
      Deeds s t → Deeds s (t.setAcc b k { t.acc b k with turns := turns })
  | offer {t : State} (c : Chan) (x : Option Offer) : Deeds s t → Deeds s (t.setOffer c x)
  | notice {t : State} (n : NoticeBody) (hn : isRestarted n = false) : Deeds s t → Deeds s (notify n t)

namespace Deeds
variable {s t u : State}

theorem trans (h : Deeds s t) (k : Deeds t u) : Deeds s u := by
  induction k with
  | refl => exact h
  | cover c x f hf _ ih => exact .cover c x f hf ih
  | hold c x _ ih => exact .hold c x ih
  | seats b l hl _ ih => exact .seats b l hl ih
  | booth b l hl hs _ ih => exact .booth b l hl hs ih
  | acc b k x hx _ ih => exact .acc b k x hx ih
  | offer c x _ ih => exact .offer c x ih
  | notice n hn _ ih => exact .notice n hn ih

theorem foldl {α : Type} (f : State → α → State) (hf : ∀ t a, Deeds t (f t a)) (l : List α) (t : State) :
    Deeds t (l.foldl f t) := by
  induction l generalizing t with
  | nil => exact .refl
  | cons a l ih => exact (hf t a).trans (ih (f t a))

theorem Tells.moves {f : State → State} (hf : Tells f) (s : State) : Moves s (f s) := by
  rcases hf s with e | ⟨n, _, e⟩ <;> rw [e]
  · exact .refl
  · exact notify_moves ..

theorem moves (h : Deeds s t) : Moves s t := by
  induction h with
  | refl => exact .refl
  | cover c x f hf _ ih => exact ih.trans (coverageChange_moves c x f (Tells.moves hf) _)
  | hold c x _ ih => exact ih.trans (holderChange_moves ..)
  | seats b l _ _ ih => exact (Moves.booth b l ih).trans (syncMute_moves ..)
  | booth b l _ _ _ ih => exact .booth b l ih
  | acc b k x _ _ ih => exact .acc b k _ ih
  | offer c x _ ih => exact .offer c x ih
  | notice n _ _ ih => exact ih.trans (notify_moves ..)

end Deeds

/-! ## The operations -/

theorem tells_id : Tells id := fun _ => .inl rfl
theorem tells_notify {g : State → NoticeBody} (h : ∀ t, isRestarted (g t) = false) : Tells (fun t => notify (g t) t) :=
  fun t => .inr ⟨g t, h t, rfl⟩

theorem uncover_deeds (c : Chan) (s : State) : Deeds s (uncover c s) := by
  unfold uncover
  exact .cover c _ _ (tells_notify fun _ => rfl) .refl
theorem enterHolding_deeds (c : Chan) (x : Source) (s : State) : Deeds s (enterHolding c x s) := by
  unfold enterHolding; simp only; split
  · exact (Deeds.refl.cover c _ id tells_id).trans (uncover_deeds ..)
  · exact .cover c _ id tells_id .refl
theorem turnStart_deeds (c : Chan) (h : Holder) (s : State) : Deeds s (turnStart c h s) := by
  unfold turnStart
  refine .cover c _ _ (fun t => ?_) .refl
  split
  · exact .inr ⟨_, rfl, rfl⟩
  · exact .inl rfl
theorem turnEnd_deeds (c : Chan) (s : State) : Deeds s (turnEnd c s) := enterHolding_deeds ..
theorem indicate_deeds (b : Booth) (i : Option Indication) (s : State) : Deeds s (indicate b i s) :=
  .booth b _ ⟨rfl, rfl, rfl, rfl⟩ rfl .refl
theorem putSeat_deeds (b : Booth) (k : Seat) (x : SeatState) (s : State) : Deeds s (putSeat b k x s) :=
  .seats b _ ⟨rfl, rfl, rfl, rfl⟩ .refl
theorem goLive_deeds (b : Booth) (k : Seat) (s : State) : Deeds s (goLive b k s) :=
  (Deeds.refl.acc b k _ (Nat.min_le_left ..)).trans (putSeat_deeds b k _ _)
theorem passOffer_deeds (c : Chan) (o : Offer) (m : Manner) (s : State) : Deeds s (passOffer c o m s) :=
  .notice _ rfl (.hold c _ ((Deeds.refl.offer c none).trans (goLive_deeds ..)))
theorem settleChan_deeds (c : Chan) (m : Manner) (s : State) : Deeds s (settleChan c m s) := by
  unfold settleChan; split
  · exact passOffer_deeds ..
  · exact turnEnd_deeds ..
theorem withdrawOffer_deeds (c : Chan) (s : State) : Deeds s (withdrawOffer c s) := by
  unfold withdrawOffer; split
  · exact (Deeds.refl.offer c none).trans (putSeat_deeds ..)
  · exact .refl
theorem withdrawAll_deeds (b : Booth) (s : State) : Deeds s (withdrawAll b s) :=
  Deeds.foldl _ (fun t c => withdrawOffer_deeds c t) _ s
theorem endTurn_deeds (b : Booth) (k : Seat) (c : Chan) (m : Manner) (s : State) : Deeds s (endTurn b k c m s) :=
  (putSeat_deeds b k .off s).trans (settleChan_deeds ..)
theorem cutTurn_deeds (b : Booth) (k : Seat) (c : Chan) (s : State) : Deeds s (cutTurn b k c s) :=
  (endTurn_deeds b k c _ s).trans (indicate_deeds ..)
theorem claimLast_deeds (c : Chan) (x h : Holder) (s : State) : Deeds s (claimLast c x h s) := by
  unfold claimLast
  refine .hold c h (Deeds.trans (t := indicate x.booth (some .cut) (putSeat x.booth x.seat .off s))
    ((putSeat_deeds ..).trans (indicate_deeds ..)) ?_)
  split
  · exact .refl
  · exact ((passOffer_deeds ..).trans (putSeat_deeds ..)).trans (indicate_deeds ..)
theorem seatLoss_deeds (b : Booth) (s : State) : Deeds s (seatLoss b s) := by
  unfold seatLoss
  refine (withdrawAll_deeds b s).trans ?_
  simp only
  split
  · exact (endTurn_deeds ..).seats b _ ⟨rfl, rfl, rfl, rfl⟩
  · exact Deeds.refl.seats b _ ⟨rfl, rfl, rfl, rfl⟩
theorem claimSeat_deeds (b : Booth) (k : Seat) (c : Chan) (s : State) : Deeds s (claimSeat b k c s) := by
  unfold claimSeat
  split
  · exact indicate_deeds ..
  · split
    · exact indicate_deeds ..
    · exact (claimLast_deeds ..).trans (goLive_deeds ..)
    · split
      · exact indicate_deeds ..
      · exact (Deeds.refl.offer c _).trans (putSeat_deeds ..)
  · exact (goLive_deeds ..).trans (turnStart_deeds ..)
theorem directHandover_deeds (b : Booth) (h k : Seat) (c : Chan) (s : State) : Deeds s (directHandover b h k c s) :=
  .notice _ rfl (.hold c _ (((putSeat_deeds ..).trans (goLive_deeds ..)).offer c _))
theorem inBoothRequest_deeds (b : Booth) (m : BoothSettings) (h k : Seat) (c : Chan) (s : State) :
    Deeds s (inBoothRequest b m h k c s) := by
  unfold inBoothRequest
  split
  · exact directHandover_deeds ..
  · split
    · exact indicate_deeds ..
    · exact (Deeds.refl.offer c _).trans (putSeat_deeds ..)
theorem seatOnEvent_deeds (b : Booth) (m : BoothSettings) (k : Seat) (s : State) : Deeds s (seatOnEvent b m k s) := by
  unfold seatOnEvent
  split
  · simp only; split
    · exact claimSeat_deeds ..
    · exact inBoothRequest_deeds ..
  · exact .refl
theorem seatOffEvent_deeds (b : Booth) (m : BoothSettings) (k : Seat) (s : State) : Deeds s (seatOffEvent b m k s) := by
  unfold seatOffEvent
  split
  · exact .refl
  · split
    · exact withdrawOffer_deeds ..
    · exact putSeat_deeds ..
  · exact endTurn_deeds ..
theorem coughDownEvent_deeds (b : Booth) (m : BoothSettings) (k : Seat) (s : State) :
    Deeds s (coughDownEvent b m k s) := by
  unfold coughDownEvent; split
  · exact putSeat_deeds ..
  · exact .refl
theorem coughUpEvent_deeds (b : Booth) (m : BoothSettings) (k : Seat) (s : State) : Deeds s (coughUpEvent b m k s) := by
  unfold coughUpEvent; split
  · exact putSeat_deeds ..
  · exact .refl
theorem giveEvent_deeds (b : Booth) (m : BoothSettings) (k : Seat) (s : State) : Deeds s (giveEvent b m k s) := by
  unfold giveEvent; simp only; split
  · split
    · exact endTurn_deeds ..
    · exact .refl
  · exact .refl
theorem select_deeds (b : Booth) (y : Side) (s : State) : Deeds s (select b y s) :=
  .booth b _ ⟨rfl, rfl, rfl, rfl⟩ rfl .refl
theorem leaveChan_deeds (b : Booth) (c : Chan) (s : State) : Deeds s (leaveChan b c s) := by
  unfold leaveChan
  split
  · split
    · exact ((withdrawOffer_deeds ..).trans (indicate_deeds ..)).trans (turnEnd_deeds ..)
    · exact passOffer_deeds ..
  · exact turnEnd_deeds ..
theorem outputSwitch_deeds (b : Booth) (k : Seat) (c d : Chan) (y : Side) (s : State) :
    Deeds s (outputSwitch b k c d y s) := by
  unfold outputSwitch
  split
  · exact indicate_deeds ..
  · split
    · exact ((claimLast_deeds ..).trans (select_deeds ..)).trans (leaveChan_deeds ..)
    · exact indicate_deeds ..
  · exact ((turnStart_deeds ..).trans (select_deeds ..)).trans (leaveChan_deeds ..)
theorem outputSelectEvent_deeds (b : Booth) (m : BoothSettings) (y : Side) (s : State) :
    Deeds s (outputSelectEvent b m y s) := by
  unfold outputSelectEvent
  split
  · exact .refl
  · split
    · exact outputSwitch_deeds ..
    · split
      · exact select_deeds ..
      · exact ((select_deeds ..).trans (withdrawAll_deeds ..)).trans (indicate_deeds ..)
theorem lapse_deeds (c : Chan) (o : Offer) (s : State) : Deeds s (lapse c o s) :=
  .notice _ rfl (((Deeds.refl.offer c none).trans (putSeat_deeds ..)).trans (indicate_deeds ..))
theorem expireOffer_deeds (c : Chan) (o : Offer) (s : State) : Deeds s (expireOffer c o s) := by
  unfold expireOffer; split
  · exact endTurn_deeds ..
  · exact lapse_deeds ..
theorem expireHold_deeds (c : Chan) (s : State) : Deeds s (expireHold c s) := by
  rcases expireHold_cases c s with e | e <;> rw [e]
  · exact .refl
  · exact uncover_deeds ..
theorem becomeAbsent_deeds (b : Booth) (m : MissCause) (s : State) : Deeds s (becomeAbsent b m s) := by
  have gone : Deeds s (s.setBooth b { s.booth b with presence := .absent, misses := Config.missMax }) :=
    .booth b _ ⟨rfl, rfl, rfl, rfl⟩ rfl .refl
  exact (gone.notice _ (by rfl)).trans (seatLoss_deeds ..)
theorem miss_deeds (b : Booth) (m : MissCause) (s : State) : Deeds s (miss b m s) := by
  unfold miss; simp only; split
  · split
    · exact .booth b _ ⟨rfl, rfl, rfl, rfl⟩ rfl .refl
    · exact becomeAbsent_deeds ..
  · exact .refl

end Sys2Proof.Machine
end

section
/-! SUPPORT. What one command can do: every command is a course of acts, each the whole work of one block, with one change of
the hire table's lines among them at most. An invariant that every act keeps, every step keeps. -/

namespace Sys2Proof.Machine
open Sys2Proof

/-! ## The acts -/

/-- A write of ports alone, other than by an accounting job. -/
inductive PortOp (s : State) : State → Prop where
  | framing (p : Port) : PortOp s (s.setPort p { s.port p with framing := .between })
  | ended (p : Port) (a : Answer) : PortOp s (endWait p a s)
  | told (n : NoticeBody) (hn : isRestarted n = false) : PortOp s (notify n s)
  | answered (p : Port) (tag : Byte) (a : Answer) (d : List Byte) : PortOp s (answer p tag a d s)
  | subscribed (p : Port) (kinds : Half) : PortOp s (subscribeTo p kinds s).2.2
  | fetched (p : Port) (tag : Byte) : PortOp s (noticeFetchOf p tag s)
  | waited (p : Port) (tag timeout : Byte) (free : (s.port p).inProgress = none) : PortOp s (noticeWaitOf p tag timeout s)
  | sent (p : Port) : PortOp s (s.setPort p { s.port p with transmit := (s.port p).transmit.tail })

/-- An event of the hall under standing settings and chosen sources. -/
inductive HallOp (s : State) : State → Prop where
  | record (b : Booth) (i : Option Indication) (p : Presence) (m : Nat) (g : Option Nat) :
      HallOp s (s.setBooth b { s.booth b with indication := i, presence := p, misses := m, lastGood := g })
  | hold (c : Chan) : HallOp s (expireHold c s)
  | offer (c : Chan) (o : Offer) (ho : s.offer c = some o) : HallOp s (expireOffer c o s)
  | seatOn (b : Booth) (m : BoothSettings) (k : Seat) (hm : s.boothSettings b = some m) : HallOp s (seatOnEvent b m k s)
  | seatOff (b : Booth) (m : BoothSettings) (k : Seat) (hm : s.boothSettings b = some m) : HallOp s (seatOffEvent b m k s)
  | coughDown (b : Booth) (m : BoothSettings) (k : Seat) : HallOp s (coughDownEvent b m k s)
  | coughUp (b : Booth) (m : BoothSettings) (k : Seat) : HallOp s (coughUpEvent b m k s)
  | give (b : Booth) (m : BoothSettings) (k : Seat) (hm : s.boothSettings b = some m) : HallOp s (giveEvent b m k s)
  | output (b : Booth) (m : BoothSettings) (y : Side) (hm : s.boothSettings b = some m) :
      HallOp s (outputSelectEvent b m y s)
  | miss (b : Booth) (cause : MissCause) : HallOp s (miss b cause s)
  | cut (b : Booth) (m : BoothSettings) (k : Seat) (hm : s.boothSettings b = some m) (hk : liveSeat s b = some k) :
      HallOp s (cutTurn b k (selectedChan m (s.booth b)) s)

/-- A change of what a booth listens to, or of the booths themselves. -/
inductive BoothOp (s : State) : State → Prop where
  | choose (b : Booth) (m : BoothSettings) (x : Listen) (hm : s.boothSettings b = some m)
      (ht : listenTests s b m x = none) : BoothOp s (chooseListen b x s)
  | configure (b : Booth) (m : BoothSettings) (args : BoothArgs) (hm : boothSettingsOf args = some m)
      (hl : liveSeat s b = none) (hr : relayCheck s (arcsWithBooth s b m) = true) : BoothOp s (configureBooth b m s)
  | clear (b : Booth) : BoothOp s (clearBooth b s)

/-- A change of the plan. -/
inductive PlanOp (s : State) : State → Prop where
  | define (slot : Byte) (tag : Half) (label : List Byte) : PlanOp s (defineLanguage slot tag label s).2
  | remove (slot : Byte) : PlanOp s (removeLanguage slot s).2
  | assign (target : Byte) (args : AssignArgs) (a : Assign) (ha : assignOf target args = some a)
      (hf : assignFailure s a = none) : PlanOp s (applyAssign a s)
  | override (on : Bool) : PlanOp s (setOverride on s)

/-- An entry of the register or the hire table that leaves every change count alone. -/
inductive BookOp (s : State) : State → Prop where
  | enrol (n : Half) (x : Word) : BookOp s (enrol n x s).2
  | withdraw (n : Half) : BookOp s (withdraw n s).2
  | reinstate (n : Half) : BookOp s (reinstate n s).2
  | clearFlags (n : Half) : BookOp s (clearFlags n s).2
  | take (p : Report) : BookOp s (takeReport p s)
  | openHire (p : Port) (k : Byte) (d : Word) (due : Option Word) : BookOp s (openHire p k d due s).2.2
  | due (t : Half) (d : Option Word) : BookOp s (setDue t d s).2.2
  | alarm : BookOp s (dueAlarm s)

/-- A change of a hire's lines or deposit, which raises its change count, or the completion of a CLOSE. -/
inductive HireOp (s : State) : State → Prop where
  | issue (t n : Half) : HireOp s (issueReceiver t n s).2.2
  | back (p : Port) (n : Half) : HireOp s (returnOf p n s).2.2
  | lose (n : Half) : HireOp s (loseReceiver n s).2.2
  | deposit (t : Half) (minus : Bool) (x : Word) : HireOp s (adjustDeposit t minus x s).2.2
  | close : HireOp s (completeClose s)

/-- A point of an accounting job. -/
inductive JobOp (s : State) : State → Prop where
  | accept (p : Port) (tag : Byte) (code : ReqCode) (r : JobRequest) (hc : isJob code = true)
      (free : (s.port p).inProgress = none) : JobOp s (acceptJob p tag code r s)
  | start : JobOp s (startJob s)
  | quoted : JobOp s (completeQuote s)

/-- A reset of the general domain, of the whole part, or of one port; `drops` says whether it may leave the route line with no
orders. -/
inductive ResetOp (drops : Prop) (s : State) : State → Prop where
  | off (h : drops) : ResetOp drops s { s with gen := General.quiet s.ret }
  | cleared (supply : Supply) (mark : Mark) (held : Option Bool) (h : drops) : ResetOp drops s { s with
      supply := supply, heldStart := held, clock := 0, mark := mark, ret := Retained.cleared
      gen := General.quiet Retained.cleared }
  | stopped (h : drops) : ResetOp drops s { s with gen := s.gen.stopped }
  | general (kind : RestartKind) (cleared : Bool) : ResetOp drops s (generalReset kind cleared s)
  | port (p : Port) : ResetOp drops s (portReset p s)

/-- A write of items that stand by themselves: the levels of the inputs, the expiries due, the booth line's cycle, the
directory line, the snapshot, and the tariffs, session, counters and hall code. -/
def Aside (s t : State) : Prop :=
  t = { s with
    supply := t.supply, lineAsserted := t.lineAsserted, heldStart := t.heldStart, breaks := t.breaks
    ret.hallCode := t.ret.hallCode, ret.tariffs := t.ret.tariffs, ret.session := t.ret.session
    ret.counters := t.ret.counters, gen.dirSending := t.gen.dirSending, gen.dirPending := t.gen.dirPending
    gen.dirCount := t.gen.dirCount, gen.scanPos := t.gen.scanPos, gen.cycle := t.gen.cycle
    gen.intakeFraming := t.gen.intakeFraming, gen.snapshot := t.gen.snapshot, gen.due := t.gen.due }

/-- The whole work of one block; `drops` says whether an order may leave the route line. -/
inductive Act (drops : Prop) (s : State) : State → Prop where
  | aside {t : State} (h : Aside s t) : Act drops s t
  | ports {t : State} (h : PortOp s t) : Act drops s t
  | hall {t : State} (h : HallOp s t) : Act drops s t
  | booths {t : State} (h : BoothOp s t) : Act drops s t
  | plan {t : State} (h : PlanOp s t) : Act drops s t
  | books {t : State} (h : BookOp s t) : Act drops s t
  | jobs {t : State} (h : JobOp s t) : Act drops s t
  | reset {t : State} (h : ResetOp drops s t) : Act drops s t
  | directory (before : State) : Act drops s (dirAfter before s)
  | refresh : Act drops s (placeAll (fullSet s) s)
  | orderSent (h : drops) : Act drops s (routeBegin { s with gen.routeSending := none })
  | intake (l : List Report) (h : l.length ≤ 64 ∨ l.length ≤ s.gen.intake.length) : Act drops s { s with gen.intake := l }
  | clock (v : Nat) (h : s.clock ≤ v ∨ s.ret.hires = []) (top : v ≤ 4294967295) : Act drops s { s with clock := v }
  | count : Act drops s (countBlocks s)
  | session : Act drops s (openSession s).2.2
  | accounts : Act drops s { s with ret.accounts := Accounts.zero }

/-- A run of acts. -/
abbrev Acts (drops : Prop) : State → State → Prop := Relation.ReflTransGen (Act drops)

/-- A run of acts with one change of the hire table's lines among them at most. -/
def Course (drops : Prop) (s t : State) : Prop := ∃ a b, Acts drops s a ∧ (b = a ∨ HireOp a b) ∧ Acts drops b t

section
variable {drops : Prop} {s t u : State}

theorem Act.acts (h : Act drops s t) : Acts drops s t := .single h
theorem Acts.course (h : Acts drops s t) : Course drops s t := ⟨t, t, h, .inl rfl, .refl⟩
theorem Act.course (h : Act drops s t) : Course drops s t := h.acts.course
theorem HireOp.course (h : HireOp s t) : Course drops s t := ⟨s, t, .refl, .inr h, .refl⟩
theorem Course.refl (s : State) : Course drops s s := Acts.course .refl
theorem Acts.trans_course (h : Acts drops s t) (k : Course drops t u) : Course drops s u := by
  obtain ⟨a, b, before, change, after⟩ := k
  exact ⟨a, b, h.trans before, change, after⟩
theorem Course.trans_acts (h : Course drops s t) (k : Acts drops t u) : Course drops s u := by
  obtain ⟨a, b, before, change, after⟩ := h
  exact ⟨a, b, before, change, after.trans k⟩
theorem Course.act (h : Course drops s t) (k : Act drops t u) : Course drops s u := h.trans_acts k.acts

theorem Acts.keeps {P : State → Prop} (act : ∀ s t, Act drops s t → P s → P t) (h : Acts drops s t) (hs : P s) : P t := by
  induction h with
  | refl => exact hs
  | tail _ k ih => exact act _ _ k ih

/-- What the acts keep, and the change of lines makes of it, holds at the end. -/
theorem Course.leads {P Q : State → Prop} (h : Course drops s t) (before : ∀ s t, Act drops s t → P s → P t)
    (weaker : ∀ s, P s → Q s) (change : ∀ s t, HireOp s t → P s → Q t) (after : ∀ s t, Act drops s t → Q s → Q t)
    (hs : P s) : Q t := by
  obtain ⟨a, b, first, rfl | hb, rest⟩ := h
  · exact rest.keeps after (weaker _ (first.keeps before hs))
  · exact rest.keeps after (change _ _ hb (first.keeps before hs))

theorem Course.keeps {P : State → Prop} (h : Course drops s t) (act : ∀ s t, Act drops s t → P s → P t)
    (change : ∀ s t, HireOp s t → P s → P t) (hs : P s) : P t :=
  h.leads act (fun _ => id) change act hs

end

/-! ## Expiries -/

variable {drops : Prop}

theorem expireHolds_acts (cs : List Chan) (s : State) : Acts drops s (expireHolds cs s) := by
  refine Relation.ReflTransGen.tail ?_ (Act.directory s)
  suffices h : ∀ t : State, Acts drops t (cs.foldl (fun s c => expireHold c s) t) from h s
  induction cs with
  | nil => exact fun _ => .refl
  | cons c cs ih => exact fun t => (Act.hall (.hold c)).acts.trans (ih _)

theorem dirDue_aside (s : State) : Aside s (dirDue s) := by
  rcases dirDue_cases s with ⟨_, e⟩ | ⟨_, e⟩ <;> rw [e] <;> rfl

theorem event_acts (f : State → State) (s : State) (h : Acts drops s (f s)) : Acts drops s (event f s) :=
  h.tail (Act.directory s)

theorem runDue_acts (d : Due) (s : State) : Acts drops s (runDue d s) := by
  cases d with
  | gapHold c => exact event_acts _ s (Act.hall (.hold c)).acts
  | offer c =>
    simp only [runDue]; split
    · next o ho =>
      split
      · exact event_acts _ s (Act.hall (.offer c o ho)).acts
      · exact .refl
    · exact .refl
  | directory =>
    simp only [runDue]; split
    · exact (Act.aside (s := s) (t := { s with gen.dirCount := 0 }) rfl).acts.tail (.aside (dirDue_aside _))
    · exact .refl
  | alarm => exact (Act.books .alarm).acts
  | wait p =>
    simp only [runDue]; split
    · split
      · exact (Act.ports (.ended p .empty)).acts
      · exact .refl
    · exact .refl

theorem takeDue_acts (s : State) : Acts drops s (takeDue s) :=
  takeDue_keeps (Acts drops s) (fun _ h => h.tail (.aside rfl)) (fun cs t h => h.trans (expireHolds_acts cs t))
    (fun d t h => h.trans (runDue_acts d t)) s .refl

/-- What neither the list of expiries nor the hall's moves, the register's entries, the directory line or the ports have a
part in, no expiry changes. -/
theorem takeDue_unchanged {α : Type} (f : State → α) (due : ∀ s l, f { s with gen.due := l } = f s)
    (moves : ∀ s t, Moves s t → f t = f s) (books : ∀ s t, Books s t → f t = f s)
    (directory : ∀ s t, SameDirectory s t → f t = f s) (ports : ∀ s t, SamePorts s t → f t = f s) (s : State) :
    f (takeDue s) = f s := by
  have sent : ∀ u : State, f (dirDue { u with gen.dirCount := 0 }) = f u := fun u => by
    rcases dirDue_cases { u with gen.dirCount := 0 } with ⟨_, e⟩ | ⟨_, e⟩ <;> rw [e] <;> exact directory u _ rfl
  refine takeDue_keeps (fun u => f u = f s) (fun u e => (due u []).trans e)
    (fun cs u e => expireHolds_keeps (fun u => f u = f s) (fun c u e => (moves _ _ (uncover_moves c u)).trans e)
      (fun b u e => (directory _ _ (dirAfter_directory b u)).trans e) cs u e) (fun d u e => ?_) s rfl
  rcases runDue_cases d u with k | ⟨c, k⟩ | ⟨c, o, _, k⟩ | k | k | ⟨p, k⟩ <;> rw [k]
  · exact e
  · exact (directory _ _ (dirAfter_directory ..)).trans ((moves _ _ (uncover_moves c u)).trans e)
  · exact (directory _ _ (dirAfter_directory ..)).trans ((moves _ _ (expireOffer_moves c o u)).trans e)
  · exact (sent u).trans e
  · exact (books _ _ (dueAlarm_books u)).trans e
  · exact (ports _ _ (endWait_ports p .empty u)).trans e

theorem SameDirectory.clock {s t : State} (h : SameDirectory s t) : t.clock = s.clock := congrArg (fun x => x.clock) h
theorem SameDirectory.running {s t : State} (h : SameDirectory s t) : t.running = s.running :=
  congrArg (fun x => x.running) h
theorem SamePorts.running {s t : State} (h : SamePorts s t) : t.running = s.running := congrArg (fun x => x.running) h

@[simp] theorem takeDue_clock (s : State) : (takeDue s).clock = s.clock :=
  takeDue_unchanged _ (fun _ _ => rfl) (fun _ _ => Moves.clock) (fun _ _ => Books.clock)
    (fun _ _ => SameDirectory.clock) (fun _ _ => SamePorts.clock) s

@[simp] theorem takeDue_running (s : State) : (takeDue s).running = s.running :=
  takeDue_unchanged _ (fun _ _ => rfl) (fun _ _ => Moves.running) (fun _ _ => Books.running)
    (fun _ _ => SameDirectory.running) (fun _ _ => SamePorts.running) s

/-! ## The ways in -/

section
variable {s : State}

/-- The command takes the state on a course. -/
def Runs (drops : Prop) (o : Out) (s : State) : Prop := ∃ t, o = .next t ∧ Course drops s t

theorem Runs.idle (s : State) : Runs drops (.next s) s := ⟨s, rfl, .refl s⟩

theorem takeOne_runs (d : Due) (s : State) : Runs drops (takeOne d s) s := by
  unfold takeOne; split
  · refine ⟨_, rfl, Acts.course (.trans (Act.acts (.aside ?_)) (runDue_acts d _))⟩
    rfl
  · exact .idle s

theorem taking_runs {f : State → State} (h : ∀ u, Course drops u (f u)) : Runs drops (taking f s) s := by
  unfold taking; split
  · exact ⟨_, rfl, (takeDue_acts s).trans_course (h _)⟩
  · exact .idle s

theorem frameArrives_runs {p : Port} {f : State → State} (h : ∀ u, Course drops u (f u)) : Runs drops (frameArrives p f s) s := by
  refine taking_runs fun u => ?_
  split
  · exact .refl u
  · exact Acts.trans_course (.tail (Act.ports (.framing p)).acts (.ports (.ended p .cancelled))) (h _)

theorem request_runs {p : Port} {tag : Byte} {code : ReqCode} {f : State → State}
    (h : ∀ u, (u.port p).inProgress = none → Course drops u (f u)) : Runs drops (request p tag code f s) s := by
  refine frameArrives_runs fun u => ?_
  unfold admitted
  split
  · exact (Act.ports (.answered ..)).course
  · next free =>
    split
    · exact (Act.ports (.answered ..)).course
    · exact h u (by simpa using free)

theorem respond_runs {p : Port} {tag : Byte} {code : ReqCode} {f : State → Result} (h : ∀ u, Course drops u (f u).2.2) :
    Runs drops (request p tag code (respond p tag f) s) s :=
  request_runs fun u _ => (h u).act (.ports (.answered ..))

theorem planned_runs {p : Port} {tag : Byte} {code : ReqCode} {f : State → Result} (h : ∀ u, Course drops u (f u).2.2) :
    Runs drops (request p tag code (respond p tag (planned f)) s) s :=
  respond_runs fun u => (h u).act (.directory u)

theorem event_runs {f : State → State} (h : ∀ u, Course drops u (f u)) : Runs drops (taking (event f) s) s :=
  taking_runs fun u => (h u).act (.directory u)

end

/-! ## The commands -/

theorem generalReset_acts (kind : RestartKind) (cleared : Bool) (s : State) : Acts drops s (generalReset kind cleared s) :=
  (Act.reset (.general kind cleared)).acts

/-- A general reset begins from the retained store, whatever the general domain holds. -/
theorem generalReset_gen (kind : RestartKind) (cleared : Bool) (s : State) (g : General) :
    generalReset kind cleared { s with gen := g } = generalReset kind cleared s := by
  unfold generalReset
  simp only [portAtCompletion]

theorem execPowerOn_runs (h : drops) (s : State) : Runs drops (execPowerOn s) s := by
  unfold execPowerOn; split
  · exact .idle s
  · simp only
    have main : Acts drops s { s with supply := .main } := Act.acts (.aside rfl)
    have full : Acts drops s { s with
        supply := .main, clock := 0, mark := .valid, ret := Retained.cleared, gen := General.quiet Retained.cleared } :=
      Act.acts (.reset (.cleared .main .valid s.heldStart h))
    cases hc : s.mark == .invalid <;> simp only [Bool.false_eq_true, if_false, if_true]
    · split
      · exact ⟨_, rfl, Acts.course ((main.tail (.reset (.off h))).tail (.aside rfl))⟩
      · exact ⟨_, rfl, Acts.course (main.trans (generalReset_acts ..))⟩
    · split
      · exact ⟨_, rfl, Acts.course (full.tail (.aside rfl))⟩
      · refine ⟨_, rfl, ?_⟩
        rw [← generalReset_gen .power true _ (General.quiet Retained.cleared)]
        exact Acts.course (full.trans (generalReset_acts ..))

/-- The state with the expiries of the last second event taken, where the general domain runs. -/
theorem settled_acts (s : State) : Acts drops s (if s.running then takeDue s else s) := by
  split
  · exact takeDue_acts s
  · exact .refl

theorem execMainSupplyFail_runs (h : drops) (s : State) : Runs drops (execMainSupplyFail s) s := by
  unfold execMainSupplyFail; split
  · exact ⟨_, rfl, Acts.course (((settled_acts s).tail (.reset (.off h))).tail (.aside rfl))⟩
  · exact .idle s

theorem execResetLineAssert_runs (h : drops) (s : State) : Runs drops (execResetLineAssert s) s := by
  unfold execResetLineAssert; split
  · exact .idle s
  · exact ⟨_, rfl, Acts.course (((settled_acts s).tail (.reset (.stopped h))).tail (.aside rfl))⟩

theorem execResetLineRelease_runs (s : State) : Runs drops (execResetLineRelease s) s := by
  unfold execResetLineRelease; split
  · simp only
    have released : Acts drops s { s with lineAsserted := false, heldStart := none } := Act.acts (.aside rfl)
    split
    · split <;> exact ⟨_, rfl, Acts.course (released.trans (generalReset_acts ..))⟩
    · exact ⟨_, rfl, released.course⟩
  · exact .idle s

theorem tick_acts (s : State) : Acts drops s (tick s) := by
  unfold tick; split
  · exact .refl
  · next h =>
    have kept : (if s.running then takeDue s else s).clock = s.clock := by split <;> simp
    have taken : Acts drops s _ := settled_acts s
    simp only
    generalize (if s.running then takeDue s else s) = u at kept taken ⊢
    have advanced : Acts drops s { u with clock := u.clock + 1 } :=
      taken.tail (.clock _ (.inl (Nat.le_succ _)) (by simp only [Config.countMax] at h; omega))
    split
    · exact (advanced.tail .count).tail (.aside rfl)
    · exact advanced

theorem execSecondEvent_runs (s : State) : Runs drops (execSecondEvent s) s := ⟨_, rfl, (tick_acts s).course⟩

theorem execPortBreak_runs (p : Port) (s : State) : Runs drops (execPortBreak p s) s := by
  unfold execPortBreak; split
  · exact .idle s
  · split
    · have broken : Acts drops s { takeDue s with breaks := (takeDue s).breaks.set p true } := (takeDue_acts s).tail (.aside rfl)
      exact ⟨_, rfl, Acts.course (broken.tail (.reset (.port p)))⟩
    · exact ⟨_, rfl, Act.course (.aside rfl)⟩

theorem execBreakEnd_runs (p : Port) (s : State) : Runs drops (execBreakEnd p s) s := by
  unfold execBreakEnd; split
  · exact ⟨_, rfl, Acts.course (((settled_acts s).tail (.ports (.framing p))).tail (.aside rfl))⟩
  · exact .idle s

/-! ### The booth line -/

theorem startPoll_acts (s : State) : Acts drops s (startPoll s) := by
  unfold startPoll
  split
  · split
    · exact .refl
    · split
      · exact .refl
      · exact (Act.hall (.record _ none _ _ _)).acts.tail (.aside rfl)
  · exact .refl

theorem goodReply_acts (b : Booth) (events : List ReplyEvent) (s : State) : Acts drops s (goodReply b events s) := by
  have heard : Acts drops s (s.setBooth b { s.booth b with misses := 0, lastGood := some s.clock, presence := .present }) :=
    (Act.hall (.record b _ _ _ _)).acts
  unfold goodReply; simp only
  split
  · split
    · exact heard
    · exact heard.tail (.aside rfl)
  · exact heard.tail (.ports (.told _ rfl))

theorem closeWindow_acts {f : Booth → State → State} (h : ∀ b u, Acts drops u (f b u)) (s : State) :
    Acts drops s (closeWindow f s) := by
  unfold closeWindow
  split
  · have closed : Acts drops s { s with gen.cycle := .idle } := Act.acts (.aside rfl)
    simp only; split
    · exact closed
    · exact closed.trans (h _ _)
  · exact .refl

theorem handEvent_acts {b : Booth} {e : ReplyEvent} {f : BoothSettings → State → State}
    (h : ∀ m u, u.boothSettings b = some m → Acts drops u (f m u)) (s : State) : Acts drops s (handEvent b e f s) := by
  unfold handEvent
  split
  · next rest _ =>
    split
    · split
      · simp only; split
        · next m hm =>
          exact (Act.acts (.aside (t := { s with gen.cycle := if rest.isEmpty then .idle else .handing b rest }) rfl)).trans
            (h m _ hm)
        · exact Act.acts (.aside rfl)
      · exact Act.acts (.aside rfl)
    · exact .refl
  · exact .refl

theorem seatEvent_runs {b : Booth} {seat : Byte} {e : ReplyEvent} {f : Booth → BoothSettings → Seat → State → State}
    (h : ∀ m k u, u.boothSettings b = some m → HallOp u (f b m k u)) (s : State) : Runs drops (seatEvent b seat e f s) s := by
  refine event_runs fun u => (handEvent_acts (fun m v hm => ?_) u).course
  split
  · exact (Act.hall (h m _ v hm)).acts
  · exact .refl

theorem relaySelectEvent_acts {b : Booth} {m : BoothSettings} (x : Option Listen) {s : State}
    (hm : s.boothSettings b = some m) : Acts drops s (relaySelectEvent b m x s) := by
  unfold relaySelectEvent
  split
  · exact (Act.hall (.record b _ _ _ _)).acts
  · split
    · exact (Act.hall (.record b _ _ _ _)).acts
    · next ht => exact (Act.booths (.choose b m _ hm ht)).acts

theorem intakeReport_acts (r : ReportBytes) (s : State) : Acts drops s (intakeReport r s) := by
  have between : Acts drops s { s with gen.intakeFraming := .between } := Act.acts (.aside rfl)
  unfold intakeReport; simp only
  split
  · next h =>
    refine between.tail (.intake _ (.inl ?_))
    have room : s.gen.intake.length < 64 := of_decide_eq_true (Bool.and_eq_true_iff.mp h).2
    simp; omega
  · exact between

/-! ### Requests -/

theorem assignChannel_acts (target : Byte) (args : AssignArgs) (s : State) : Acts drops s (assignChannel target args s).2.2 := by
  unfold assignChannel
  split
  · exact .refl
  · next a ha =>
    split
    · exact .refl
    · next hf => exact (Act.plan (.assign target args a ha hf)).acts

theorem setBoothRequest_acts (booth : Byte) (args : BoothArgs) (s : State) : Acts drops s (setBoothRequest booth args s).2.2 := by
  unfold setBoothRequest
  split
  · next b m _ hm =>
    split
    · exact .refl
    · next hl =>
      split
      · next hr =>
        have op : BoothOp s (configureBooth b m s) := .configure b m args hm (Option.not_isSome_iff_eq_none.mp hl) hr
        dsimp only
        exact (Act.booths op).acts
      · exact .refl
  · exact .refl

theorem clearBoothRequest_acts (booth : Byte) (s : State) : Acts drops s (clearBoothRequest booth s).2 := by
  unfold clearBoothRequest
  split
  · exact .refl
  · next b _ =>
    split
    · exact .refl
    · have op : BoothOp s (clearBooth b s) := .clear b
      dsimp only
      exact (Act.booths op).acts

theorem cutBoothRequest_acts (booth : Byte) (s : State) : Acts drops s (cutBoothRequest booth s).2 := by
  unfold cutBoothRequest
  split
  · exact .refl
  · split
    · exact .refl
    · next m hm =>
      split
      · exact .refl
      · next k hk => exact (Act.hall (.cut _ m k hm hk)).acts

theorem setRelayRequest_acts (booth : Byte) (source : SourceBytes) (s : State) :
    Acts drops s (setRelayRequest booth source s).2.2 := by
  unfold setRelayRequest
  split
  · exact .refl
  · split
    · exact .refl
    · next m hm =>
      split
      · exact .refl
      · split
        · exact .refl
        · next ht => exact (Act.booths (.choose _ m _ hm ht)).acts

theorem setClock_acts (value : Word) (s : State) : Acts drops s (setClock value s).2.2 := by
  unfold setClock
  split
  · exact .refl
  · next h =>
    have closed : s.ret.hires = [] := not_not.mp fun none => h (.inl none)
    have top : value.toNat ≤ 4294967295 := Nat.le_of_lt_succ value.isLt
    exact (Act.clock (s := s) value.toNat (.inr closed) top).acts

theorem setHall_acts (code : Half) (s : State) : Acts drops s (setHall code s).2.2 := by
  have emptied : Acts drops s { s with gen.intake := if code = s.ret.hallCode then s.gen.intake else [] } := by
    refine (Act.intake _ ?_).acts
    split
    · exact .inr (le_refl _)
    · exact .inl (Nat.zero_le _)
  exact emptied.tail (.aside rfl)

theorem setTariff_acts (k : Byte) (a : TariffArgs) (s : State) : Acts drops s (setTariff k a s).2.2 := by
  unfold setTariff
  split
  · exact .refl
  · simp only; split
    · exact .refl
    · have written : ∀ x, Acts drops s { s with ret.tariffs := x } := fun _ => Act.acts (.aside rfl)
      exact (written _).tail (.ports (.told _ rfl))

theorem job_runs (p : Port) (tag : Byte) {code : ReqCode} (r : JobRequest) (hc : isJob code = true) (s : State) :
    Runs drops (request p tag code (acceptJob p tag code r) s) s :=
  request_runs fun _ free => (Act.jobs (.accept p tag code r hc free)).course

/-- Every request runs on a course. -/
theorem request_command_runs (i : Instr) (s : State) (o : Out) (h : runRequest i s = some o) : Runs drops o s := by
  cases i <;> cases h
  case status | readTable | snapshotRead => exact respond_runs fun u => .refl u
  case subscribe p tag kinds => exact respond_runs fun _ => (Act.ports (.subscribed p kinds)).course
  case noticeFetch p tag => exact request_runs fun _ _ => (Act.ports (.fetched p tag)).course
  case noticeWait p tag t => exact request_runs fun _ free => (Act.ports (.waited p tag t free)).course
  case deviceReset => exact request_runs fun u _ => (generalReset_acts _ _ u).course
  case clockSet p tag v => exact respond_runs fun u => (setClock_acts v u).course
  case langDefine p tag slot lt label => exact planned_runs fun _ => (Act.plan (.define slot lt label)).course
  case langRemove p tag slot => exact planned_runs fun _ => (Act.plan (.remove slot)).course
  case chanAssign p tag target args => exact planned_runs fun u => (assignChannel_acts target args u).course
  case override p tag on => exact planned_runs fun _ => (Act.plan (.override on)).course
  case routeRefresh =>
    refine respond_runs fun u => ?_
    dsimp only
    exact (Act.refresh (s := u)).course
  case boothSet p tag booth args => exact planned_runs fun u => (setBoothRequest_acts booth args u).course
  case boothClear p tag booth => exact planned_runs fun u => (clearBoothRequest_acts booth u).course
  case boothCut p tag booth => exact planned_runs fun u => (cutBoothRequest_acts booth u).course
  case relaySet p tag booth source => exact respond_runs fun u => (setRelayRequest_acts booth source u).course
  case receiverEnrol p tag n x => exact respond_runs fun _ => (Act.books (.enrol n x)).course
  case receiverWithdraw p tag n => exact respond_runs fun _ => (Act.books (.withdraw n)).course
  case receiverReinstate p tag n => exact respond_runs fun _ => (Act.books (.reinstate n)).course
  case receiverClearFlags p tag n => exact respond_runs fun _ => (Act.books (.clearFlags n)).course
  case hallSet p tag code => exact respond_runs fun u => (setHall_acts code u).course
  case hireOpen p tag k d due => exact respond_runs fun _ => (Act.books (.openHire p k d due)).course
  case issue p tag t n => exact respond_runs fun _ => (HireOp.issue t n).course
  case returnReceiver p tag n => exact respond_runs fun _ => (HireOp.back p n).course
  case lost p tag n => exact respond_runs fun _ => (HireOp.lose n).course
  case depositAdjust p tag t minus x => exact respond_runs fun _ => (HireOp.deposit t minus x).course
  case hireDue p tag t d => exact respond_runs fun _ => (Act.books (.due t d)).course
  case tariffSet p tag k a => exact respond_runs fun u => (setTariff_acts k a u).course
  case quote p tag t f => exact job_runs p tag _ rfl s
  case close p tag a => exact job_runs p tag _ rfl s
  case snapshot p tag => exact job_runs p tag _ rfl s
  case sessionClose p tag => exact job_runs p tag _ rfl s
  case sessionOpen => exact respond_runs fun _ => Act.session.course
  case accountsClear => exact respond_runs fun _ => Act.accounts.course

theorem execUnknownRequest_runs (p : Port) (content : List Byte) (s : State) : Runs drops (execUnknownRequest p content s) s := by
  unfold execUnknownRequest
  split
  · next out h =>
    obtain ⟨i, _, hi⟩ := Option.bind_eq_some_iff.mp h
    exact request_command_runs i s out hi
  · exact frameArrives_runs fun _ => (Act.ports (.answered ..)).course

theorem exec_of_runRequest {i : Instr} {s : State} {o : Out} (h : runRequest i s = some o) : exec i s = o := by
  cases i <;> first | exact Option.some.inj h | cases h

/-- The commands that may take an order from the route line: the end of an order's transmission, and those of the supplies and
the reset line. -/
def dropsOrders : Instr → Prop
  | .routeOrderSent | .powerOn | .mainSupplyFail | .backupDomainPowerLoss | .resetLineAssert => True
  | _ => False

/-- Every command completes, on a course of acts. -/
theorem exec_runs (i : Instr) (s : State) : Runs (dropsOrders i) (exec i s) s := by
  cases hr : runRequest i s with
  | some o =>
    rw [exec_of_runRequest hr]
    exact request_command_runs i s o hr
  | none =>
    cases i <;> first | cases hr; done | clear hr
    case powerOn => exact execPowerOn_runs trivial s
    case mainSupplyFail => exact execMainSupplyFail_runs trivial s
    case backupDomainPowerLoss => exact ⟨_, rfl, Act.course (.reset (.cleared .none .invalid none trivial))⟩
    case resetLineAssert => exact execResetLineAssert_runs trivial s
    case resetLineRelease => exact execResetLineRelease_runs s
    case secondEvent => exact execSecondEvent_runs s
    case gapHoldExpiry c => exact takeOne_runs (.gapHold c) s
    case offerExpiry c => exact takeOne_runs (.offer c) s
    case directoryRepeat => exact takeOne_runs .directory s
    case noticeWaitTimeout p => exact takeOne_runs (.wait p) s
    case dueAlarm => exact takeOne_runs .alarm s
    case directorySendEnd =>
      dsimp only [exec, execDirectorySendEnd]
      refine taking_runs fun u => ?_
      split
      · split <;> exact Act.course (.aside rfl)
      · exact .refl u
    case routeOrderSent =>
      dsimp only [exec, execRouteOrderSent]
      refine taking_runs fun u => ?_
      split
      · exact (Act.orderSent trivial).course
      · exact .refl u
    case pollStart => exact taking_runs fun u => (startPoll_acts u).course
    case pollSent =>
      dsimp only [exec, execPollSent]
      refine taking_runs fun u => ?_
      split
      · exact Act.course (.aside rfl)
      · exact .refl u
    case boothReply bytes =>
      dsimp only [exec, execBoothReply]
      refine event_runs fun u => (closeWindow_acts (fun b v => ?_) u).course
      split
      · exact goodReply_acts ..
      · exact (Act.hall (.miss ..)).acts
    case replyWindowExpiry =>
      exact event_runs fun u => (closeWindow_acts (fun b v => (Act.hall (.miss b .noReply)).acts) u).course
    case seatOn b seat => exact seatEvent_runs (fun m k u hm => .seatOn b m k hm) s
    case seatOff b seat => exact seatEvent_runs (fun m k u hm => .seatOff b m k hm) s
    case coughDown b seat => exact seatEvent_runs (fun m k u hm => .coughDown b m k) s
    case coughUp b seat => exact seatEvent_runs (fun m k u hm => .coughUp b m k) s
    case give b seat => exact seatEvent_runs (fun m k u hm => .give b m k hm) s
    case outputSelect b y =>
      exact event_runs fun u => (handEvent_acts (fun m v hm => (Act.hall (.output b m y hm)).acts) u).course
    case relaySelect b channel =>
      exact event_runs fun u => (handEvent_acts (fun m v hm => relaySelectEvent_acts (relayParam channel) hm) u).course
    case collectorReport r => exact taking_runs fun u => (intakeReport_acts r u).course
    case reportTaken =>
      dsimp only [exec, execReportTaken]
      refine taking_runs fun u => ?_
      split
      · exact .refl u
      · next p rest h =>
        have short : rest.length ≤ u.gen.intake.length := by rw [h]; exact Nat.le_succ _
        exact Acts.course (.tail (Act.intake rest (.inr short)).acts (.books (.take p)))
    case portBreak p => exact execPortBreak_runs p s
    case breakEnd p => exact execBreakEnd_runs p s
    case badCrcFrame p content =>
      dsimp only [exec, execBadCrcFrame]
      refine taking_runs fun u => ?_
      split
      · exact .refl u
      · exact (Act.ports (.framing p)).course
    case unknownRequest p content => exact execUnknownRequest_runs p content s
    case jobStart => exact taking_runs fun _ => (Act.jobs .start).course
    case quoteCompletion => exact taking_runs fun _ => (Act.jobs .quoted).course
    case closeCompletion => exact taking_runs fun _ => HireOp.close.course
    case responseFrameSent p => exact taking_runs fun _ => (Act.ports (.sent p)).course

theorem exec_course {i : Instr} {s t : State} (h : exec i s = .next t) : Course (dropsOrders i) s t := by
  obtain ⟨u, hu, c⟩ := exec_runs i s
  rw [hu] at h
  cases h
  exact c

/-- A step that is not idle is a course from the state with the queue's rest. -/
theorem step_course {s t : State} (h : step s = .next t) : t = s ∨ ∃ q d, Course d (s.withPending q) t := by
  unfold step at h
  split at h
  · cases h; exact .inl rfl
  · exact .inr ⟨_, _, exec_course h⟩

/-- What the waiting commands have no part in, and acts and changes of lines keep, every step keeps. -/
theorem step_keeps {P : State → Prop} {s t : State} (h : step s = .next t) (queue : ∀ q, P s → P (s.withPending q))
    (act : ∀ d s t, Act d s t → P s → P t) (change : ∀ s t, HireOp s t → P s → P t) (hs : P s) : P t := by
  rcases step_course h with rfl | ⟨q, d, c⟩
  · exact hs
  · exact c.keeps (act d) change (queue q hs)

end Sys2Proof.Machine
end

section
/-! SUPPORT. What each kind of act leaves as it was. -/

namespace Sys2Proof.Machine
open Sys2Proof

section
variable {s t : State}

theorem PortOp.ports (h : PortOp s t) : SamePorts s t := by
  cases h with
  | framing p => rfl
  | ended p a => exact endWait_ports p a s
  | told n _ => exact notify_ports n s
  | answered p tag a d => exact answer_ports p tag a d s
  | subscribed p kinds =>
    unfold subscribeTo
    split <;> rfl
  | fetched p tag =>
    unfold noticeFetchOf fetchNotice
    cases nextNotice (s.port p) <;> rfl
  | waited p tag timeout _ =>
    unfold noticeWaitOf fetchNotice
    cases nextNotice (s.port p) <;> rfl
  | sent p => rfl

theorem HallOp.deeds (h : HallOp s t) : Deeds s t := by
  cases h with
  | record b i p m g => exact .booth b _ ⟨rfl, rfl, rfl, rfl⟩ rfl .refl
  | hold c => exact expireHold_deeds c s
  | offer c o _ => exact expireOffer_deeds c o s
  | seatOn b m k _ => exact seatOnEvent_deeds b m k s
  | seatOff b m k _ => exact seatOffEvent_deeds b m k s
  | coughDown b m k => exact coughDownEvent_deeds b m k s
  | coughUp b m k => exact coughUpEvent_deeds b m k s
  | give b m k _ => exact giveEvent_deeds b m k s
  | output b m y _ => exact outputSelectEvent_deeds b m y s
  | miss b cause => exact miss_deeds b cause s
  | cut b m k _ _ => exact cutTurn_deeds b k _ s

end

/-- Everything but the settings of booths, the poll cycle and what an event of the hall changes is the same. -/
def SameButBooths (s t : State) : Prop := t = { s with
  ret.booths := t.ret.booths, ret.seatAcc := t.ret.seatAcc, gen.chans := t.gen.chans, gen.booths := t.gen.booths
  gen.offers := t.gen.offers, gen.routeSending := t.gen.routeSending, gen.routeList := t.gen.routeList
  gen.ports := t.gen.ports, gen.cycle := t.gen.cycle }

theorem SameButBooths.trans {s t u : State} (h : SameButBooths s t) (k : SameButBooths t u) : SameButBooths s u := by
  unfold SameButBooths at *; rw [k, h]

theorem Moves.sameButBooths {s t : State} (h : Moves s t) : SameButBooths s t := by
  unfold SameButBooths; rw [h.keeps]

theorem voidCycle_cycle (b : Booth) (s : State) : voidCycle b s = { s with gen.cycle := (voidCycle b s).gen.cycle } := by
  unfold voidCycle
  cases s.gen.cycle <;> simp only <;> (try split) <;> rfl

theorem voidCycle_booths (b : Booth) (s : State) : SameButBooths s (voidCycle b s) := by
  unfold SameButBooths; rw [voidCycle_cycle]

theorem setBoothSettings_booths (b : Booth) (x : Option BoothSettings) (s : State) :
    SameButBooths s (s.setBoothSettings b x) := rfl

theorem configureBooth_booths (b : Booth) (m : BoothSettings) (s : State) : SameButBooths s (configureBooth b m s) := by
  unfold configureBooth
  exact (((((withdrawAll_moves b s).booth b _).trans (setListen_moves ..)).sameButBooths.trans
    (setBoothSettings_booths ..)).trans (voidCycle_booths ..)).trans (relayUnproduced_moves _).sameButBooths

theorem clearBooth_booths (b : Booth) (s : State) : SameButBooths s (clearBooth b s) := by
  unfold clearBooth
  exact (((((seatLoss_moves b s).booth b _).trans (setListen_moves ..)).sameButBooths.trans
    (setBoothSettings_booths ..)).trans (voidCycle_booths ..)).trans (relayUnproduced_moves _).sameButBooths

/-- Everything but the plan, the slots, the books, the override and what an event of the hall changes is the same. -/
def SameButPlan (s t : State) : Prop := t = { s with
  ret.slots := t.ret.slots, ret.plan := t.ret.plan, ret.receivers := t.ret.receivers, ret.hires := t.ret.hires
  ret.listeners := t.ret.listeners, ret.peaks := t.ret.peaks, ret.seatAcc := t.ret.seatAcc, gen.chans := t.gen.chans
  gen.override := t.gen.override, gen.booths := t.gen.booths, gen.offers := t.gen.offers
  gen.routeSending := t.gen.routeSending, gen.routeList := t.gen.routeList, gen.ports := t.gen.ports }

theorem SameButPlan.trans {s t u : State} (h : SameButPlan s t) (k : SameButPlan t u) : SameButPlan s u := by
  unfold SameButPlan at *; rw [k, h]

theorem Moves.sameButPlan {s t : State} (h : Moves s t) : SameButPlan s t := by
  unfold SameButPlan; rw [h.keeps]

theorem Books.sameButPlan {s t : State} (h : Books s t) : SameButPlan s t := by
  unfold SameButPlan; rw [h.keeps]

theorem defineLanguage_plan (slot : Byte) (tag : Half) (label : List Byte) (s : State) :
    SameButPlan s (defineLanguage slot tag label s).2 := by
  unfold defineLanguage
  split
  · rfl
  · (repeat' split) <;> rfl

theorem removeLanguage_plan (slot : Byte) (s : State) : SameButPlan s (removeLanguage slot s).2 := by
  unfold removeLanguage
  split
  · rfl
  · (repeat' split) <;> rfl

/-! ### The stages of an accepted CHAN_ASSIGN -/

/-- The writes to the channel that a moved language leaves (R19). -/
def moveAway (a : Assign) (s : State) : State :=
  match movedFrom s a with
  | some c => clearChannel c s
  | none => s

/-- The slot that the target carried, where it leaves the plan, no longer names it (R18). -/
def freeOld (a : Assign) (old : Option Slot) (s : State) : State :=
  match old with
  | some k => if a.slot = some k then s else freeSlot k s
  | none => s

theorem assignWrites_eq (a : Assign) (s : State) : assignWrites a s =
    (writeTarget a (freeOld a (s.settings a.target).slot (moveAway a s))).setChan a.target
      (targetLive a (s.settings a.target).slot (s.chan a.target)) := rfl

/-- The order and the listeners of the channel that a moved language left (R19, R33, R86). -/
def settleLeft (a : Assign) (before s : State) : State :=
  match movedFrom before a with
  | some c => relayUnassigned c (routeAfter before c s)
  | none => s

/-- The credit of the listeners of the slot that left the plan (R20). -/
def closeLeft (a : Assign) (before s : State) : State :=
  match (before.settings a.target).slot with
  | some k => if a.slot = some k then s else slotLeaves k s
  | none => s

/-- The target's new coverage is handed on (R18, R27). -/
def handTarget (a : Assign) (before s : State) : State :=
  match a.slot with
  | none => relayUnassigned a.target s
  | some k =>
    if (before.settings a.target).slot = some k then s
    else if a.gapHold = 0 then uncover a.target (relayFollow a.target s) else relayFollow a.target s

theorem assignEffects_eq (a : Assign) (before s : State) : assignEffects a before s =
    handTarget a before (closeLeft a before (routeAfter before a.target (settleLeft a before s))) := rfl

theorem settleLeft_moves (a : Assign) (before s : State) : Moves s (settleLeft a before s) := by
  unfold settleLeft
  split
  · exact (routeAfter_moves ..).trans (relayUnassigned_moves ..)
  · exact .refl

theorem closeLeft_books (a : Assign) (before s : State) : Books s (closeLeft a before s) := by
  unfold closeLeft
  split
  · split
    · exact .refl
    · exact slotLeaves_books ..
  · exact .refl

theorem handTarget_moves (a : Assign) (before s : State) : Moves s (handTarget a before s) := by
  unfold handTarget
  split
  · exact relayUnassigned_moves ..
  · split
    · exact .refl
    · split
      · exact (relayFollow_moves ..).trans (uncover_moves ..)
      · exact relayFollow_moves ..

theorem assignWrites_plan (a : Assign) (s : State) : SameButPlan s (assignWrites a s) := by
  have moved : SameButPlan s (moveAway a s) := by unfold moveAway; split <;> rfl
  have freed : ∀ old u, SameButPlan u (freeOld a old u) := fun old u => by
    unfold freeOld
    split
    · split <;> rfl
    · rfl
  have written : ∀ u, SameButPlan u (writeTarget a u) := fun u => by
    unfold writeTarget; simp only; split <;> rfl
  have live : ∀ c x (u : State), SameButPlan u (u.setChan c x) := fun _ _ _ => rfl
  exact ((moved.trans (freed _ _)).trans (written _)).trans (live _ _ _)

theorem assignEffects_plan (a : Assign) (before s : State) : SameButPlan s (assignEffects a before s) :=
  ((((settleLeft_moves a before s).sameButPlan.trans (routeAfter_moves ..).sameButPlan).trans
    (closeLeft_books ..).sameButPlan)).trans (handTarget_moves ..).sameButPlan

theorem setOverride_moves (on : Bool) (s : State) : Moves { s with gen.override := on } (setOverride on s) := by
  unfold setOverride
  split
  · next h => subst h; exact .refl
  · exact Moves.foldl _ (fun t c => routeAfter_moves s c t) _ _

theorem PlanOp.sameButPlan {s t : State} (h : PlanOp s t) : SameButPlan s t := by
  cases h with
  | define slot tag label => exact defineLanguage_plan slot tag label s
  | remove slot => exact removeLanguage_plan slot s
  | assign target args a _ _ => exact (assignWrites_plan a s).trans (assignEffects_plan a s _)
  | override on => exact SameButPlan.trans (t := { s with gen.override := on }) rfl (setOverride_moves on s).sameButPlan

theorem BoothOp.sameButBooths {s t : State} (h : BoothOp s t) : SameButBooths s t := by
  cases h with
  | choose b m x _ _ => exact (chooseListen_moves b x s).sameButBooths
  | configure b m args _ _ _ => exact configureBooth_booths b m s
  | clear b => exact clearBooth_booths b s

/-! ## The books and the jobs -/

/-- Everything but the register, the hire table, the session counters, the accounts, the job in flight and the ports is the
same. -/
def SameButBooks (s t : State) : Prop := t = { s with
  ret.receivers := t.ret.receivers, ret.hires := t.ret.hires, ret.listeners := t.ret.listeners
  ret.peaks := t.ret.peaks, ret.nextTicket := t.ret.nextTicket, ret.counters := t.ret.counters
  gen.ports := t.gen.ports }

theorem SameButBooks.trans {s t u : State} (h : SameButBooks s t) (k : SameButBooks t u) : SameButBooks s u := by
  unfold SameButBooks at *; rw [k, h]

theorem Books.sameButBooks {s t : State} (h : Books s t) : SameButBooks s t := by
  unfold SameButBooks; rw [h.keeps]

theorem openHire_sameButBooks (p : Port) (k : Byte) (d : Word) (due : Option Word) (s : State) :
    SameButBooks s (openHire p k d due s).2.2 := by
  unfold openHire
  split
  · rfl
  · split
    · rfl
    · split
      · rfl
      · dsimp only
        split <;> rfl

theorem BookOp.sameButBooks {s t : State} (h : BookOp s t) : SameButBooks s t := by
  cases h with
  | enrol n x => exact (enrol_books n x s).sameButBooks
  | withdraw n => exact (withdraw_books n s).sameButBooks
  | reinstate n => exact (reinstate_books n s).sameButBooks
  | clearFlags n => exact (clearFlags_books n s).sameButBooks
  | take p => exact (takeReport_books p s).sameButBooks
  | openHire p k d due => exact openHire_sameButBooks p k d due s
  | due t d => exact (setDue_books t d s).sameButBooks
  | alarm => exact (dueAlarm_books s).sameButBooks

/-- What the completion of a CLOSE does: nothing; an answer; or the commit and its answer, where the hire stands as the work
copy holds it. -/
theorem completeClose_cases (s : State) :
    completeClose s = s ∨
    (∃ p a w, s.gen.flight = some ⟨p, .close a, w⟩ ∧
      ((∃ x d, completeClose s = finish p x d { s with gen.flight := none }) ∨
        (tokenCurrent { s with gen.flight := none } w = true ∧
          ∃ d, completeClose s = finish p .done d (commitClose p w { s with gen.flight := none })))) := by
  unfold completeClose
  split
  · next p a w hf =>
    refine .inr ⟨p, a, w, hf, ?_⟩
    simp only
    split
    · exact .inl ⟨_, _, rfl⟩
    · next token =>
      split
      · exact .inl ⟨_, _, rfl⟩
      · exact .inr ⟨by simpa using token, _, rfl⟩
  · exact .inl rfl

/-- What a change of a hire's lines, or the completion of a CLOSE, leaves alone. -/
theorem HireOp.keeps {s t : State} (h : HireOp s t) : t = { s with
    ret.receivers := t.ret.receivers, ret.hires := t.ret.hires, ret.listeners := t.ret.listeners
    ret.peaks := t.ret.peaks, ret.counters := t.ret.counters, ret.accounts := t.ret.accounts
    gen.flight := t.gen.flight, gen.ports := t.gen.ports } := by
  cases h with
  | issue t n => rw [(issueReceiver_books t n s).keeps]
  | back p n => rw [(returnOf_books p n s).keeps]
  | lose n => rw [(loseReceiver_books n s).keeps]
  | deposit t m x => rw [(adjustDeposit_books t m x s).keeps]
  | close =>
    rcases completeClose_cases s with e | ⟨p, a, w, _, ⟨x, d, e⟩ | ⟨_, d, e⟩⟩ <;> rw [e]
    · rw [finish_ports p x d _]
    · rw [finish_ports p .done d _, commitClose, notifyExcept_ports _ _ _]
      unfold removeHire
      simp only
      split <;> rfl

/-- What a point of an accounting job leaves alone. -/
theorem JobOp.keeps {s t : State} (h : JobOp s t) : t = { s with
    ret.session := t.ret.session, gen.jobs := t.gen.jobs, gen.flight := t.gen.flight, gen.snapshot := t.gen.snapshot
    gen.ports := t.gen.ports } := by
  have finished : ∀ p a d (u : State), SamePorts u (finish p a d u) := finish_ports
  cases h with
  | accept p tag code r _ _ => rfl
  | start =>
    unfold startJob
    split
    · next j rest _ _ =>
      simp only
      split
      · unfold startQuote
        (repeat' split) <;> first | rfl | rw [finished _ _ _ _]
      · unfold startClose
        (repeat' split) <;> first | rfl | rw [finished _ _ _ _]
      · unfold startSnapshot
        split <;> rw [finished _ _ _ _]
      · unfold startSessionClose
        split <;> rw [finished _ _ _ _]
    · rfl
  | quoted =>
    unfold completeQuote
    split
    · rw [finished _ _ _ _]
    · rfl

end Sys2Proof.Machine
end

section
/-! SUPPORT. The order of commands, and the balance of the accounts: the settlement of O1, O2 and O57. -/

namespace Sys2Proof.Machine
open Sys2Proof

/-! ## The queue of waiting commands -/

theorem Aside.pending {s t : State} (h : Aside s t) : t.pending = s.pending := congrArg (fun x => x.pending) h
theorem SameButBooths.pending {s t : State} (h : SameButBooths s t) : t.pending = s.pending :=
  congrArg (fun x => x.pending) h
theorem SameButPlan.pending {s t : State} (h : SameButPlan s t) : t.pending = s.pending :=
  congrArg (fun x => x.pending) h
theorem SameButBooks.pending {s t : State} (h : SameButBooks s t) : t.pending = s.pending :=
  congrArg (fun x => x.pending) h
theorem SameDirectory.pending {s t : State} (h : SameDirectory s t) : t.pending = s.pending :=
  congrArg (fun x => x.pending) h
theorem SameRoutes.pending {s t : State} (h : SameRoutes s t) : t.pending = s.pending := congrArg (fun x => x.pending) h

theorem placeAll_routes (os : List RouteOrder) (s : State) : SameRoutes s (placeAll os s) := by
  induction os generalizing s with
  | nil => exact .refl s
  | cons o os ih => exact (placeOrder_routes o s).trans (ih _)

/-- A general reset replaces the general domain and, where it is no part of a full reset, advances the directory sequence. -/
theorem generalReset_keeps (kind : RestartKind) (cleared : Bool) (s : State) :
    generalReset kind cleared s = { s with
      ret.dirSeq := if cleared then s.ret.dirSeq else wrapNext Config.smallMax s.ret.dirSeq
      gen := (generalReset kind cleared s).gen } := by
  unfold generalReset
  simp only
  generalize fullSet _ = os
  rw [placeAll_routes os]
  cases cleared <;> rfl

theorem openSession_keeps (s : State) : (openSession s).2.2 = { s with
    ret.session := (openSession s).2.2.ret.session, ret.slots := (openSession s).2.2.ret.slots
    ret.peaks := (openSession s).2.2.ret.peaks, ret.seatAcc := (openSession s).2.2.ret.seatAcc
    ret.counters := (openSession s).2.2.ret.counters } := by
  unfold openSession
  split <;> rfl

theorem countBlocks_keeps (s : State) : countBlocks s = { s with
    ret.slots := (countBlocks s).ret.slots, ret.seatAcc := Bank.build (countOnAir s), draws := s.draws + 1
    gen.chans := (countBlocks s).gen.chans, gen.offers := s.gen.offers.map countOffer
    gen.dirCount := s.gen.dirCount + 1
    gen.ports := ⟨countWait s.gen.ports.console, countWait s.gen.ports.desk1, countWait s.gen.ports.desk2⟩ } := by
  unfold countBlocks countSlots
  simp only
  split <;> rfl

theorem Act.pending {drops : Prop} {s t : State} (h : Act drops s t) : t.pending = s.pending := by
  cases h with
  | aside h => exact h.pending
  | ports h => exact h.ports.pending
  | hall h => exact h.deeds.moves.pending
  | booths h => exact h.sameButBooths.pending
  | plan h => exact h.sameButPlan.pending
  | books h => exact h.sameButBooks.pending
  | jobs h => rw [h.keeps]
  | reset h =>
    cases h with
    | general kind cleared => rw [generalReset_keeps]
    | _ => rfl
  | directory before => exact (dirAfter_directory before s).pending
  | refresh => exact (placeAll_routes _ s).pending
  | orderSent => rw [routeBegin_routes _]
  | count => rw [countBlocks_keeps]
  | session => rw [openSession_keeps]
  | _ => rfl

theorem Course.pending {drops : Prop} {s t : State} (h : Course drops s t) : t.pending = s.pending :=
  h.keeps (P := fun u => u.pending = s.pending) (fun _ _ k e => k.pending.trans e)
    (fun _ _ k e => by rw [k.keeps]; exact e) rfl

/-- Settles O1: both clauses are the two cases of `step`. -/
theorem stepTakesTheFront : Obligations.StepTakesTheFront := by
  refine ⟨fun c rest s h => ?_, fun s h => ?_⟩
  · unfold step
    rw [h]
    rfl
  · unfold step
    rw [h]

/-- Settles O2: every command runs on a course of acts, and no act touches the queue. -/
theorem everyCommandCompletes : Obligations.EveryCommandCompletes := fun c s => by
  obtain ⟨t, ht, course⟩ := exec_runs c s
  exact ⟨t, ht, course.pending⟩

/-! ## The accounts (R151, R162, R164) -/

theorem Act.accounts_cases {drops : Prop} {s t : State} (h : Act drops s t) :
    t.ret.accounts = s.ret.accounts ∨ t.ret.accounts = Accounts.zero := by
  cases h with
  | aside h => exact .inl (congrArg (fun x => x.ret.accounts) h)
  | ports h => exact .inl (congrArg Retained.accounts h.ports.ret)
  | hall h => exact .inl (by rw [h.deeds.moves.keeps])
  | booths h => exact .inl (congrArg (fun x => x.ret.accounts) h.sameButBooths)
  | plan h => exact .inl (congrArg (fun x => x.ret.accounts) h.sameButPlan)
  | books h => exact .inl (congrArg (fun x => x.ret.accounts) h.sameButBooks)
  | jobs h => exact .inl (by rw [h.keeps])
  | reset h =>
    cases h with
    | general kind cleared => exact .inl (by rw [generalReset_keeps])
    | cleared supply mark held => exact .inr rfl
    | _ => exact .inl rfl
  | directory before => exact .inl (congrArg (fun x => x.ret.accounts) (dirAfter_directory before s))
  | refresh => exact .inl (congrArg (fun x => x.ret.accounts) (placeAll_routes _ s))
  | orderSent => exact .inl (by rw [routeBegin_routes _])
  | count => exact .inl (by rw [countBlocks_keeps])
  | session => exact .inl (by rw [openSession_keeps])
  | accounts => exact .inr rfl
  | _ => exact .inl rfl

theorem HireOp.accounts_cases {s t : State} (h : HireOp s t) :
    t.ret.accounts = s.ret.accounts ∨ ∃ p w, t.ret.accounts = raiseAccounts p w.deposit (hireCharge w) s.ret.accounts := by
  cases h with
  | issue t n => exact .inl (issueReceiver_books t n s).accounts
  | back p n => exact .inl (returnOf_books p n s).accounts
  | lose n => exact .inl (loseReceiver_books n s).accounts
  | deposit t m x => exact .inl (adjustDeposit_books t m x s).accounts
  | close =>
    rcases completeClose_cases s with e | ⟨p, a, w, _, ⟨x, d, e⟩ | ⟨_, d, e⟩⟩ <;> rw [e]
    · exact .inl rfl
    · exact .inl (congrArg Retained.accounts (finish_ports p x d _).ret)
    · refine .inr ⟨p, w, ?_⟩
      rw [(finish_ports p .done d _).ret, commitClose, (notifyExcept_ports _ _ _).ret]
      unfold removeHire
      simp only
      split <;> rfl

/-- A total below the limit after a raise has taken the whole of it. -/
theorem raiseTotal_of_lt {x d : Nat} (h : raiseTotal x d < Config.totalLimit) : raiseTotal x d = x + d := by
  unfold raiseTotal holdAdd at *
  omega

/-- What a commit adds to the two sides of the balance: its charge, and what the settlement says of it. -/
theorem hireCharge_balanced (w : WorkCopy) :
    (hireCharge w).time + (hireCharge w).fee + (if (hireCharge w).flags.settlement = .refund then (hireCharge w).amount else 0)
      = w.deposit + if (hireCharge w).flags.settlement = .owed then (hireCharge w).amount else 0 := by
  rw [hireCharge_parts]
  rcases lt_trichotomy w.deposit (hireCharge w).total with h | h | h
  · obtain ⟨owed, sum⟩ := hireCharge_of_owed h
    simp [owed, sum]
  · obtain ⟨even, none⟩ := hireCharge_of_even h
    simp [even, h]
  · obtain ⟨refund, sum⟩ := hireCharge_of_refund h
    simp [refund, sum]

/-- A raise that takes no total to the limit keeps the balance. -/
theorem raiseAccounts_balanced (p : Port) (w : WorkCopy) {a : Accounts} (h : a.below → a.balanced)
    (low : (raiseAccounts p w.deposit (hireCharge w) a).below) :
    (raiseAccounts p w.deposit (hireCharge w) a).balanced := by
  obtain ⟨time, fees, applied, collected, refunded⟩ := low
  have sides := hireCharge_balanced w
  simp only [raiseAccounts] at time fees applied collected refunded
  have t := raiseTotal_of_lt time
  have f := raiseTotal_of_lt fees
  have d := raiseTotal_of_lt applied
  have c := raiseTotal_of_lt collected
  have r := raiseTotal_of_lt refunded
  rw [t] at time
  rw [f] at fees
  rw [d] at applied
  rw [c] at collected
  rw [r] at refunded
  have before : a.balanced := h ⟨by omega, by omega, by omega, by omega, by omega⟩
  unfold Accounts.balanced at before ⊢
  simp only [raiseAccounts]
  rw [t, f, d, c, r]
  omega

/-- Settles O57: a commit alone raises the totals, by amounts that balance. -/
theorem accountsStayBalanced : Obligations.AccountsStayBalanced := by
  intro s t h balanced
  refine step_keeps (P := fun u => u.ret.accounts.below → u.ret.accounts.balanced) h (fun _ => id) (fun _ u v act hu => ?_)
    (fun u v change hu => ?_) balanced
  · rcases act.accounts_cases with e | e <;> rw [e]
    · exact hu
    · exact fun _ => rfl
  · rcases change.accounts_cases with e | ⟨p, w, e⟩ <;> rw [e]
    · exact hu
    · exact raiseAccounts_balanced p w hu

end Sys2Proof.Machine
end

section
/-! SUPPORT. The notices that an act sends, the queues they join and the waits they end: the settlement of O44 and O54. -/

namespace Sys2Proof.Machine
open Sys2Proof

/-! ## What a notice does to each port (R177, R178, R180) -/

theorem noticed_of_not_subscribed {n : Notice} {k : PortState} (h : subscribes k n.body = false) : noticed n k = k := by
  unfold noticed; simp [h]

theorem noticed_of_wait {n : Notice} {k : PortState} {r : InProgress} {w : Wait} (h : subscribes k n.body = true)
    (hr : k.inProgress = some r) (hw : r.wait = some w) : noticed n k =
      { k with
        inProgress := none, overrun := false
        transmit := k.transmit ++ [⟨r.tag, .done, u8 w.applied ++ noticeBytes n k.overrun⟩] } := by
  obtain ⟨c, tag, wait⟩ := r
  subst hw
  unfold noticed; simp [h, hr]

theorem noticed_of_free {n : Notice} {k : PortState} (h : subscribes k n.body = true)
    (hk : k.inProgress.bind InProgress.wait = none) : noticed n k = enqueue n k := by
  unfold noticed
  rw [if_pos h]
  split
  · next hr => rw [hr] at hk; cases hk
  · rfl

theorem offerNotice_port (n : Notice) (p q : Port) (s : State) :
    (offerNotice n p s).port q = if p = q then noticed n (s.port q) else s.port q := by
  by_cases hq : p = q
  · subst hq
    rw [if_pos rfl]
    unfold offerNotice
    cases hs : subscribes (s.port p) n.body
    · rw [noticed_of_not_subscribed hs]; rfl
    · rw [if_pos rfl]
      rcases giveNotice_cases p n s with ⟨c, t, w, hr, e⟩ | ⟨hr, e⟩ <;> rw [e, State.setPort_same]
      · rw [noticed_of_wait hs hr rfl]
      · refine (noticed_of_free hs ?_).symm
        cases hk : (s.port p).inProgress with
        | none => rfl
        | some r =>
          obtain ⟨c, t, _ | w⟩ := r
          · rfl
          · exact absurd hk (hr c t w)
  · rw [offerNotice_other n p q s hq, if_neg hq]

theorem offerNotice_clock (n : Notice) (p : Port) (s : State) : (offerNotice n p s).clock = s.clock :=
  (offerNotice_ports n p s).clock

theorem notifyExcept_port (skip : Option Port) (b : NoticeBody) (s : State) (p : Port) :
    (notifyExcept skip b s).port p = if skip = some p then s.port p else noticed ⟨s.clock, b⟩ (s.port p) := by
  have told : ∀ (q : Port) (u : State), u.clock = s.clock →
      ((if skip = some q then u else offerNotice ⟨u.clock, b⟩ q u).port p =
        if q = p ∧ skip ≠ some p then noticed ⟨s.clock, b⟩ (u.port p) else u.port p) ∧
      (if skip = some q then u else offerNotice ⟨u.clock, b⟩ q u).clock = s.clock := by
    intro q u hu
    by_cases hq : skip = some q
    · by_cases hqp : q = p
      · subst hqp; simp [hq, hu]
      · simp [hq, hu, hqp]
    · rw [if_neg hq, offerNotice_port, offerNotice_clock, hu]
      by_cases hqp : q = p
      · subst hqp; simp [hq]
      · simp [hqp]
  unfold notifyExcept
  simp only [List.foldl_cons, List.foldl_nil]
  obtain ⟨p1, c1⟩ := told .console s rfl
  obtain ⟨p2, c2⟩ := told .desk1 _ c1
  obtain ⟨p3, -⟩ := told .desk2 _ c2
  rw [p3, p2, p1]
  by_cases h : skip = some p
  · simp [h]
  · cases p <;> simp [h]

theorem notify_port (b : NoticeBody) (s : State) (p : Port) :
    (notify b s).port p = noticed ⟨s.clock, b⟩ (s.port p) := by
  unfold notify; rw [notifyExcept_port]; simp

/-- A full queue of urgent notices loses its oldest one other than RESTARTED. -/
theorem dropOldest_append {front back : List Notice} {x : Notice} (hf : ∀ y ∈ front, isRestarted y.body = true)
    (hx : isRestarted x.body = false) : dropOldest (front ++ x :: back) = front ++ back := by
  induction front with
  | nil => simp [dropOldest, hx]
  | cons y front ih =>
    have rest := ih fun z hz => hf z (List.mem_cons_of_mem _ hz)
    simp only [List.cons_append, dropOldest, hf y List.mem_cons_self, if_true, rest]

/-- Settles O44: a notice reaches each port by itself, and a port with no wait queues it under the limits. -/
theorem noticesAreQueued : Obligations.NoticesAreQueued := by
  refine ⟨fun s skip body p => ⟨notifyExcept_port skip body s p, notifyExcept_ports skip body s⟩, fun k n hs hw => ?_⟩
  rw [noticed_of_free hs hw]
  unfold enqueue
  refine ⟨fun hu room => ?_, fun hu full front x back hk hf hx => ?_, fun hu room => ?_, fun hu full => ?_⟩
  · rw [if_pos hu, if_neg (by simpa [Config.urgentMax] using room)]
  · rw [if_pos hu, if_pos (show Config.urgentMax ≤ _ from full), hk, dropOldest_append hf hx]
  · rw [if_neg (by simp [hu]), if_neg (by simpa [Config.routineMax] using room)]
  · rw [if_neg (by simp [hu]), if_pos (show Config.routineMax ≤ _ from full)]

/-! ## The notices of an act -/

/-- Every port of `t` is that of `s` with notices other than RESTARTED given to it. -/
structure Hears (s t : State) : Prop where
  port : ∀ p, ∃ l : List Notice, (∀ n ∈ l, isRestarted n.body = false) ∧
    t.port p = l.foldl (fun k n => noticed n k) (s.port p)

namespace Hears
variable {s t u : State}

theorem of_ports (h : t.gen.ports = s.gen.ports) : Hears s t :=
  ⟨fun p => ⟨[], nofun, by simp [State.port, h]⟩⟩
theorem of_gen (h : t.gen = s.gen) : Hears s t := of_ports (by rw [h])
theorem refl (s : State) : Hears s s := of_ports rfl

theorem trans (h : Hears s t) (k : Hears t u) : Hears s u := ⟨fun p => by
  obtain ⟨l, hl, el⟩ := h.port p
  obtain ⟨m, hm, em⟩ := k.port p
  refine ⟨l ++ m, fun n hn => (List.mem_append.mp hn).elim (hl n) (hm n), ?_⟩
  rw [em, el, List.foldl_append]⟩

theorem notifyExcept (skip : Option Port) {b : NoticeBody} (hb : isRestarted b = false) (s : State) :
    Hears s (notifyExcept skip b s) := ⟨fun p => by
  rw [notifyExcept_port]
  split
  · exact ⟨[], nofun, rfl⟩
  · exact ⟨[⟨s.clock, b⟩], fun n hn => by rw [List.mem_singleton.mp hn]; exact hb, rfl⟩⟩

theorem notify {b : NoticeBody} (hb : isRestarted b = false) (s : State) : Hears s (notify b s) := notifyExcept none hb s

theorem foldl {α : Type} (f : State → α → State) (hf : ∀ t a, Hears t (f t a)) (l : List α) (t : State) :
    Hears t (l.foldl f t) := by
  induction l generalizing t with
  | nil => exact .refl t
  | cons a l ih => exact (hf t a).trans (ih (f t a))

/-- What a notice other than RESTARTED keeps of a port, the notices of an act keep. -/
theorem keeps (h : Hears s t) {J : PortState → Prop} (hJ : ∀ n k, isRestarted n.body = false → J k → J (noticed n k))
    {p : Port} (hs : J (s.port p)) : J (t.port p) := by
  obtain ⟨l, hl, e⟩ := h.port p
  rw [e]
  clear e
  generalize s.port p = k at hs
  induction l generalizing k with
  | nil => exact hs
  | cons n l ih => exact ih (fun m hm => hl m (List.mem_cons_of_mem _ hm)) _ (hJ n k (hl n List.mem_cons_self) hs)

end Hears

theorem setChan_hears (c : Chan) (x : ChanLive) (s : State) : Hears s (s.setChan c x) := .of_ports rfl
theorem setBooth_hears (b : Booth) (x : BoothLive) (s : State) : Hears s (s.setBooth b x) := .of_ports rfl
theorem setBoothSettings_hears (b : Booth) (x : Option BoothSettings) (s : State) :
    Hears s (s.setBoothSettings b x) := .of_ports rfl
theorem setReceiver_hears (n : Nat) (x : Receiver) (s : State) : Hears s (s.setReceiver n x) := .of_ports rfl
theorem setHire_hears (t : Nat) (x : Hire) (s : State) : Hears s (s.setHire t x) := .of_ports rfl
theorem voidCycle_hears (b : Booth) (s : State) : Hears s (voidCycle b s) := .of_ports (by rw [voidCycle_cycle])
theorem SameRoutes.hears {s t : State} (h : SameRoutes s t) : Hears s t := .of_ports (congrArg (fun x => x.gen.ports) h)
theorem routeAfter_hears (b : State) (c : Chan) (s : State) : Hears s (routeAfter b c s) := (routeAfter_routes b c s).hears
theorem setListen_hears (b : Booth) (x y : Listen) (h : Bool) (s : State) : Hears s (setListen b x y h s) := by
  unfold setListen; simp only; split
  · exact .of_ports rfl
  · exact (setBooth_hears ..).trans (placeOrder_routes ..).hears
theorem chooseListen_hears (b : Booth) (x : Listen) (s : State) : Hears s (chooseListen b x s) := by
  unfold chooseListen; split <;> exact setListen_hears ..
theorem followOne_hears (r : Chan) (s : State) (b : Booth) : Hears s (followOne r s b) := by
  unfold followOne; split
  · simp only; split
    · exact (chooseListen_hears ..).trans (.notify rfl _)
    · exact chooseListen_hears ..
  · exact .refl s
theorem relayFollow_hears (r : Chan) (s : State) : Hears s (relayFollow r s) :=
  Hears.foldl _ (fun t b => followOne_hears r t b) _ s
theorem relayUnassigned_hears (r : Chan) (s : State) : Hears s (relayUnassigned r s) := by
  refine Hears.foldl _ (fun t b => ?_) _ s
  split
  · exact chooseListen_hears ..
  · exact .refl t
theorem relayUnproduced_hears (s : State) : Hears s (relayUnproduced s) := by
  unfold relayUnproduced
  refine Hears.foldl _ (fun t b => ?_) _ s
  split
  · split
    · exact .refl t
    · exact chooseListen_hears ..
  · exact .refl t
theorem Tells.hears {f : State → State} (hf : Tells f) (s : State) : Hears s (f s) := by
  rcases hf s with e | ⟨n, hn, e⟩ <;> rw [e]
  · exact .refl s
  · exact .notify hn s
theorem coverageChange_hears (c : Chan) (x : ChanLive) {f : State → State} (hf : Tells f) (s : State) :
    Hears s (coverageChange c x f s) :=
  (((setChan_hears c x s).trans (routeAfter_hears s c _)).trans (hf.hears _)).trans (relayFollow_hears c _)
theorem syncMute_hears (b : Booth) (s : State) : Hears s (syncMute b s) := by
  unfold syncMute; simp only; split
  · exact .refl s
  · exact (setBooth_hears ..).trans (placeOrder_routes ..).hears

theorem Deeds.hears {s t : State} (h : Deeds s t) : Hears s t := by
  induction h with
  | refl => exact .refl s
  | cover c x f hf _ ih => exact ih.trans (coverageChange_hears c x hf _)
  | hold c x _ ih => exact ih.trans ((setChan_hears ..).trans (routeAfter_hears ..))
  | seats b l _ _ ih => exact ih.trans ((setBooth_hears ..).trans (syncMute_hears ..))
  | booth b l _ _ _ ih => exact ih.trans (.of_ports rfl)
  | acc b k x _ _ ih => exact ih.trans (.of_ports rfl)
  | offer c x _ ih => exact ih.trans (.of_ports rfl)
  | notice n hn _ ih => exact ih.trans (.notify hn _)

theorem configureBooth_hears (b : Booth) (m : BoothSettings) (s : State) : Hears s (configureBooth b m s) := by
  unfold configureBooth
  exact (((((withdrawAll_deeds b s).hears.trans (setBooth_hears ..)).trans (setListen_hears ..)).trans
    (setBoothSettings_hears ..)).trans (voidCycle_hears ..)).trans (relayUnproduced_hears _)

theorem clearBooth_hears (b : Booth) (s : State) : Hears s (clearBooth b s) := by
  unfold clearBooth
  exact (((((seatLoss_deeds b s).hears.trans (setBooth_hears ..)).trans (setListen_hears ..)).trans
    (setBoothSettings_hears ..)).trans (voidCycle_hears ..)).trans (relayUnproduced_hears _)

theorem BoothOp.hears {s t : State} (h : BoothOp s t) : Hears s t := by
  cases h with
  | choose b m x _ _ => exact chooseListen_hears b x s
  | configure b m args _ _ _ => exact configureBooth_hears b m s
  | clear b => exact clearBooth_hears b s

/-! ### The books send few notices -/

theorem addCredit_gen (k : HireLink) (secs : Nat) (s : State) : (addCredit k secs s).gen = s.gen := by
  unfold addCredit; split <;> rfl
theorem closeCredit_gen (n : Nat) (s : State) : (closeCredit n s).gen = s.gen := by
  unfold closeCredit; simp only
  split
  · rfl
  · split
    · exact addCredit_gen ..
    · rfl
theorem openCredit_gen (n : Nat) (k : Slot) (s : State) : (openCredit n k s).gen = s.gen := rfl
theorem slotLeaves_gen (k : Slot) (s : State) : (slotLeaves k s).gen = s.gen := by
  unfold slotLeaves
  simp only
  generalize s.ret.receivers = l
  induction l generalizing s with
  | nil => rfl
  | cons e l ih =>
    rw [List.foldl_cons]
    split
    · exact (ih _).trans (closeCredit_gen ..)
    · exact ih s
theorem retune_gen (n : Nat) (l : Option Slot) (s : State) : (retune n l s).gen = s.gen := by
  unfold retune
  split
  · rfl
  · simp only
    split
    · exact closeCredit_gen n s
    · exact (openCredit_gen ..).trans (closeCredit_gen n s)
theorem endLine_gen (n : Nat) (k : HireLink) (x : LineState) (s : State) : (endLine n k x s).gen = s.gen := by
  unfold endLine; simp only
  split <;> exact closeCredit_gen n s

theorem takeReport_hears (p : Report) (s : State) : Hears s (takeReport p s) := by
  unfold takeReport
  simp only
  split
  · split
    · refine Hears.trans ?_ (.of_gen (retune_gen ..))
      split
      · exact (setReceiver_hears ..).trans (.notify rfl _)
      · exact setReceiver_hears ..
    · split
      · exact setReceiver_hears ..
      · exact (setReceiver_hears ..).trans (.notify rfl _)
    · split
      · exact setReceiver_hears ..
      · exact (setReceiver_hears ..).trans (.notify rfl _)
    · exact .refl s
  · exact .refl s

theorem becomeOverdue_hears (t : Nat) (h : Hire) (s : State) : Hears s (becomeOverdue t h s) :=
  (setHire_hears ..).trans (.notify rfl _)

theorem dueAlarm_hears (s : State) : Hears s (dueAlarm s) := by
  unfold dueAlarm
  refine Hears.foldl _ (fun t e => ?_) _ s
  split
  · exact becomeOverdue_hears ..
  · exact .refl t

theorem setDue_hears (t : Half) (d : Option Word) (s : State) : Hears s (setDue t d s).2.2 := by
  unfold setDue
  split
  · exact .refl s
  · split
    · exact .refl s
    · simp only
      split
      · exact (setHire_hears ..).trans (becomeOverdue_hears ..)
      · exact setHire_hears ..

theorem BookOp.hears {s t : State} (h : BookOp s t) : Hears s t := by
  cases h with
  | take p => exact takeReport_hears p s
  | due t d => exact setDue_hears t d s
  | alarm => exact dueAlarm_hears s
  | enrol n x =>
    refine .of_gen ?_
    unfold Machine.enrol
    (repeat' split) <;> rfl
  | withdraw n =>
    refine .of_gen ?_
    unfold Machine.withdraw
    split
    · rfl
    · dsimp only
      split <;> rfl
  | reinstate n =>
    refine .of_gen ?_
    unfold Machine.reinstate
    split
    · rfl
    · dsimp only
      (repeat' split) <;> rfl
  | clearFlags n =>
    refine .of_gen ?_
    unfold Machine.clearFlags
    split
    · rfl
    · dsimp only
      split <;> rfl
  | openHire p k d due =>
    refine .of_gen ?_
    unfold Machine.openHire
    split
    · rfl
    · split
      · rfl
      · split
        · rfl
        · dsimp only
          split <;> rfl

theorem PlanOp.hears {s t : State} (h : PlanOp s t) : Hears s t := by
  cases h with
  | define slot tag label =>
    refine .of_gen ?_
    unfold defineLanguage
    split
    · rfl
    · (repeat' split) <;> rfl
  | remove slot =>
    refine .of_gen ?_
    unfold removeLanguage
    split
    · rfl
    · (repeat' split) <;> rfl
  | assign target args a _ _ =>
    have written : Hears s (assignWrites a s) := by
      refine .of_ports ?_
      rw [assignWrites_eq]
      have moved : (moveAway a s).gen.ports = s.gen.ports := by unfold moveAway; split <;> rfl
      have freed : ∀ old u, (freeOld a old u).gen = u.gen := fun old u => by
        unfold freeOld
        split
        · split <;> rfl
        · rfl
      have target : ∀ u, (writeTarget a u).gen = u.gen := fun u => by unfold writeTarget; simp only; split <;> rfl
      rw [State.setChan_gen_ports, target, freed, moved]
    have left : ∀ u, Hears u (settleLeft a s u) := fun u => by
      unfold settleLeft
      split
      · exact (routeAfter_hears ..).trans (relayUnassigned_hears ..)
      · exact .refl u
    have closed : ∀ u, Hears u (closeLeft a s u) := fun u => by
      unfold closeLeft
      split
      · split
        · exact .refl u
        · exact .of_gen (slotLeaves_gen ..)
      · exact .refl u
    have handed : ∀ u, Hears u (handTarget a s u) := fun u => by
      unfold handTarget
      split
      · exact relayUnassigned_hears ..
      · split
        · exact .refl u
        · split
          · exact (relayFollow_hears ..).trans (uncover_deeds ..).hears
          · exact relayFollow_hears ..
    exact (((written.trans (left _)).trans (routeAfter_hears ..)).trans (closed _)).trans (handed _)
  | override on =>
    unfold setOverride
    split
    · exact .refl s
    · exact Hears.trans (t := { s with gen.override := on }) (.of_ports rfl)
        (Hears.foldl _ (fun t c => routeAfter_hears s c t) _ _)

/-- The changes of lines send FOUND_AFTER_CLOSE alone. -/
theorem returnOf_hears (p : Port) (n : Half) (s : State) : Hears s (returnOf p n s).2.2 := by
  unfold returnOf
  split
  · exact .refl s
  · simp only
    split
    · exact .refl s
    · exact .refl s
    · exact .refl s
    · exact .of_gen (endLine_gen ..)
    · exact .refl s
    · refine .of_gen ?_
      unfold reverseLoss
      simp only
      split <;> rfl
    · exact (setReceiver_hears ..).trans (.notify rfl _)

theorem issueReceiver_gen (t n : Half) (s : State) : (issueReceiver t n s).2.2.gen = s.gen := by
  unfold issueReceiver
  split
  · split
    · rfl
    · dsimp only
      (repeat' split) <;> rfl
  · rfl

theorem loseReceiver_gen (n : Half) (s : State) : (loseReceiver n s).2.2.gen = s.gen := by
  unfold loseReceiver
  split
  · rfl
  · split
    · exact endLine_gen ..
    · rfl

theorem adjustDeposit_gen (t : Half) (m : Bool) (x : Word) (s : State) : (adjustDeposit t m x s).2.2.gen = s.gen := by
  unfold adjustDeposit
  split
  · rfl
  · split
    · rfl
    · dsimp only
      split <;> rfl

theorem commitClose_hears (p : Port) (w : WorkCopy) (s : State) : Hears s (commitClose p w s) := by
  unfold commitClose
  refine Hears.trans (.of_gen ?_) (.notifyExcept _ rfl _)
  unfold removeHire
  simp only
  split <;> rfl

/-! ## The queues (R170, R176, R178) -/

theorem QueuesBounded.congr {k m : PortState} (h : QueuesBounded k) (hu : m.urgent = k.urgent)
    (hr : m.routine = k.routine) (hf : m.framing = .between) : QueuesBounded m :=
  ⟨hu ▸ h.urgent, hr ▸ h.routine, hu ▸ h.urgentClass, hr ▸ h.routineClass, hu ▸ h.restartedFirst, hf⟩

theorem noticed_bounded (n : Notice) (k : PortState) (hn : isRestarted n.body = false) (h : QueuesBounded k) :
    QueuesBounded (noticed n k) := by
  unfold noticed
  split
  · split
    · exact h.congr rfl rfl h.between
    · exact enqueue_bounded n hn h
  · exact h

/-- Every port's queues keep their limits. -/
def AllBounded (s : State) : Prop := ∀ p, QueuesBounded (s.port p)

theorem Hears.bounded {s t : State} (h : Hears s t) (hs : AllBounded s) : AllBounded t :=
  fun p => h.keeps noticed_bounded (hs p)

theorem setPort_bounded {s : State} {p : Port} {k : PortState} (hs : AllBounded s) (hk : QueuesBounded k) :
    AllBounded (s.setPort p k) := fun q => by
  rw [State.setPort_port]
  split
  · exact hk
  · exact hs q

theorem finish_bounded (p : Port) (a : Answer) (d : List Byte) {s : State} (hs : AllBounded s) :
    AllBounded (finish p a d s) := by
  rcases finish_cases p a d s with ⟨_, e⟩ | ⟨_, _, e⟩ <;> rw [e]
  · exact hs
  · exact setPort_bounded hs ((hs p).congr rfl rfl (hs p).between)

theorem endWait_bounded (p : Port) (a : Answer) {s : State} (hs : AllBounded s) : AllBounded (endWait p a s) := by
  rcases endWait_cases p a s with ⟨_, _, _, _, e⟩ | ⟨_, e⟩ <;> rw [e]
  · exact setPort_bounded hs ((hs p).congr rfl rfl (hs p).between)
  · exact hs

theorem nextNotice_bounded {k m : PortState} {n : Notice} (h : QueuesBounded k) (hn : nextNotice k = some (n, m)) :
    QueuesBounded m := by
  unfold nextNotice at hn
  split at hn
  · next x rest hu =>
    cases hn
    have tail : ∀ y ∈ rest, isRestarted y.body = false := fun y hy => h.restartedFirst y (by rw [hu]; exact hy)
    have len := h.urgent
    rw [hu] at len
    exact ⟨Nat.le_of_succ_le len, h.routine, fun y hy => h.urgentClass y (by rw [hu]; exact List.mem_cons_of_mem _ hy),
      h.routineClass, fun y hy => tail y (List.mem_of_mem_tail hy), h.between⟩
  · next x rest hu hr =>
    cases hn
    have len := h.routine
    rw [hr] at len
    exact ⟨h.urgent, Nat.le_of_succ_le len, h.urgentClass,
      fun y hy => h.routineClass y (by rw [hr]; exact List.mem_cons_of_mem _ hy), h.restartedFirst, h.between⟩
  · cases hn

theorem fetchNotice_bounded {p : Port} {s t : State} {d : List Byte} (hs : AllBounded s)
    (h : fetchNotice p s = some (d, t)) : AllBounded t := by
  unfold fetchNotice at h
  obtain ⟨⟨n, m⟩, hn, e⟩ := Option.map_eq_some_iff.mp h
  cases e
  have hm := nextNotice_bounded (hs p) hn
  exact setPort_bounded hs (hm.congr rfl rfl hm.between)

theorem answer_bounded (p : Port) (tag : Byte) (a : Answer) (d : List Byte) {s : State} (hs : AllBounded s) :
    AllBounded (answer p tag a d s) := setPort_bounded hs ((hs p).congr rfl rfl (hs p).between)

theorem PortOp.bounded {s t : State} (h : PortOp s t) (hs : AllBounded s) : AllBounded t := by
  cases h with
  | framing p => exact setPort_bounded hs ((hs p).congr rfl rfl rfl)
  | ended p a => exact endWait_bounded p a hs
  | told n hn => exact (Hears.notify hn s).bounded hs
  | answered p tag a d => exact answer_bounded p tag a d hs
  | subscribed p kinds =>
    unfold subscribeTo
    split
    · exact hs
    · exact setPort_bounded hs ((hs p).congr rfl rfl (hs p).between)
  | fetched p tag =>
    unfold noticeFetchOf
    split
    · next h => exact answer_bounded _ _ _ _ (fetchNotice_bounded hs h)
    · exact answer_bounded _ _ _ _ hs
  | waited p tag timeout _ =>
    unfold noticeWaitOf
    simp only
    split
    · next h => exact answer_bounded _ _ _ _ (fetchNotice_bounded hs h)
    · exact setPort_bounded hs ((hs p).congr rfl rfl (hs p).between)
  | sent p => exact setPort_bounded hs ((hs p).congr rfl rfl (hs p).between)

theorem afterReset_bounded (p : Port) : QueuesBounded (PortState.afterReset p) :=
  ⟨Nat.zero_le _, Nat.zero_le _, nofun, nofun, nofun, rfl⟩

theorem restarted_bounded (p : Port) (time : Nat) (kind : RestartKind) (cleared : Bool) :
    QueuesBounded (PortState.restarted p time kind cleared) :=
  ⟨Nat.le_of_lt (by decide : 1 < 8), Nat.zero_le _, fun n hn => by rw [List.mem_singleton.mp hn]; rfl, nofun, nofun, rfl⟩

theorem quiet_bounded {r : Retained} {s : State} (h : s.gen = General.quiet r) : AllBounded s := fun p => by
  unfold State.port
  rw [h]
  cases p <;> exact afterReset_bounded _

/-- The ports that a general reset leaves. -/
theorem generalReset_port (kind : RestartKind) (cleared : Bool) (s : State) (p : Port) :
    (generalReset kind cleared s).port p = portAtCompletion s kind cleared p := by
  unfold generalReset State.port
  simp only
  generalize fullSet _ = os
  rw [placeAll_routes os]
  cases cleared <;> cases p <;> rfl

theorem portAtCompletion_bounded (s : State) (kind : RestartKind) (cleared : Bool) (p : Port) :
    QueuesBounded (portAtCompletion s kind cleared p) := by
  unfold portAtCompletion
  split <;> exact restarted_bounded ..

theorem ResetOp.bounded {drops : Prop} {s t : State} (h : ResetOp drops s t) (hs : AllBounded s) : AllBounded t := by
  cases h with
  | off => exact quiet_bounded rfl
  | cleared supply mark held => exact quiet_bounded rfl
  | stopped =>
    intro p
    rw [State.stopped_port]
    exact (hs p).congr rfl rfl rfl
  | general kind cleared =>
    intro p
    rw [generalReset_port]
    exact portAtCompletion_bounded ..
  | port p => exact setPort_bounded (fun q => hs q) (restarted_bounded ..)

theorem startJob_bounded {s : State} (hs : AllBounded s) : AllBounded (startJob s) := by
  unfold startJob
  split
  · next j rest _ _ =>
    simp only
    split
    · unfold startQuote
      (repeat' split) <;> first | exact finish_bounded _ _ _ hs | exact hs
    · unfold startClose
      (repeat' split) <;> first | exact finish_bounded _ _ _ hs | exact hs
    · unfold startSnapshot
      split <;> exact finish_bounded _ _ _ hs
    · unfold startSessionClose
      split <;> exact finish_bounded _ _ _ hs
  · exact hs

theorem JobOp.bounded {s t : State} (h : JobOp s t) (hs : AllBounded s) : AllBounded t := by
  cases h with
  | accept p tag code r _ _ =>
    exact setPort_bounded (s := s) (p := p) hs ((hs p).congr rfl rfl (hs p).between)
  | start => exact startJob_bounded hs
  | quoted =>
    unfold completeQuote
    split
    · exact finish_bounded _ _ _ hs
    · exact hs

theorem countWait_queues (k : PortState) :
    (countWait k).urgent = k.urgent ∧ (countWait k).routine = k.routine ∧ (countWait k).framing = k.framing := by
  unfold countWait
  split <;> exact ⟨rfl, rfl, rfl⟩

theorem countBlocks_port (s : State) (p : Port) : (countBlocks s).port p = countWait (s.port p) := by
  unfold State.port
  rw [countBlocks_keeps]
  cases p <;> rfl

theorem Act.bounded {drops : Prop} {s t : State} (h : Act drops s t) (hs : AllBounded s) : AllBounded t := by
  cases h with
  | aside h => exact (Hears.of_ports (congrArg (fun x => x.gen.ports) h)).bounded hs
  | ports h => exact h.bounded hs
  | hall h => exact h.deeds.hears.bounded hs
  | booths h => exact h.hears.bounded hs
  | plan h => exact h.hears.bounded hs
  | books h => exact h.hears.bounded hs
  | jobs h => exact h.bounded hs
  | reset h => exact h.bounded hs
  | directory before => exact (Hears.of_ports (congrArg (fun x => x.gen.ports) (dirAfter_directory before s))).bounded hs
  | refresh => exact (placeAll_routes _ s).hears.bounded hs
  | orderSent =>
    exact (SameRoutes.trans (t := { s with gen.routeSending := none }) rfl (routeBegin_routes _)).hears.bounded hs
  | count =>
    intro p
    rw [countBlocks_port]
    obtain ⟨hu, hr, hf⟩ := countWait_queues (s.port p)
    exact (hs p).congr hu hr (hf.trans (hs p).between)
  | session =>
    rw [openSession_keeps]
    exact hs
  | intake | clock | accounts => exact hs

theorem HireOp.bounded {s t : State} (h : HireOp s t) (hs : AllBounded s) : AllBounded t := by
  cases h with
  | issue t n => exact (Hears.of_gen (issueReceiver_gen t n s)).bounded hs
  | back p n => exact (returnOf_hears p n s).bounded hs
  | lose n => exact (Hears.of_gen (loseReceiver_gen n s)).bounded hs
  | deposit t m x => exact (Hears.of_gen (adjustDeposit_gen t m x s)).bounded hs
  | close =>
    rcases completeClose_cases s with e | ⟨p, a, w, _, ⟨x, d, e⟩ | ⟨_, d, e⟩⟩ <;> rw [e]
    · exact hs
    · exact finish_bounded _ _ _ hs
    · exact finish_bounded _ _ _ ((commitClose_hears p w { s with gen.flight := none }).bounded hs)

/-- Settles O54: notices join the queues within their limits, and a reset alone queues RESTARTED. -/
theorem queuesAreKept : Obligations.QueuesAreKept := fun _ _ h hs =>
  step_keeps (P := AllBounded) h (fun _ hs => hs) (fun _ _ _ act => act.bounded) (fun _ _ change => change.bounded) hs

end Sys2Proof.Machine
end

section
/-! SUPPORT. Accounting jobs and the requests in progress: the settlement of O55. -/

namespace Sys2Proof.Machine
open Sys2Proof

/-! ## A port and its job -/

/-- The port's request in progress is that of an accounting job. -/
def Working (k : PortState) : Prop := ∃ r, k.inProgress = some r ∧ isJob r.code = true

/-- A request in progress waits exactly where it is not that of a job. -/
def WaitsFit (k : PortState) : Prop := ∀ r, k.inProgress = some r → (isJob r.code = true ↔ r.wait = none)

/-- A change of a port that leaves its job, or the lack of one, as it was. -/
structure SameJob (k m : PortState) : Prop where
  keeps : WaitsFit k → WaitsFit m ∧ (Working m ↔ Working k)

theorem SameJob.of_inProgress {k m : PortState} (h : m.inProgress = k.inProgress) : SameJob k m := by
  constructor
  unfold WaitsFit Working
  rw [h]
  exact fun fit => ⟨fit, Iff.rfl⟩

theorem SameJob.refl (k : PortState) : SameJob k k := .of_inProgress rfl

theorem SameJob.trans {k m n : PortState} (h : SameJob k m) (g : SameJob m n) : SameJob k n := ⟨fun fit => by
  obtain ⟨fm, hm⟩ := h.keeps fit
  obtain ⟨fn, hn⟩ := g.keeps fm
  exact ⟨fn, hn.trans hm⟩⟩

theorem WaitsFit.of_none {k : PortState} (h : k.inProgress = none) : WaitsFit k := fun r hr => by rw [h] at hr; cases hr
theorem not_working_of_none {k : PortState} (h : k.inProgress = none) : ¬ Working k := fun ⟨r, hr, _⟩ => by
  rw [h] at hr; cases hr

/-- The end of a wait ends no job. -/
theorem SameJob.of_wait {k m : PortState} {r : InProgress} {w : Wait} (hr : k.inProgress = some r) (hw : r.wait = some w)
    (hm : m.inProgress = none) : SameJob k m := ⟨fun fit => by
  refine ⟨.of_none hm, iff_of_false (not_working_of_none hm) ?_⟩
  rintro ⟨q, hq, job⟩
  rw [hr] at hq
  cases hq
  rw [(fit r hr).mp job] at hw
  cases hw⟩

theorem noticed_sameJob (n : Notice) (k : PortState) : SameJob k (noticed n k) := by
  have queued : (enqueue n k).inProgress = k.inProgress := by
    unfold enqueue
    (repeat' split) <;> rfl
  unfold noticed
  split
  · split
    · next hr => exact .of_wait hr rfl rfl
    · exact .of_inProgress queued
  · exact .refl k

theorem Hears.sameJob {s t : State} (h : Hears s t) (p : Port) : SameJob (s.port p) (t.port p) :=
  h.keeps (J := SameJob (s.port p)) (fun n k _ g => g.trans (noticed_sameJob n k)) (.refl _)

theorem countWait_sameJob (k : PortState) : SameJob k (countWait k) := by
  unfold countWait
  split
  · next c t w hr =>
    refine ⟨fun fit => ?_⟩
    have code : isJob c = true ↔ some w = none := fit _ hr
    refine ⟨fun q hq => ?_, ?_⟩
    · cases hq
      exact iff_of_false (by rw [code]; nofun) nofun
    · unfold Working
      rw [hr]
      simp
  · exact .refl k

theorem setPort_sameJob {s : State} {p : Port} {k : PortState} {q : Port} (h : SameJob (s.port p) k) :
    SameJob (s.port q) ((s.setPort p k).port q) := by
  rw [State.setPort_port]
  split
  · next e => exact e ▸ h
  · exact .refl _

theorem endWait_sameJob (p : Port) (a : Answer) (s : State) (q : Port) :
    SameJob (s.port q) ((endWait p a s).port q) := by
  rcases endWait_cases p a s with ⟨_, _, _, hr, e⟩ | ⟨_, e⟩ <;> rw [e]
  · exact setPort_sameJob (.of_wait hr rfl rfl)
  · exact .refl _

theorem answer_sameJob (p : Port) (tag : Byte) (a : Answer) (d : List Byte) (s : State) (q : Port) :
    SameJob (s.port q) ((answer p tag a d s).port q) := setPort_sameJob (.of_inProgress rfl)

theorem nextNotice_inProgress {k m : PortState} {n : Notice} (h : nextNotice k = some (n, m)) :
    m.inProgress = k.inProgress := by
  unfold nextNotice at h
  split at h <;> cases h <;> rfl

theorem fetchNotice_sameJob {p : Port} {s t : State} {d : List Byte} (h : fetchNotice p s = some (d, t)) (q : Port) :
    SameJob (s.port q) (t.port q) := by
  unfold fetchNotice at h
  obtain ⟨⟨n, m⟩, hn, e⟩ := Option.map_eq_some_iff.mp h
  cases e
  have same := nextNotice_inProgress hn
  exact setPort_sameJob (.of_inProgress same)

theorem PortOp.sameJob {s t : State} (h : PortOp s t) (q : Port) : SameJob (s.port q) (t.port q) := by
  cases h with
  | framing p => exact setPort_sameJob (.of_inProgress rfl)
  | ended p a => exact endWait_sameJob p a s q
  | told n hn => exact (Hears.notify hn s).sameJob q
  | answered p tag a d => exact answer_sameJob p tag a d s q
  | subscribed p kinds =>
    unfold subscribeTo
    split
    · exact .refl _
    · exact setPort_sameJob (.of_inProgress rfl)
  | fetched p tag =>
    unfold noticeFetchOf
    split
    · next h => exact (fetchNotice_sameJob h q).trans (answer_sameJob ..)
    · exact answer_sameJob ..
  | waited p tag timeout free =>
    unfold noticeWaitOf
    simp only
    split
    · next h => exact (fetchNotice_sameJob h q).trans (answer_sameJob ..)
    · refine setPort_sameJob ⟨fun _ => ⟨fun r hr => ?_, ?_⟩⟩
      · cases hr
        exact iff_of_false nofun nofun
      · refine iff_of_false ?_ (not_working_of_none free)
        rintro ⟨r, hr, job⟩
        cases hr
        cases job
  | sent p => exact setPort_sameJob (.of_inProgress rfl)

/-! ## The list of jobs -/

theorem JobsAgree.working {s : State} (h : JobsAgree s) (p : Port) : p ∈ jobPorts s ↔ Working (s.port p) :=
  h.inProgress p

/-- Where the jobs stand and no port gains or loses its job, they agree as before. -/
theorem JobsAgree.of_same {s t : State} (h : JobsAgree s) (hj : t.gen.jobs = s.gen.jobs)
    (hf : t.gen.flight = s.gen.flight) (hp : ∀ p, SameJob (s.port p) (t.port p)) : JobsAgree t := by
  have ports : jobPorts t = jobPorts s := by unfold jobPorts; rw [hj, hf]
  refine ⟨ports ▸ h.once, fun p => ?_, fun p => ((hp p).keeps (h.waits p)).1, fun f e => h.flight f (hf ▸ e)⟩
  rw [ports]
  exact (h.working p).trans ((hp p).keeps (h.waits p)).2.symm

/-- With no job and no request in progress, they agree. -/
theorem JobsAgree.of_none {s : State} (hj : s.gen.jobs = []) (hf : s.gen.flight = none)
    (hp : ∀ p, (s.port p).inProgress = none) : JobsAgree s := by
  have ports : jobPorts s = [] := by unfold jobPorts; rw [hj, hf]; rfl
  refine ⟨by rw [ports]; exact List.nodup_nil, fun p => ?_, fun p => WaitsFit.of_none (hp p), fun f e => by rw [hf] at e; cases e⟩
  rw [ports]
  exact iff_of_false nofun (not_working_of_none (hp p))

/-- The job of `p`, the first of the list, is done: the port's request ends with it. -/
theorem JobsAgree.done {s t : State} {p : Port} (h : JobsAgree s) (hs : jobPorts s = p :: jobPorts t)
    (hf : ∀ f, t.gen.flight = some f → isStatementJob f.request = false) (hp : (t.port p).inProgress = none)
    (hq : ∀ q, q ≠ p → SameJob (s.port q) (t.port q)) : JobsAgree t := by
  have once := h.once
  rw [hs, List.nodup_cons] at once
  refine ⟨once.2, fun q => ?_, fun q => ?_, hf⟩
  · by_cases e : q = p
    · subst e
      exact iff_of_false once.1 (not_working_of_none hp)
    · have mem : q ∈ jobPorts t ↔ q ∈ jobPorts s := by rw [hs, List.mem_cons, or_iff_right e]
      exact (mem.trans (h.working q)).trans ((hq q e).keeps (h.waits q)).2.symm
  · by_cases e : q = p
    · exact WaitsFit.of_none (e ▸ hp)
    · exact ((hq q e).keeps (h.waits q)).1

theorem finish_done (p : Port) (a : Answer) (d : List Byte) (s : State) :
    ((finish p a d s).port p).inProgress = none := by
  rcases finish_cases p a d s with ⟨h, e⟩ | ⟨_, _, e⟩ <;> rw [e]
  · exact h
  · rw [State.setPort_same]

/-- The answer to a job that is first of the list ends it. -/
theorem JobsAgree.finish {s t : State} {p : Port} (h : JobsAgree s) (hs : jobPorts s = p :: jobPorts t)
    (hf : ∀ f, t.gen.flight = some f → isStatementJob f.request = false) (ht : Hears s t) (a : Answer) (d : List Byte) :
    JobsAgree (finish p a d t) := by
  have same := finish_ports p a d t
  refine h.done (p := p) ?_ (by rw [same.flight]; exact hf) (finish_done p a d t) (fun q e => ?_)
  · rw [hs]
    unfold jobPorts
    rw [same.jobs, same.flight]
  · rw [finish_other p q a d t e.symm]
    exact ht.sameJob q

/-! ## The acts -/

/-- The oldest job starts: it is answered at once, or goes in flight as a QUOTE or a CLOSE. -/
theorem startJob_cases (s : State) : startJob s = s ∨
    ∃ j rest, s.gen.flight = none ∧ s.gen.jobs = j :: rest ∧
      ((∃ a d t, startJob s = finish j.port a d t ∧ t.gen.ports = s.gen.ports ∧ t.gen.jobs = rest ∧ t.gen.flight = none) ∨
        (∃ w, isStatementJob j.request = false ∧
          startJob s = { s with gen.jobs := rest, gen.flight := some ⟨j.port, j.request, w⟩ })) := by
  unfold startJob
  split
  · next j rest hf hj =>
    refine .inr ⟨j, rest, hf, hj, ?_⟩
    have ends : ∀ (a : Answer) (d : List Byte) (t : State), t.gen.ports = s.gen.ports → t.gen.jobs = rest →
        t.gen.flight = none → ∃ a' d' t', finish j.port a d t = finish j.port a' d' t' ∧ t'.gen.ports = s.gen.ports ∧
          t'.gen.jobs = rest ∧ t'.gen.flight = none := fun a d t h1 h2 h3 => ⟨a, d, t, rfl, h1, h2, h3⟩
    simp only
    split
    · next ticket first hr =>
      unfold startQuote
      (repeat' split) <;> first
        | exact .inl (ends _ _ { s with gen.jobs := rest } rfl rfl hf)
        | exact .inr ⟨_, by rw [hr]; rfl, by rw [hr]⟩
    · next args hr =>
      unfold startClose
      (repeat' split) <;> first
        | exact .inl (ends _ _ { s with gen.jobs := rest } rfl rfl hf)
        | exact .inr ⟨_, by rw [hr]; rfl, by rw [hr]⟩
    · unfold startSnapshot
      split
      · exact .inl (ends _ _ _ rfl rfl hf)
      · exact .inl (ends _ _ { s with gen.jobs := rest } rfl rfl hf)
    · unfold startSessionClose
      split
      · exact .inl (ends _ _ _ rfl rfl hf)
      · exact .inl (ends _ _ { s with gen.jobs := rest } rfl rfl hf)
  · exact .inl rfl

theorem startJob_agrees {s : State} (h : JobsAgree s) : JobsAgree (startJob s) := by
  rcases startJob_cases s with e | ⟨j, rest, hf, hj, ⟨a, d, t, e, hp, hr, hn⟩ | ⟨w, hs, e⟩⟩ <;> rw [e]
  · exact h
  · refine h.finish (t := t) ?_ (fun f hf' => by rw [hn] at hf'; cases hf') (.of_ports hp) a d
    unfold jobPorts
    rw [hf, hj, hr, hn]
    rfl
  · have ports : jobPorts s = jobPorts { s with gen.jobs := rest, gen.flight := some ⟨j.port, j.request, w⟩ } := by
      unfold jobPorts
      rw [hf, hj]
      rfl
    refine ⟨ports ▸ h.once, fun p => ?_, h.waits, fun f hf' => by cases hf'; exact hs⟩
    rw [← ports]
    exact h.inProgress p

theorem acceptJob_agrees {s : State} {p : Port} {code : ReqCode} (tag : Byte) (r : JobRequest) (hc : isJob code = true)
    (free : (s.port p).inProgress = none) (h : JobsAgree s) : JobsAgree (acceptJob p tag code r s) := by
  have new : p ∉ jobPorts s := by rw [h.working p]; exact not_working_of_none free
  have ports : jobPorts (acceptJob p tag code r s) = jobPorts s ++ [p] := by
    unfold jobPorts acceptJob
    simp
  have port : ∀ q, (acceptJob p tag code r s).port q =
      if p = q then { s.port p with inProgress := some ⟨code, tag, none⟩ } else s.port q :=
    fun q => State.setPort_port s p q _
  refine ⟨?_, fun q => ?_, fun q => ?_, h.flight⟩
  · rw [ports]
    exact h.once.append (List.nodup_singleton p) (by simpa using new)
  · rw [ports, port]
    by_cases e : p = q
    · subst e
      simp [hc]
    · rw [if_neg e, List.mem_append, List.mem_singleton, or_iff_left (Ne.symm e)]
      exact h.inProgress q
  · rw [port]
    split
    · rintro r' ⟨⟩
      exact iff_of_true hc rfl
    · exact h.waits q

theorem completeQuote_agrees {s : State} (h : JobsAgree s) : JobsAgree (completeQuote s) := by
  unfold completeQuote
  split
  · next p _ first w hf =>
    exact h.finish (t := { s with gen.flight := none }) (by unfold jobPorts; rw [hf]; rfl) nofun (.of_ports rfl) _ _
  · exact h

theorem completeClose_agrees {s : State} (h : JobsAgree s) : JobsAgree (completeClose s) := by
  rcases completeClose_cases s with e | ⟨p, a, w, hf, e⟩
  · rw [e]; exact h
  · have flown : jobPorts s = p :: jobPorts { s with gen.flight := none } := by unfold jobPorts; rw [hf]; rfl
    rcases e with ⟨x, d, e⟩ | ⟨_, d, e⟩ <;> rw [e]
    · exact h.finish (t := { s with gen.flight := none }) flown nofun (.of_ports rfl) _ _
    · have committed : jobPorts (commitClose p w { s with gen.flight := none }) = jobPorts { s with gen.flight := none } ∧
          (commitClose p w { s with gen.flight := none }).gen.flight = none := by
        unfold jobPorts commitClose
        rw [(notifyExcept_ports _ _ _).jobs, (notifyExcept_ports _ _ _).flight]
        unfold removeHire
        simp only
        split <;> exact ⟨rfl, rfl⟩
      refine h.finish (t := commitClose p w { s with gen.flight := none }) (committed.1 ▸ flown)
        (fun f hf' => by rw [committed.2] at hf'; cases hf') ?_ _ _
      exact Hears.trans (t := { s with gen.flight := none }) (.of_ports rfl) (commitClose_hears p w _)

theorem abandonJobs_ports (p : Port) (s : State) : jobPorts (abandonJobs p s) = (jobPorts s).filter (fun q => q != p) := by
  unfold jobPorts abandonJobs
  rw [List.filter_append, List.filter_map, List.filter_map]
  congr 2
  cases s.gen.flight with
  | none => rfl
  | some f => by_cases e : f.port = p <;> simp [e]

theorem portReset_agrees (p : Port) {s : State} (h : JobsAgree s) : JobsAgree (portReset p s) := by
  have ports : jobPorts (portReset p s) = (jobPorts s).filter (fun q => q != p) := abandonJobs_ports p s
  have port : ∀ q, (portReset p s).port q = if p = q then PortState.restarted p s.clock .port false else s.port q :=
    fun q => State.setPort_port (abandonJobs p s) p q _
  refine ⟨ports ▸ h.once.filter _, fun q => ?_, fun q => ?_, fun f hf => ?_⟩
  · rw [ports, port, List.mem_filter]
    by_cases e : p = q
    · subst e
      simp [PortState.restarted, PortState.afterReset]
    · rw [if_neg e, and_iff_left (by simpa using Ne.symm e)]
      exact h.inProgress q
  · rw [port]
    split
    · exact WaitsFit.of_none rfl
    · exact h.waits q
  · exact h.flight f (Option.eq_some_of_filter_eq_some hf)

theorem generalReset_jobs (kind : RestartKind) (cleared : Bool) (s : State) :
    (generalReset kind cleared s).gen.jobs = [] ∧ (generalReset kind cleared s).gen.flight = none := by
  unfold generalReset
  simp only
  generalize fullSet _ = os
  rw [placeAll_routes os]
  cases cleared <;> exact ⟨rfl, rfl⟩

theorem ResetOp.agrees {drops : Prop} {s t : State} (op : ResetOp drops s t) (h : JobsAgree s) : JobsAgree t := by
  cases op with
  | off => exact .of_none rfl rfl fun p => by cases p <;> rfl
  | cleared supply mark held => exact .of_none rfl rfl fun p => by cases p <;> rfl
  | stopped => exact .of_none rfl rfl fun p => by rw [State.stopped_port]; rfl
  | general kind cleared =>
    obtain ⟨hj, hf⟩ := generalReset_jobs kind cleared s
    refine .of_none hj hf fun p => ?_
    rw [generalReset_port]
    unfold portAtCompletion
    split <;> rfl
  | port p => exact portReset_agrees p h

theorem Act.jobsAgree {drops : Prop} {s t : State} (act : Act drops s t) (h : JobsAgree s) : JobsAgree t := by
  cases act with
  | aside a =>
    have ports : t.gen.ports = s.gen.ports := congrArg (fun x => x.gen.ports) a
    exact h.of_same (congrArg (fun x => x.gen.jobs) a) (congrArg (fun x => x.gen.flight) a)
      (Hears.of_ports ports).sameJob
  | ports op => exact h.of_same op.ports.jobs op.ports.flight op.sameJob
  | hall op => exact h.of_same op.deeds.moves.jobs op.deeds.moves.flight op.deeds.hears.sameJob
  | booths op =>
    exact h.of_same (congrArg (fun x => x.gen.jobs) op.sameButBooths) (congrArg (fun x => x.gen.flight) op.sameButBooths)
      op.hears.sameJob
  | plan op =>
    exact h.of_same (congrArg (fun x => x.gen.jobs) op.sameButPlan) (congrArg (fun x => x.gen.flight) op.sameButPlan)
      op.hears.sameJob
  | books op =>
    exact h.of_same (congrArg (fun x => x.gen.jobs) op.sameButBooks) (congrArg (fun x => x.gen.flight) op.sameButBooks)
      op.hears.sameJob
  | jobs op =>
    cases op with
    | accept p tag code r hc free => exact acceptJob_agrees tag r hc free h
    | start => exact startJob_agrees h
    | quoted => exact completeQuote_agrees h
  | reset op => exact op.agrees h
  | directory before =>
    have same := dirAfter_directory before s
    exact h.of_same (congrArg (fun x => x.gen.jobs) same) (congrArg (fun x => x.gen.flight) same)
      (Hears.of_ports (congrArg (fun x => x.gen.ports) same)).sameJob
  | refresh =>
    have same := placeAll_routes (fullSet s) s
    exact h.of_same (congrArg (fun x => x.gen.jobs) same) (congrArg (fun x => x.gen.flight) same) same.hears.sameJob
  | orderSent =>
    have same : SameRoutes s (routeBegin { s with gen.routeSending := none }) :=
      SameRoutes.trans (t := { s with gen.routeSending := none }) rfl (routeBegin_routes _)
    exact h.of_same (congrArg (fun x => x.gen.jobs) same) (congrArg (fun x => x.gen.flight) same) same.hears.sameJob
  | count =>
    refine h.of_same (by rw [countBlocks_keeps]) (by rw [countBlocks_keeps]) fun p => ?_
    rw [countBlocks_port]
    exact countWait_sameJob _
  | session =>
    have same := openSession_keeps s
    exact h.of_same (congrArg (fun x => x.gen.jobs) same) (congrArg (fun x => x.gen.flight) same)
      (Hears.of_ports (congrArg (fun x => x.gen.ports) same)).sameJob
  | intake | clock | accounts => exact h.of_same rfl rfl fun p => .refl _

theorem HireOp.jobsAgree {s t : State} (op : HireOp s t) (h : JobsAgree s) : JobsAgree t := by
  have written : ∀ {u : State}, u.gen = s.gen → JobsAgree u := fun {u} e =>
    h.of_same (by rw [e]) (by rw [e]) (Hears.of_gen e).sameJob
  cases op with
  | issue t n => exact written (issueReceiver_gen t n s)
  | back p n =>
    have same := (returnOf_books p n s).gen
    exact h.of_same (by rw [same]) (by rw [same]) (returnOf_hears p n s).sameJob
  | lose n => exact written (loseReceiver_gen n s)
  | deposit t m x => exact written (adjustDeposit_gen t m x s)
  | close => exact completeClose_agrees h

/-- Settles O55: a job begins with its request's acceptance, and whatever takes it from the list ends the request. -/
theorem jobsAreKept : Obligations.JobsAreKept := fun _ _ h hs =>
  step_keeps (P := JobsAgree) h (fun _ k => ⟨k.once, k.inProgress, k.waits, k.flight⟩) (fun _ _ _ act => act.jobsAgree)
    (fun _ _ change => change.jobsAgree) hs

end Sys2Proof.Machine
end

section
/-! SUPPORT. The route line: what each act leaves on it, against what holds before and after it: the settlement of O51 and O52. -/

namespace Sys2Proof.Machine
open Sys2Proof

/-! ## What the line says -/

/-- The line of `s` says what `v` holds: every unsent order does, and the last order of each subject. -/
structure Told (v : RouteOrder → Prop) (s : State) : Prop where
  unsent : ∀ o ∈ s.gen.routeList, v o
  sending : ∀ o, s.gen.routeSending = some o → v o ∨ ∃ x ∈ s.gen.routeList, sameSubject x o = true

theorem told_current (s : State) : Told (Current s) s ↔ MatrixAgrees s :=
  ⟨fun h => ⟨h.unsent, h.sending⟩, fun h => ⟨h.unsent, h.sending⟩⟩

/-- From `s`, where `v` holds, to `t`, where `v'` does: the line still says what holds, and whatever has come to hold stands on
it. -/
structure Ordered (v v' : RouteOrder → Prop) (s t : State) : Prop where
  listed : RouteListed s → RouteListed t
  told : RouteListed s → Told v s → Told v' t
  follows : ∀ o, v' o → (v o ∧ (o ∈ routeOrders s → o ∈ routeOrders t)) ∨ o ∈ routeOrders t

theorem Ordered.trans {v v' v'' : RouteOrder → Prop} {s t u : State} (h : Ordered v v' s t) (k : Ordered v' v'' t u) :
    Ordered v v'' s u := by
  refine ⟨k.listed ∘ h.listed, fun listed told => k.told (h.listed listed) (h.told listed told), fun o ho => ?_⟩
  rcases k.follows o ho with ⟨hv, kept⟩ | placed
  · rcases h.follows o hv with ⟨hs, before⟩ | placed
    · exact .inl ⟨hs, kept ∘ before⟩
    · exact .inr (kept placed)
  · exact .inr placed

theorem Ordered.of_line {v v' : RouteOrder → Prop} {s t : State} (hs : t.gen.routeSending = s.gen.routeSending)
    (hl : t.gen.routeList = s.gen.routeList) (hv : ∀ o, v' o ↔ v o) : Ordered v v' s t := by
  refine ⟨fun h => ⟨hl ▸ h.once, fun e => hl ▸ h.busy (hs ▸ e)⟩, fun _ h => ⟨fun o ho => ?_, fun o ho => ?_⟩, fun o ho => ?_⟩
  · rw [hl] at ho
    exact (hv o).mpr (h.unsent o ho)
  · rw [hs] at ho
    rw [hl]
    exact (h.sending o ho).imp_left (hv o).mpr
  · unfold routeOrders
    rw [hs, hl]
    exact .inl ⟨(hv o).mp ho, id⟩

/-- `v` with the value that `o` names for its subject. -/
def believe (v : RouteOrder → Prop) (o x : RouteOrder) : Prop := if sameSubject x o = true then x = o else v x

theorem sameSubject_refl (o : RouteOrder) : sameSubject o o = true := by cases o <;> simp [sameSubject]

theorem believe_self (v : RouteOrder → Prop) (o : RouteOrder) : believe v o o := by simp [believe, sameSubject_refl]

theorem routeBegin_orders (s : State) : routeOrders (routeBegin s) = routeOrders s := by
  rcases routeBegin_cases s with ⟨hs, o, rest, hl, e⟩ | ⟨_, e⟩ <;> rw [e]
  unfold routeOrders
  rw [hs, hl]
  rfl

theorem routeBegin_told {v : RouteOrder → Prop} {s : State} (h : Told v s) : Told v (routeBegin s) := by
  rcases routeBegin_cases s with ⟨_, o, rest, hl, e⟩ | ⟨_, e⟩ <;> rw [e]
  · refine ⟨fun x hx => h.unsent x (hl ▸ List.mem_cons_of_mem _ hx), fun x hx => .inl (h.unsent x ?_)⟩
    cases hx
    exact hl ▸ List.mem_cons_self
  · exact h

/-- What was unsent and has another subject than the order placed stays. -/
theorem placeUnsent_keeps {o x : RouteOrder} {l : List RouteOrder} (hx : x ∈ l) (h : sameSubject x o = false) :
    x ∈ placeUnsent o l := by
  induction l with
  | nil => cases hx
  | cons y l ih =>
    unfold placeUnsent
    split
    · next e =>
      rcases List.mem_cons.mp hx with rfl | hx
      · rw [h] at e; cases e
      · exact List.mem_cons_of_mem _ hx
    · rcases List.mem_cons.mp hx with rfl | hx
      · exact List.mem_cons_self
      · exact List.mem_cons_of_mem _ (ih hx)

/-- Every other order that is unsent after the placing has another subject. -/
theorem placeUnsent_other {o x : RouteOrder} {l : List RouteOrder}
    (once : l.Pairwise (fun a b => sameSubject a b = false)) (hx : x ∈ placeUnsent o l) (ne : x ≠ o) :
    x ∈ l ∧ sameSubject x o = false := by
  refine ⟨(mem_placeUnsent o x l hx).resolve_left ne, ?_⟩
  induction l with
  | nil => exact absurd (List.mem_singleton.mp hx) ne
  | cons y l ih =>
    obtain ⟨first, rest⟩ := List.pairwise_cons.mp once
    unfold placeUnsent at hx
    split at hx
    · next e =>
      have inl := (List.mem_cons.mp hx).resolve_left ne
      rw [sameSubject_symm, ← sameSubject_trans e]
      exact first x inl
    · next e =>
      rcases List.mem_cons.mp hx with rfl | hx
      · simpa using e
      · exact ih rest hx

/-- Placing an order makes the line say it. -/
theorem placeOrder_ordered (v : RouteOrder → Prop) (o : RouteOrder) (s : State) :
    Ordered v (believe v o) s (placeOrder o s) := by
  refine ⟨placeOrder_listed o, fun listed told => routeBegin_told ⟨fun x hx => ?_, fun x hx => ?_⟩, fun x hx => ?_⟩
  · by_cases e : x = o
    · exact e ▸ believe_self v o
    · obtain ⟨inl, other⟩ := placeUnsent_other listed.once hx e
      simpa [believe, other] using told.unsent x inl
  · by_cases same : sameSubject x o = true
    · exact .inr ⟨o, placeUnsent_mem o _, sameSubject_symm o x ▸ same⟩
    · refine (told.sending x hx).imp (fun hv => by simpa [believe, same] using hv) fun ⟨y, hy, hyx⟩ => ⟨y, ?_, hyx⟩
      exact placeUnsent_keeps hy (by rw [sameSubject_trans hyx]; simpa using same)
  · have placed : o ∈ routeOrders (placeOrder o s) := by
      unfold placeOrder
      rw [routeBegin_orders]
      exact List.mem_append_right _ (placeUnsent_mem o _)
    by_cases same : sameSubject x o = true
    · have e : x = o := by simpa [believe, same] using hx
      exact .inr (e ▸ placed)
    · refine .inl ⟨by simpa [believe, same] using hx, fun hs => ?_⟩
      unfold placeOrder
      rw [routeBegin_orders]
      exact (List.mem_append.mp hs).elim (List.mem_append_left _)
        fun hl => List.mem_append_right _ (placeUnsent_keeps hl (by simpa using same))

/-! ## What holds, with some routes still to be ordered -/

/-- What holds in `s`, but for the channels `cs`, whose routes are still believed to be those of `before`. -/
def Behind (cs : List Chan) (before s : State) : RouteOrder → Prop
  | .route c y => y = effectiveRoute (if c ∈ cs then before else s) c
  | .listen b y => y = (s.booth b).effective
  | .mute b m => m = (s.booth b).muted

theorem behind_nil (before s : State) : Behind [] before s = Current s := by
  funext o
  cases o <;> simp [Behind, Current]

/-- Where routes, sources and mute states stand, so does what holds. -/
theorem behind_congr {cs : List Chan} {before s t : State} (hr : ∀ c, c ∉ cs → effectiveRoute t c = effectiveRoute s c)
    (hb : ∀ b, (t.booth b).effective = (s.booth b).effective ∧ (t.booth b).muted = (s.booth b).muted) (o : RouteOrder) :
    Behind cs before t o ↔ Behind cs before s o := by
  cases o with
  | route c y =>
    by_cases h : c ∈ cs
    · simp [Behind, h]
    · simp [Behind, h, hr c h]
  | listen b y => simp [Behind, (hb b).1]
  | mute b y => simp [Behind, (hb b).2]

/-- From `s` to `t`, with the channels `cs` still to be ordered, the line keeps up with what holds. -/
def KeepsUp (cs : List Chan) (before s t : State) : Prop := Ordered (Behind cs before s) (Behind cs before t) s t

section
variable {cs : List Chan} {before s t u : State}

theorem KeepsUp.refl : KeepsUp cs before s s := .of_line rfl rfl fun _ => Iff.rfl
theorem KeepsUp.trans (h : KeepsUp cs before s t) (k : KeepsUp cs before t u) : KeepsUp cs before s u := Ordered.trans h k

theorem KeepsUp.of_same (hs : t.gen.routeSending = s.gen.routeSending) (hl : t.gen.routeList = s.gen.routeList)
    (hr : ∀ c, effectiveRoute t c = effectiveRoute s c)
    (hb : ∀ b, (t.booth b).effective = (s.booth b).effective ∧ (t.booth b).muted = (s.booth b).muted) :
    KeepsUp cs before s t := .of_line hs hl (behind_congr (fun c _ => hr c) hb)

theorem effectiveRoute_congr (hc : t.gen.chans = s.gen.chans) (hp : t.ret.plan = s.ret.plan)
    (ho : t.gen.override = s.gen.override) (c : Chan) : effectiveRoute t c = effectiveRoute s c := by
  unfold effectiveRoute State.settings State.chan
  rw [hc, hp, ho]

theorem KeepsUp.of_fields (hs : t.gen.routeSending = s.gen.routeSending) (hl : t.gen.routeList = s.gen.routeList)
    (hc : t.gen.chans = s.gen.chans) (hp : t.ret.plan = s.ret.plan) (ho : t.gen.override = s.gen.override)
    (hb : t.gen.booths = s.gen.booths) : KeepsUp cs before s t :=
  .of_same hs hl (effectiveRoute_congr hc hp ho) fun b => by unfold State.booth; rw [hb]; exact ⟨rfl, rfl⟩

theorem KeepsUp.of_ports (h : SamePorts s t) : KeepsUp cs before s t := by
  rw [h]; exact .of_fields rfl rfl rfl rfl rfl rfl

theorem KeepsUp.notify (n : NoticeBody) (s : State) : KeepsUp cs before s (notify n s) := .of_ports (notify_ports n s)

theorem KeepsUp.foldl {α : Type} (f : State → α → State) (hf : ∀ t a, KeepsUp cs before t (f t a)) (l : List α) (t : State) :
    KeepsUp cs before t (l.foldl f t) := by
  induction l generalizing t with
  | nil => exact .refl
  | cons a l ih => exact (hf t a).trans (ih _)

/-- A write of one booth, with the order of its subject where the value named has changed. -/
theorem keepsUp_order {o : RouteOrder} (hs : t.gen.routeSending = s.gen.routeSending)
    (hl : t.gen.routeList = s.gen.routeList) (ho : ∀ x, Behind cs before t x ↔ believe (Behind cs before s) o x) :
    KeepsUp cs before s (placeOrder o t) := by
  have line : Ordered (Behind cs before s) (Behind cs before s) s t := .of_line hs hl fun _ => Iff.rfl
  have same : SameRoutes t (placeOrder o t) := placeOrder_routes o t
  refine line.trans ((placeOrder_ordered _ o t).trans (.of_line rfl rfl fun x => Iff.trans ?_ (ho x)))
  refine behind_congr (fun c _ => ?_) (fun b => ?_) x <;> rw [same] <;> exact (by first | rfl | exact ⟨rfl, rfl⟩)

theorem behind_setBooth_route (b : Booth) (l : BoothLive) (c : Chan) (y : Source) (s : State) :
    Behind cs before (s.setBooth b l) (.route c y) ↔ Behind cs before s (.route c y) := by
  by_cases h : c ∈ cs
  · simp [Behind, h]
  · simp only [Behind, h, if_false]
    exact Iff.rfl

theorem setListen_keepsUp (b : Booth) (x y : Listen) (hold : Bool) (s : State) :
    KeepsUp cs before s (setListen b x y hold s) := by
  unfold setListen
  simp only
  split
  · next e =>
    refine .of_same rfl rfl (fun _ => rfl) fun d => ?_
    by_cases h : b = d
    · subst h; simp [e]
    · simp [State.setBooth_booth, h]
  · refine keepsUp_order rfl rfl fun o => ?_
    cases o with
    | route c z => simpa [believe, sameSubject] using behind_setBooth_route ..
    | listen d z =>
      by_cases h : d = b
      · subst h; simp [Behind, believe, sameSubject]
      · simp [Behind, believe, sameSubject, State.setBooth_booth, h, Ne.symm h]
    | mute d m =>
      by_cases h : b = d
      · subst h; simp [Behind, believe, sameSubject]
      · simp [Behind, believe, sameSubject, State.setBooth_booth, h]

theorem syncMute_keepsUp (b : Booth) (s : State) : KeepsUp cs before s (syncMute b s) := by
  unfold syncMute
  simp only
  split
  · exact .refl
  · refine keepsUp_order rfl rfl fun o => ?_
    cases o with
    | route c z => simpa [believe, sameSubject] using behind_setBooth_route ..
    | mute d z =>
      by_cases h : d = b
      · subst h; simp [Behind, believe, sameSubject]
      · simp [Behind, believe, sameSubject, State.setBooth_booth, h, Ne.symm h]
    | listen d m =>
      by_cases h : b = d
      · subst h; simp [Behind, believe, sameSubject]
      · simp [Behind, believe, sameSubject, State.setBooth_booth, h]

theorem chooseListen_keepsUp (b : Booth) (x : Listen) (s : State) : KeepsUp cs before s (chooseListen b x s) := by
  unfold chooseListen
  split <;> exact setListen_keepsUp ..

theorem followOne_keepsUp (r : Chan) (s : State) (b : Booth) : KeepsUp cs before s (followOne r s b) := by
  unfold followOne
  simp only
  split
  · split
    · exact (chooseListen_keepsUp ..).trans (.notify ..)
    · exact chooseListen_keepsUp ..
  · exact .refl

theorem relayFollow_keepsUp (r : Chan) (s : State) : KeepsUp cs before s (relayFollow r s) :=
  .foldl _ (fun t b => followOne_keepsUp r t b) _ s

theorem relayUnassigned_keepsUp (r : Chan) (s : State) : KeepsUp cs before s (relayUnassigned r s) :=
  .foldl _ (fun t b => by split; exacts [chooseListen_keepsUp .., .refl]) _ s

theorem relayUnproduced_keepsUp (s : State) : KeepsUp cs before s (relayUnproduced s) :=
  .foldl _ (fun t b => by
    split
    · split
      · exact .refl
      · exact chooseListen_keepsUp ..
    · exact .refl) _ s

/-- The route of `c` is ordered where it has changed since `before`: it no longer lags. -/
theorem routeAfter_ordered {c : Chan} (fresh : c ∉ cs) (s : State) :
    Ordered (Behind (c :: cs) before s) (Behind cs before (routeAfter before c s)) s (routeAfter before c s) := by
  unfold routeAfter
  split
  · next e =>
    refine .of_line rfl rfl fun o => ?_
    cases o with
    | route d y =>
      by_cases h : d = c
      · subst h; simp [Behind, fresh, e]
      · simp [Behind, h]
    | listen | mute => exact Iff.rfl
  · have same : SameRoutes s (placeOrder (.route c (effectiveRoute s c)) s) := placeOrder_routes _ s
    refine (placeOrder_ordered _ _ s).trans (.of_line rfl rfl fun o => Iff.trans (b := Behind cs before s o) ?_ ?_)
    · refine behind_congr (fun d _ => ?_) (fun b => ?_) o <;> rw [same] <;> exact (by first | rfl | exact ⟨rfl, rfl⟩)
    · cases o with
      | route d y =>
        by_cases h : d = c
        · subst h; simp [Behind, believe, sameSubject, fresh]
        · simp [Behind, believe, sameSubject, h]
      | listen | mute => simp [Behind, believe, sameSubject]

end

/-! ## The acts -/

/-- From `s` to `t` the line keeps up with what holds. -/
abbrev Abreast (s t : State) : Prop := KeepsUp [] s s t

theorem abreast_iff {before s t : State} : KeepsUp [] before s t ↔ Ordered (Current s) (Current t) s t := by
  unfold KeepsUp
  rw [behind_nil, behind_nil]

theorem KeepsUp.abreast {before s t : State} (h : KeepsUp [] before s t) : Abreast s t := abreast_iff.mpr (abreast_iff.mp h)
theorem Abreast.trans {s t u : State} (h : Abreast s t) (k : Abreast t u) : Abreast s u :=
  KeepsUp.trans h (abreast_iff.mpr (abreast_iff.mp k))

/-- A write of one channel, with the route order that follows it. -/
theorem setChan_abreast (c : Chan) (x : ChanLive) (s : State) : Abreast s (routeAfter s c (s.setChan c x)) := by
  refine Ordered.trans (v' := Behind [c] s (s.setChan c x)) (t := s.setChan c x) (.of_line rfl rfl fun o => ?_)
    (routeAfter_ordered List.not_mem_nil _)
  cases o with
  | route d y =>
    by_cases h : d = c
    · simp [Behind, h]
    · simp [Behind, h, effectiveRoute, State.setChan_chan, Ne.symm h]
  | listen | mute => exact Iff.rfl

theorem coverageChange_abreast (c : Chan) (x : ChanLive) {f : State → State} (hf : Tells f) (s : State) :
    Abreast s (coverageChange c x f s) := by
  refine (setChan_abreast c x s).trans (KeepsUp.abreast (before := s) (KeepsUp.trans ?_ (relayFollow_keepsUp c _)))
  rcases hf (routeAfter s c (s.setChan c x)) with e | ⟨n, _, e⟩ <;> rw [e]
  · exact .refl
  · exact .notify ..

theorem Deeds.abreast {s t : State} (h : Deeds s t) : Abreast s t := by
  induction h with
  | refl => exact .refl
  | cover c x f hf _ ih => exact ih.trans (coverageChange_abreast c x hf _)
  | hold c x _ ih => exact ih.trans (setChan_abreast ..)
  | @seats t b l same _ ih =>
    refine (ih.trans (KeepsUp.of_same (t := t.setBooth b l) rfl rfl (fun _ => rfl) fun d => ?_)).trans (syncMute_keepsUp ..)
    by_cases h : b = d
    · subst h; simp [same.effective, same.muted]
    · simp [State.setBooth_booth, h]
  | @booth t b l same _ _ ih =>
    refine ih.trans (KeepsUp.of_same (t := t.setBooth b l) rfl rfl (fun _ => rfl) fun d => ?_)
    by_cases h : b = d
    · subst h; simp [same.effective, same.muted]
    · simp [State.setBooth_booth, h]
  | acc b k x _ _ ih => exact ih.trans (.of_fields rfl rfl rfl rfl rfl rfl)
  | offer c x _ ih => exact ih.trans (.of_fields rfl rfl rfl rfl rfl rfl)
  | notice n _ _ ih => exact ih.trans (.notify ..)

/-- A write of a booth that leaves its effective source and mute state. -/
theorem setBooth_abreast {b : Booth} {l : BoothLive} {s : State} (he : l.effective = (s.booth b).effective)
    (hm : l.muted = (s.booth b).muted) : Abreast s (s.setBooth b l) := by
  refine KeepsUp.of_same rfl rfl (fun _ => rfl) fun d => ?_
  by_cases h : b = d
  · subst h; simp [he, hm]
  · simp [State.setBooth_booth, h]

theorem voidCycle_abreast (b : Booth) (s : State) : Abreast s (voidCycle b s) := by
  rw [voidCycle_cycle]; exact .of_fields rfl rfl rfl rfl rfl rfl

theorem setBoothSettings_abreast (b : Booth) (x : Option BoothSettings) (s : State) : Abreast s (s.setBoothSettings b x) :=
  .of_fields rfl rfl rfl rfl rfl rfl

theorem configureBooth_abreast (b : Booth) (m : BoothSettings) (s : State) : Abreast s (configureBooth b m s) := by
  unfold configureBooth
  refine Abreast.trans ?_ (relayUnproduced_keepsUp _)
  refine Abreast.trans ?_ (voidCycle_abreast b _)
  refine Abreast.trans ?_ (setBoothSettings_abreast b _ _)
  refine Abreast.trans ?_ (setListen_keepsUp ..)
  exact ((withdrawAll_deeds b s).abreast).trans (setBooth_abreast rfl rfl)

theorem clearBooth_abreast (b : Booth) (s : State) : Abreast s (clearBooth b s) := by
  unfold clearBooth
  refine Abreast.trans ?_ (relayUnproduced_keepsUp _)
  refine Abreast.trans ?_ (voidCycle_abreast b _)
  refine Abreast.trans ?_ (setBoothSettings_abreast b _ _)
  refine Abreast.trans ?_ (setListen_keepsUp ..)
  exact ((seatLoss_deeds b s).abreast).trans (setBooth_abreast rfl rfl)

theorem BoothOp.abreast {s t : State} (op : BoothOp s t) : Abreast s t := by
  cases op with
  | choose b m x _ _ => exact chooseListen_keepsUp ..
  | configure b m args _ _ _ => exact configureBooth_abreast ..
  | clear b => exact clearBooth_abreast ..

end Sys2Proof.Machine
end

section
/-! SUPPORT. The plan: what its requests read and write, and what they keep: the settlement of O47. -/

namespace Sys2Proof.Machine
open Sys2Proof

/-! ## The parameters -/

theorem fromOne_eq_some {k n : Nat} {i : Fin k} : fromOne k n = some i ↔ i.val + 1 = n := by
  unfold fromOne
  have := i.isLt
  split
  · rw [Option.some_inj, Fin.ext_iff]
    simp only
    omega
  · simp only [reduceCtorEq, false_iff]
    omega

theorem fromZero_eq_some {k n : Nat} {i : Fin k} : fromZero k n = some i ↔ i.val = n := by
  unfold fromZero
  have := i.isLt
  split
  · rw [Option.some_inj, Fin.ext_iff]
    simp only
    omega
  · simp only [reduceCtorEq, false_iff]
    omega

theorem fromOne_eq_none {k n : Nat} : fromOne k n = none ↔ n < 1 ∨ k < n := by
  unfold fromOne
  split <;> simp <;> omega

theorem fromZero_eq_none {k n : Nat} : fromZero k n = none ↔ k ≤ n := by
  unfold fromZero
  split <;> simp <;> omega

theorem clamp_range {lo hi x : Nat} (h : lo ≤ hi) : lo ≤ clamp lo hi x ∧ clamp lo hi x ≤ hi := by
  unfold clamp; omega

/-! ## The checks of CHAN_ASSIGN -/

theorem movedFrom_iff {s : State} {a : Assign} {c : Chan} : movedFrom s a = some c ↔ MovesFrom s a c := by
  unfold movedFrom MovesFrom
  cases a.slot with
  | none => simp
  | some k => simp [Option.filter_eq_some_iff, and_comm]

theorem chained_iff {f : Fallback} : chained f = true ↔ ∃ x, f = .channel x := by cases f <;> simp [chained]

theorem fallenBackTo_iff {s : State} {l : List Chan} {x : Chan} :
    fallenBackTo s l x = true ↔ ∃ d, d ∉ l ∧ (s.settings d).fallback = .channel x := by
  simp [fallenBackTo]

section
variable (s : State) (a : Assign)

theorem check2_iff : a.slot.any (fun k => (s.slot k).name.isNone) = true ↔ AssignFails s a 2 := by
  simp [AssignFails, Option.any_eq_true]

theorem check4_iff : (movedFrom s a).any (fun c => (s.chan c).coverage == .covered) = true ↔ AssignFails s a 4 := by
  simp only [Option.any_eq_true, movedFrom_iff, beq_iff_eq]
  exact Iff.rfl

theorem check6_iff :
    (match a.fallback with | .channel x => !carriesAfter s a x | _ => false) = true ↔ AssignFails s a 6 := by
  unfold AssignFails
  cases a.fallback with
  | channel x =>
    simp only [Fallback.channel.injEq, exists_eq_left', carriesAfter]
    split
    · simp
    · simp [← movedFrom_iff]
  | floor | silent => simp

theorem check7_iff :
    (match a.fallback with | .channel x => chained (s.settings x).fallback | _ => false) = true ↔ AssignFails s a 7 := by
  unfold AssignFails
  cases a.fallback <;> simp [chained_iff]

theorem check8_iff : (chained a.fallback && fallenBackTo s [a.target] a.target) = true ↔ AssignFails s a 8 := by
  simp [AssignFails, chained_iff, fallenBackTo_iff]

theorem check9_iff : (leftEmpty s a).any (fun c => fallenBackTo s [c, a.target] c) = true ↔ AssignFails s a 9 := by
  unfold AssignFails
  simp only [List.any_eq_true, fallenBackTo_iff, leftEmpty, List.mem_append, Option.mem_toList, ← movedFrom_iff]
  refine exists_congr fun c => and_congr (or_congr_left ?_) (exists_congr fun d => ?_)
  · cases a.slot <;> simp
  · simp [and_assoc]

/-- Checks 3 and 5 are read as they stand. -/
theorem check3_iff : (s.chan a.target).coverage = .covered ↔ AssignFails s a 3 := Iff.rfl
theorem check5_iff : a.fallback = .channel a.target ↔ AssignFails s a 5 := Iff.rfl

theorem AssignFails.range {n : Nat} (h : AssignFails s a n) : 2 ≤ n ∧ n ≤ 9 := by
  match n, h with
  | 2, _ | 3, _ | 4, _ | 5, _ | 6, _ | 7, _ | 8, _ | 9, _ => omega

variable {s a}

/-- The first check that fails gives the outcome; a request that passes every one is accepted. -/
theorem assignFailure_cases :
    (∃ n, AssignFails s a n ∧ (∀ m, m < n → ¬ AssignFails s a m) ∧ assignFailure s a = some (assignOutcome n)) ∨
      ((∀ n, ¬ AssignFails s a n) ∧ assignFailure s a = none) := by
  have next : ∀ k, (∀ m, m < k → ¬ AssignFails s a m) → ¬ AssignFails s a k → ∀ m, m < k + 1 → ¬ AssignFails s a m :=
    fun k below this m hm => (Nat.lt_succ_iff_lt_or_eq.mp hm).elim (below m) fun e => e ▸ this
  generalize chain2 : assignFailure s a = r
  unfold assignFailure at chain2
  have below2 : ∀ m, m < 2 → ¬ AssignFails s a m := fun m hm fails => by have := fails.range; omega
  by_cases fails2 : AssignFails s a 2
  · exact .inl ⟨2, fails2, below2, chain2.symm.trans (if_pos ((check2_iff s a).mpr fails2))⟩
  have chain3 := (if_neg (mt (check2_iff s a).mp fails2)).symm.trans chain2
  have below3 := next 2 below2 fails2
  by_cases fails3 : AssignFails s a 3
  · exact .inl ⟨3, fails3, below3, chain3.symm.trans (if_pos ((check3_iff s a).mpr fails3))⟩
  have chain4 := (if_neg (mt (check3_iff s a).mp fails3)).symm.trans chain3
  have below4 := next 3 below3 fails3
  by_cases fails4 : AssignFails s a 4
  · exact .inl ⟨4, fails4, below4, chain4.symm.trans (if_pos ((check4_iff s a).mpr fails4))⟩
  have chain5 := (if_neg (mt (check4_iff s a).mp fails4)).symm.trans chain4
  have below5 := next 4 below4 fails4
  by_cases fails5 : AssignFails s a 5
  · exact .inl ⟨5, fails5, below5, chain5.symm.trans (if_pos ((check5_iff s a).mpr fails5))⟩
  have chain6 := (if_neg (mt (check5_iff s a).mp fails5)).symm.trans chain5
  have below6 := next 5 below5 fails5
  by_cases fails6 : AssignFails s a 6
  · exact .inl ⟨6, fails6, below6, chain6.symm.trans (if_pos ((check6_iff s a).mpr fails6))⟩
  have chain7 := (if_neg (mt (check6_iff s a).mp fails6)).symm.trans chain6
  have below7 := next 6 below6 fails6
  by_cases fails7 : AssignFails s a 7
  · exact .inl ⟨7, fails7, below7, chain7.symm.trans (if_pos ((check7_iff s a).mpr fails7))⟩
  have chain8 := (if_neg (mt (check7_iff s a).mp fails7)).symm.trans chain7
  have below8 := next 7 below7 fails7
  by_cases fails8 : AssignFails s a 8
  · exact .inl ⟨8, fails8, below8, chain8.symm.trans (if_pos ((check8_iff s a).mpr fails8))⟩
  have chain9 := (if_neg (mt (check8_iff s a).mp fails8)).symm.trans chain8
  have below9 := next 8 below8 fails8
  by_cases fails9 : AssignFails s a 9
  · exact .inl ⟨9, fails9, below9, chain9.symm.trans (if_pos ((check9_iff s a).mpr fails9))⟩
  have chain10 := (if_neg (mt (check9_iff s a).mp fails9)).symm.trans chain9
  have below10 := next 9 below9 fails9
  exact .inr ⟨fun n fails => below10 n (by have := fails.range; omega) fails, chain10.symm⟩

theorem assignFailure_of_first {n : Nat} (h : AssignFails s a n) (first : ∀ m, m < n → ¬ AssignFails s a m) :
    assignFailure s a = some (assignOutcome n) := by
  rcases assignFailure_cases (s := s) (a := a) with ⟨m, fails, least, e⟩ | ⟨none, _⟩
  · rcases lt_trichotomy m n with hm | rfl | hm
    · exact absurd fails (first m hm)
    · exact e
    · exact absurd h (least n hm)
  · exact absurd h (none n)

theorem assignFailure_eq_none : assignFailure s a = none ↔ ∀ n, ¬ AssignFails s a n := by
  rcases assignFailure_cases (s := s) (a := a) with ⟨m, fails, _, e⟩ | ⟨none, e⟩
  · exact iff_of_false (by rw [e]; nofun) fun none => none m fails
  · exact iff_of_true e none

end

/-! ## What an accepted CHAN_ASSIGN writes -/

section
variable (a : Assign) (s : State)

theorem moveAway_settings (d : Chan) : (moveAway a s).settings d =
    { s.settings d with slot := if movedFrom s a = some d then none else (s.settings d).slot } := by
  unfold moveAway
  cases movedFrom s a with
  | none => rfl
  | some c =>
    by_cases h : c = d
    · subst h; simp [clearChannel]
    · simp [clearChannel, State.setSettings_settings, h]

theorem moveAway_chan (d : Chan) : (moveAway a s).chan d =
    if movedFrom s a = some d then ⟨.unassigned, none, .silent, 0, false⟩ else s.chan d := by
  unfold moveAway
  cases movedFrom s a with
  | none => rfl
  | some c => simp [clearChannel, State.setChan_chan]

theorem moveAway_slot (k : Slot) : (moveAway a s).slot k = s.slot k := by
  unfold moveAway
  split <;> rfl

theorem freeOld_chan (old : Option Slot) (d : Chan) : (freeOld a old s).chan d = s.chan d := by
  unfold freeOld
  split
  · split <;> rfl
  · rfl

theorem freeOld_settings (old : Option Slot) (d : Chan) : (freeOld a old s).settings d = s.settings d := by
  unfold freeOld
  split
  · split <;> rfl
  · rfl

theorem freeOld_slot (old : Option Slot) (k : Slot) : (freeOld a old s).slot k =
    { s.slot k with channel := if old = some k ∧ a.slot ≠ some k then none else (s.slot k).channel } := by
  unfold freeOld
  cases old with
  | none => simp
  | some j =>
    by_cases h : j = k
    · subst h
      simp only [true_and]
      split <;> simp_all [freeSlot]
    · simp only [Option.some.injEq, h, false_and, if_false]
      split
      · rfl
      · simp [freeSlot, State.setSlot_slot, h]

theorem writeTarget_chan (d : Chan) : (writeTarget a s).chan d = s.chan d := by
  unfold writeTarget
  simp only
  split <;> rfl

theorem writeTarget_settings (d : Chan) : (writeTarget a s).settings d =
    if a.target = d then ⟨a.slot, a.policy, a.fallback, a.gapHold, a.offerTime⟩ else s.settings d := by
  unfold writeTarget
  simp only
  split <;> simp [State.setSettings_settings]

theorem writeTarget_slot (k : Slot) : (writeTarget a s).slot k =
    { s.slot k with channel := if a.slot = some k then some a.target else (s.slot k).channel } := by
  unfold writeTarget
  simp only
  split
  · next h => rw [h]; rfl
  · next j h =>
    rw [h]
    by_cases e : j = k
    · subst e; simp
    · simp [State.setSlot_slot, e]

theorem assignWrites_settings (d : Chan) : (assignWrites a s).settings d =
    if a.target = d then ⟨a.slot, a.policy, a.fallback, a.gapHold, a.offerTime⟩
    else { s.settings d with slot := if movedFrom s a = some d then none else (s.settings d).slot } := by
  rw [assignWrites_eq, State.setChan_read_settings, writeTarget_settings, freeOld_settings, moveAway_settings]

theorem assignWrites_chan (d : Chan) : (assignWrites a s).chan d =
    if a.target = d then targetLive a (s.settings a.target).slot (s.chan a.target)
    else if movedFrom s a = some d then ⟨.unassigned, none, .silent, 0, false⟩ else s.chan d := by
  rw [assignWrites_eq, State.setChan_chan, writeTarget_chan, freeOld_chan, moveAway_chan]

theorem assignWrites_slot (k : Slot) : (assignWrites a s).slot k = { s.slot k with
    channel := if a.slot = some k then some a.target
      else if (s.settings a.target).slot = some k then none else (s.slot k).channel } := by
  rw [assignWrites_eq, State.setChan_read_slot, writeTarget_slot, freeOld_slot, moveAway_slot]
  by_cases h : a.slot = some k <;> simp [h]

/-- Everything but the plan, the slots and the live channels is the same. -/
def SameButLines (s t : State) : Prop :=
  t = { s with ret.slots := t.ret.slots, ret.plan := t.ret.plan, gen.chans := t.gen.chans }

theorem SameButLines.trans {s t u : State} (h : SameButLines s t) (k : SameButLines t u) : SameButLines s u := by
  unfold SameButLines at *; rw [k, h]

theorem assignWrites_keeps : SameButLines s (assignWrites a s) := by
  have moved : SameButLines s (moveAway a s) := by unfold moveAway; split <;> rfl
  have freed : ∀ old u, SameButLines u (freeOld a old u) := fun old u => by
    unfold freeOld
    split
    · split <;> rfl
    · rfl
  have written : ∀ u, SameButLines u (writeTarget a u) := fun u => by
    unfold writeTarget; simp only; split <;> rfl
  have live : ∀ c x (u : State), SameButLines u (u.setChan c x) := fun _ _ _ => rfl
  exact ((moved.trans (freed _ _)).trans (written _)).trans (live _ _ _)

end

/-! ## The plan is kept -/

/-- Nothing that the plan's invariant reads has changed. -/
structure SamePlan (r r' : Retained) : Prop where
  slots : ∀ k, (r'.slots.get k).channel = (r.slots.get k).channel ∧ (r'.slots.get k).name = (r.slots.get k).name
  plan : r'.plan = r.plan
  booths : r'.booths = r.booths

theorem SamePlan.of_eq {r r' : Retained} (hs : r'.slots = r.slots) (hp : r'.plan = r.plan) (hb : r'.booths = r.booths) :
    SamePlan r r' := ⟨fun _ => by rw [hs]; exact ⟨rfl, rfl⟩, hp, hb⟩

theorem PlanAgrees.of_same {r r' : Retained} (h : PlanAgrees r) (same : SamePlan r r') : PlanAgrees r' := by
  obtain ⟨slots, plan, booths⟩ := same
  constructor
  · intro k c; rw [(slots k).1, plan]; exact h.named k c
  · intro k; rw [(slots k).1, (slots k).2]; exact h.defined k
  · intro j k n m; rw [(slots j).2, (slots k).2]; exact h.tags j k n m
  · intro k n; rw [(slots k).2]; exact h.entries k n
  · rw [plan]; exact h.chains
  · rw [plan]; exact h.ranges
  · rw [booths]; exact h.booths

/-- A name written in a slot: its tag is in range and held by no other slot, its label is within its length, and a slot that
a channel carries keeps one. -/
theorem PlanAgrees.setName {s : State} (h : PlanAgrees s.ret) (k : Slot) (n : Option LangName)
    (defined : (s.slot k).channel.isSome = true → n.isSome = true)
    (entry : ∀ m, n = some m → 1 ≤ m.tag ∧ m.tag ≤ 65535 ∧ 1 ≤ m.label.length ∧ m.label.length ≤ 12)
    (free : ∀ m j x, n = some m → j ≠ k → (s.slot j).name = some x → x.tag ≠ m.tag) :
    PlanAgrees (s.setSlot k { s.slot k with name := n }).ret := by
  have channel : ∀ j, ((s.setSlot k { s.slot k with name := n }).slot j).channel = (s.slot j).channel := fun j => by
    rw [State.setSlot_slot]
    split
    · next e => rw [e]
    · rfl
  have name : ∀ j, ((s.setSlot k { s.slot k with name := n }).slot j).name = if k = j then n else (s.slot j).name :=
    fun j => by rw [State.setSlot_slot]; split <;> rfl
  refine ⟨fun j c => ?_, fun j hj => ?_, fun i j x y hx hy same => ?_, fun j m hm => ?_, h.chains, h.ranges, h.booths⟩
  · exact (Eq.congr_left (channel j)).trans (h.named j c)
  · have carried : (s.slot j).channel.isSome = true := (channel j) ▸ hj
    show ((s.setSlot k { s.slot k with name := n }).slot j).name.isSome = true
    rw [name]
    split
    · next e => exact defined (e ▸ carried)
    · exact h.defined j carried
  · have hx := (name i).symm.trans hx
    have hy := (name j).symm.trans hy
    split at hx <;> split at hy
    · next e f => exact e.symm.trans f
    · next e f => exact absurd same.symm (free x j y hx (Ne.symm f) hy)
    · next e f => exact absurd same (free y i x hy (Ne.symm e) hx)
    · exact h.tags i j x y hx hy same
  · have hm := (name j).symm.trans hm
    split at hm
    · exact entry m hm
    · exact h.entries j m hm

theorem labelAllowed_iff {label : List Byte} : labelAllowed label = true ↔
    1 ≤ label.length ∧ label.length ≤ 12 ∧ ∀ b ∈ label, 0x20 ≤ b.toNat ∧ b.toNat ≤ 0x7E := by
  simp [labelAllowed, and_assoc]

theorem tagHeld_iff {s : State} {k : Slot} {tag : Nat} :
    tagHeld s k tag = true ↔ ∃ j n, j ≠ k ∧ (s.slot j).name = some n ∧ n.tag = tag := by
  simp [tagHeld]

theorem defineLanguage_planAgrees (slot : Byte) (tag : Half) (label : List Byte) {s : State} (h : PlanAgrees s.ret) :
    PlanAgrees (defineLanguage slot tag label s).2.ret := by
  unfold defineLanguage
  split
  · exact h
  · next k _ =>
    split
    · exact h
    · next good =>
      split
      · exact h
      · next free =>
        split
        · exact h
        · obtain ⟨nonzero, allowed⟩ := not_or.mp good
          obtain ⟨low, high, _⟩ := labelAllowed_iff.mp (Bool.not_eq_false _ ▸ allowed)
          refine h.setName k _ (fun _ => rfl) (fun m hm => ?_) (fun m j x hm hj hx same => ?_)
          · cases hm
            have positive : tag.toNat ≠ 0 := fun e => nonzero (BitVec.eq_of_toNat_eq e)
            exact ⟨Nat.one_le_iff_ne_zero.mpr positive, Nat.le_of_lt_succ tag.isLt, low, high⟩
          · cases hm
            exact free (tagHeld_iff.mpr ⟨j, x, hj, hx, same⟩)

theorem removeLanguage_planAgrees (slot : Byte) {s : State} (h : PlanAgrees s.ret) :
    PlanAgrees (removeLanguage slot s).2.ret := by
  unfold removeLanguage
  split
  · exact h
  · next k _ =>
    split
    · exact h
    · split
      · exact h
      · next free => exact h.setName k none (fun carried => absurd carried free) nofun nofun

/-- The parameters of a CHAN_ASSIGN in their ranges. -/
theorem assignOf_ranges {target : Byte} {args : AssignArgs} {a : Assign} (h : assignOf target args = some a) :
    a.gapHold ≤ 60 ∧ 5 ≤ a.offerTime ∧ a.offerTime ≤ 120 := by
  unfold assignOf at h
  split at h
  · cases h
    exact ⟨Nat.min_le_left _ _, (clamp_range (by decide)).1, (clamp_range (by decide)).2⟩
  · cases h

theorem assignWrites_planAgrees {target : Byte} {args : AssignArgs} {a : Assign} {s : State}
    (ha : assignOf target args = some a) (hf : assignFailure s a = none) (h : PlanAgrees s.ret) :
    PlanAgrees (assignWrites a s).ret := by
  have passes := assignFailure_eq_none.mp hf
  have named : ∀ k c, (s.slot k).channel = some c ↔ (s.settings c).slot = some k := h.named
  have chains : ∀ c x, (s.settings c).fallback = .channel x →
    x ≠ c ∧ (s.settings x).slot.isSome = true ∧ ∀ y, (s.settings x).fallback ≠ .channel y := h.chains
  have slot : ∀ k, (assignWrites a s).ret.slots.get k = _ := assignWrites_slot a s
  have settings : ∀ c, (assignWrites a s).ret.plan.get c = _ := assignWrites_settings a s
  refine ⟨fun k c => ?_, fun k hk => ?_, fun j k n m hj hk => ?_, fun k n hn => ?_, fun c x hx => ?_, fun c => ?_, ?_⟩
  · rw [slot, settings]
    by_cases target : a.target = c
    · subst target
      by_cases new : a.slot = some k <;> by_cases old : (s.settings a.target).slot = some k <;> simp [new, old, named]
    · by_cases moved : movedFrom s a = some c
      · obtain ⟨_, j, hj, hc⟩ := movedFrom_iff.mp moved
        by_cases new : a.slot = some k
        · simp [new, target, moved]
        · have other : (s.slot k).channel ≠ some c := fun e => by
            rw [named, (named j c).mp hc, ← hj] at e
            exact new e
          by_cases old : (s.settings a.target).slot = some k <;> simp [new, old, target, moved, other]
      · have notMoved : a.slot = some k → (s.slot k).channel ≠ some c := fun hk hc =>
          moved (movedFrom_iff.mpr ⟨Ne.symm target, k, hk, hc⟩)
        by_cases new : a.slot = some k
        · simp [new, target, moved, ← named, notMoved new]
        · by_cases old : (s.settings a.target).slot = some k
          · simp [new, old, target, moved, ← named, (named k a.target).mpr old]
          · simp [new, old, target, moved, named]
  · rw [slot] at hk ⊢
    by_cases new : a.slot = some k
    · have kept := fun none => passes 2 ⟨k, new, none⟩
      exact Option.isSome_iff_ne_none.mpr kept
    · by_cases old : (s.settings a.target).slot = some k
      · simp [new, old] at hk
      · have carried : (s.slot k).channel.isSome = true := by simpa [new, old] using hk
        exact h.defined k carried
  · rw [slot] at hj hk
    exact h.tags j k n m hj hk
  · rw [slot] at hn
    exact h.entries k n hn
  · rw [settings] at hx
    rw [settings x]
    by_cases target : a.target = c
    · subst target
      have falls : a.fallback = .channel x := by simpa using hx
      have loop : x ≠ a.target := fun e => passes 5 (falls.trans (by rw [e]))
      have carries := fun gone => passes 6 ⟨x, falls, gone⟩
      rw [if_neg loop] at carries
      obtain ⟨carried, stays⟩ := not_or.mp carries
      rw [← movedFrom_iff] at stays
      refine ⟨loop, ?_, fun y hy => passes 7 ⟨x, y, falls, ?_⟩⟩
      · simpa [Ne.symm loop, stays] using Option.isSome_iff_ne_none.mpr carried
      · simpa [Ne.symm loop] using hy
    · have falls : (s.settings c).fallback = .channel x := by simpa [target] using hx
      obtain ⟨self, carried, short⟩ := chains c x falls
      refine ⟨self, ?_, fun y hy => ?_⟩
      · by_cases here : a.target = x
        · have left := fun none => passes 9 ⟨x, .inl ⟨here.symm, none⟩, c, Ne.symm self, Ne.symm target, falls⟩
          simpa [here] using Option.isSome_iff_ne_none.mpr left
        · have stays : movedFrom s a ≠ some x := fun moved =>
            passes 9 ⟨x, .inr (movedFrom_iff.mp moved), c, Ne.symm self, Ne.symm target, falls⟩
          simpa [here, stays] using carried
      · by_cases here : a.target = x
        · subst here
          exact passes 8 ⟨⟨y, by simpa using hy⟩, c, Ne.symm target, falls⟩
        · exact short y (by simpa [here] using hy)
  · rw [settings]
    split
    · exact assignOf_ranges ha
    · exact h.ranges c
  · have booths : (assignWrites a s).ret.booths = s.ret.booths :=
      congrArg (fun x => x.ret.booths) (assignWrites_keeps a s)
    rw [booths]
    exact h.booths

theorem boothSettingsOf_ranges {args : BoothArgs} {m : BoothSettings} (h : boothSettingsOf args = some m) :
    1 ≤ m.seats ∧ m.seats ≤ 3 ∧ m.outputB ≠ some m.outputA ∧ 5 ≤ m.offerTime ∧ m.offerTime ≤ 120 := by
  unfold boothSettingsOf at h
  split at h
  · next i a b mode auto hi _ _ _ _ =>
    split at h
    · cases h
    · next other =>
      cases h
      have seats := fromOne_eq_some.mp hi
      have low : 1 ≤ args.seats.toNat := by omega
      have high : args.seats.toNat ≤ 3 := by have := i.isLt; omega
      exact ⟨low, high, other, (clamp_range (by decide)).1, (clamp_range (by decide)).2⟩
  · cases h

theorem PlanAgrees.cleared : PlanAgrees Retained.cleared where
  named k c := by simp [Retained.cleared, LangSlot.blank, ChanSettings.blank]
  defined k := by simp [Retained.cleared, LangSlot.blank]
  tags j k n m := by simp [Retained.cleared, LangSlot.blank]
  entries k n := by simp [Retained.cleared, LangSlot.blank]
  chains c x := by simp [Retained.cleared, ChanSettings.blank]
  ranges c := by simp [Retained.cleared, ChanSettings.blank]
  booths b k := by simp [Retained.cleared]

/-! ## The acts -/

theorem SamePlan.refl (r : Retained) : SamePlan r r := .of_eq rfl rfl rfl

theorem PlanOp.planAgrees {s t : State} (op : PlanOp s t) (h : PlanAgrees s.ret) : PlanAgrees t.ret := by
  cases op with
  | define slot tag label => exact defineLanguage_planAgrees slot tag label h
  | remove slot => exact removeLanguage_planAgrees slot h
  | assign target args a ha hf =>
    have effects : SamePlan (assignWrites a s).ret (applyAssign a s).ret := by
      rw [applyAssign, assignEffects_eq]
      have left := settleLeft_moves a s (assignWrites a s)
      have routed := routeAfter_moves s a.target (settleLeft a s (assignWrites a s))
      have closed := closeLeft_books a s (routeAfter s a.target (settleLeft a s (assignWrites a s)))
      have handed := handTarget_moves a s (closeLeft a s (routeAfter s a.target (settleLeft a s (assignWrites a s))))
      have moved := left.trans routed
      exact .of_eq (by rw [handed.keeps, closed.keeps, moved.keeps]) (by rw [handed.keeps, closed.keeps, moved.keeps])
        (by rw [handed.keeps, closed.keeps, moved.keeps])
    exact (assignWrites_planAgrees ha hf h).of_same effects
  | override on =>
    have same := (setOverride_moves on s).keeps
    exact h.of_same (.of_eq (by rw [same]) (by rw [same]) (by rw [same]))

theorem PlanAgrees.setBooth {r : Retained} (h : PlanAgrees r) {r' : Retained} (b : Booth) (x : Option BoothSettings)
    (ranges : ∀ m, x = some m → 1 ≤ m.seats ∧ m.seats ≤ 3 ∧ m.outputB ≠ some m.outputA ∧ 5 ≤ m.offerTime ∧ m.offerTime ≤ 120)
    (hs : r'.slots = r.slots) (hp : r'.plan = r.plan) (hb : r'.booths = r.booths.set b x) : PlanAgrees r' := by
  have rest : PlanAgrees { r with booths := r.booths.set b x } := ⟨h.named, h.defined, h.tags, h.entries, h.chains, h.ranges, fun d k hk => by
    simp only [Bank.get_set] at hk
    split at hk
    · exact ranges k hk
    · exact h.booths d k hk⟩
  exact rest.of_same (.of_eq hs hp hb)

theorem voidCycle_ret (b : Booth) (s : State) : (voidCycle b s).ret = s.ret := by rw [voidCycle_cycle]

theorem Moves.ret_keeps {s t : State} (h : Moves s t) : t.ret = { s.ret with seatAcc := t.ret.seatAcc } := by
  rw [h.keeps]

theorem configureBooth_booths_set (b : Booth) (m : BoothSettings) (s : State) :
    (configureBooth b m s).ret.booths = s.ret.booths.set b (some m) ∧
      (configureBooth b m s).ret.slots = s.ret.slots ∧ (configureBooth b m s).ret.plan = s.ret.plan := by
  unfold configureBooth
  simp only
  rw [(relayUnproduced_moves _).ret_keeps]
  simp only [voidCycle_ret, State.setBoothSettings_ret_booths, State.setBoothSettings_ret_slots,
    State.setBoothSettings_ret_plan]
  rw [(setListen_moves ..).ret_keeps]
  simp only [State.setBooth_ret]
  rw [(withdrawAll_moves ..).ret_keeps]
  exact ⟨rfl, rfl, rfl⟩

theorem clearBooth_booths_set (b : Booth) (s : State) :
    (clearBooth b s).ret.booths = s.ret.booths.set b none ∧
      (clearBooth b s).ret.slots = s.ret.slots ∧ (clearBooth b s).ret.plan = s.ret.plan := by
  unfold clearBooth
  simp only
  rw [(relayUnproduced_moves _).ret_keeps]
  simp only [voidCycle_ret, State.setBoothSettings_ret_booths, State.setBoothSettings_ret_slots,
    State.setBoothSettings_ret_plan]
  rw [(setListen_moves ..).ret_keeps]
  simp only [State.setBooth_ret]
  rw [(seatLoss_moves ..).ret_keeps]
  exact ⟨rfl, rfl, rfl⟩

theorem BoothOp.planAgrees {s t : State} (op : BoothOp s t) (h : PlanAgrees s.ret) : PlanAgrees t.ret := by
  cases op with
  | choose b m x _ _ =>
    rw [(chooseListen_moves b x s).ret_keeps]
    exact h.of_same (.of_eq rfl rfl rfl)
  | configure b m args hm _ _ =>
    obtain ⟨hb, hs, hp⟩ := configureBooth_booths_set b m s
    refine h.setBooth b (some m) (fun k hk => ?_) hs hp hb
    cases hk
    exact boothSettingsOf_ranges hm
  | clear b =>
    obtain ⟨hb, hs, hp⟩ := clearBooth_booths_set b s
    exact h.setBooth b none nofun hs hp hb

theorem countBlocks_samePlan (s : State) : SamePlan s.ret (countBlocks s).ret := by
  refine ⟨fun k => ?_, by rw [countBlocks_keeps], by rw [countBlocks_keeps]⟩
  unfold countBlocks countSlots
  simp only
  split
  · exact ⟨rfl, rfl⟩
  · simp only [Bank.get_map]
    unfold countSlot
    (repeat' split) <;> exact ⟨rfl, rfl⟩

theorem openSession_samePlan (s : State) : SamePlan s.ret (openSession s).2.2.ret := by
  unfold openSession
  split
  · exact .refl _
  · exact ⟨fun k => by simp, rfl, rfl⟩

theorem Act.planAgrees {drops : Prop} {s t : State} (act : Act drops s t) (h : PlanAgrees s.ret) : PlanAgrees t.ret := by
  have same : ∀ {u : State}, (u.ret.slots, u.ret.plan, u.ret.booths) = (s.ret.slots, s.ret.plan, s.ret.booths) →
      PlanAgrees u.ret := fun e => by
    simp only [Prod.mk.injEq] at e
    exact h.of_same (.of_eq e.1 e.2.1 e.2.2)
  cases act with
  | aside a => exact same (congrArg (fun x => (x.ret.slots, x.ret.plan, x.ret.booths)) a)
  | ports op => exact op.ports.ret ▸ h
  | hall op => exact same (congrArg (fun x => (x.ret.slots, x.ret.plan, x.ret.booths)) op.deeds.moves.keeps)
  | booths op => exact op.planAgrees h
  | plan op => exact op.planAgrees h
  | books op => exact same (congrArg (fun x => (x.ret.slots, x.ret.plan, x.ret.booths)) op.sameButBooks)
  | jobs op => exact same (congrArg (fun x => (x.ret.slots, x.ret.plan, x.ret.booths)) op.keeps)
  | reset op =>
    cases op with
    | cleared supply mark held => exact .cleared
    | general kind cleared => exact same (by rw [generalReset_keeps])
    | _ => exact same rfl
  | directory before => exact same (congrArg (fun x => (x.ret.slots, x.ret.plan, x.ret.booths)) (dirAfter_directory before s))
  | refresh => exact same (congrArg (fun x => (x.ret.slots, x.ret.plan, x.ret.booths)) (placeAll_routes _ s))
  | orderSent => exact same (by rw [routeBegin_routes _])
  | count => exact h.of_same (countBlocks_samePlan s)
  | session => exact h.of_same (openSession_samePlan s)
  | _ => exact same rfl

theorem HireOp.planAgrees {s t : State} (op : HireOp s t) (h : PlanAgrees s.ret) : PlanAgrees t.ret := by
  rw [op.keeps]
  exact h.of_same (.of_eq rfl rfl rfl)

/-- Settles O47: requests of the plan and of the booths write within their checks; nothing else writes what the plan's rules
speak of. -/
theorem planIsKept : Obligations.PlanIsKept := fun _ _ h =>
  step_keeps (P := fun s => PlanAgrees s.ret) h (fun _ => id) (fun _ _ _ act => act.planAgrees)
    (fun _ _ change => change.planAgrees)

end Sys2Proof.Machine
end

section
/-! SUPPORT. The route line under changes of the plan and resets: the settlement of O51 and O52. -/

namespace Sys2Proof.Machine
open Sys2Proof

/-! ## Changes of the plan -/

section
variable {cs : List Chan} {before s t : State}

/-- A run of route updates, of channels still to be ordered. -/
theorem routesAfter_ordered (cs : List Chan) (once : cs.Nodup) (s : State) :
    Ordered (Behind cs before s) (Behind [] before (cs.foldl (fun t c => routeAfter before c t) s)) s
      (cs.foldl (fun t c => routeAfter before c t) s) := by
  induction cs generalizing s with
  | nil => exact .of_line rfl rfl fun _ => Iff.rfl
  | cons c cs ih =>
    obtain ⟨fresh, rest⟩ := List.nodup_cons.mp once
    exact (routeAfter_ordered fresh s).trans (ih rest _)

/-- Where nothing is ordered yet, every changed route is still to be ordered. -/
theorem behind_before (hr : ∀ c, c ∉ cs → effectiveRoute s c = effectiveRoute before c)
    (hb : s.gen.booths = before.gen.booths) (o : RouteOrder) : Behind cs before s o ↔ Current before o := by
  cases o with
  | route c y =>
    by_cases h : c ∈ cs
    · simp [Behind, Current, h]
    · simp [Behind, Current, h, hr c h]
  | listen b y => simp [Behind, Current, State.booth, hb]
  | mute b y => simp [Behind, Current, State.booth, hb]

theorem Abreast.of_ordered {u : State} (h : Ordered (Current s) (Behind cs before t) s t)
    (k : Ordered (Behind cs before t) (Behind [] before u) t u) : Abreast s u := by
  have both := h.trans k
  rw [behind_nil] at both
  exact abreast_iff.mpr both

end

theorem setOverride_abreast (on : Bool) (s : State) : Abreast s (setOverride on s) := by
  unfold setOverride
  split
  · exact .refl
  · refine .of_ordered (before := s) (cs := List.finRange 24) (t := { s with gen.override := on }) ?_
      (routesAfter_ordered _ (List.nodup_finRange 24) _)
    exact .of_line rfl rfl (behind_before (fun c hc => absurd (List.mem_finRange c) hc) rfl)

theorem closeLeft_keepsUp {cs : List Chan} {before : State} (a : Assign) (start s : State) :
    KeepsUp cs before s (closeLeft a start s) := by
  rw [(closeLeft_books a start s).keeps]
  exact .of_fields rfl rfl rfl rfl rfl rfl

theorem handTarget_abreast (a : Assign) (before s : State) : Abreast s (handTarget a before s) := by
  unfold handTarget
  split
  · exact relayUnassigned_keepsUp ..
  · split
    · exact .refl
    · split
      · exact Abreast.trans (relayFollow_keepsUp ..) (uncover_deeds ..).abreast
      · exact relayFollow_keepsUp ..

/-- After the writes of a CHAN_ASSIGN, the target and the channel that the language left are still to be ordered. -/
theorem assignWrites_behind (a : Assign) (s : State) {cs : List Chan} (target : a.target ∈ cs)
    (moved : ∀ c, movedFrom s a = some c → c ∈ cs) :
    Ordered (Current s) (Behind cs s (assignWrites a s)) s (assignWrites a s) := by
  have keeps := assignWrites_keeps a s
  refine .of_line (congrArg (fun x => x.gen.routeSending) keeps) (congrArg (fun x => x.gen.routeList) keeps)
    (behind_before (fun c hc => ?_) (congrArg (fun x => x.gen.booths) keeps))
  have other : a.target ≠ c := fun e => hc (e ▸ target)
  have stays : movedFrom s a ≠ some c := fun e => hc (moved c e)
  have override : (assignWrites a s).gen.override = s.gen.override := congrArg (fun x => x.gen.override) keeps
  unfold effectiveRoute
  rw [assignWrites_settings, assignWrites_chan, override]
  simp [other, stays]

theorem applyAssign_abreast (a : Assign) (s : State) : Abreast s (applyAssign a s) := by
  rw [applyAssign, assignEffects_eq]
  have rest : ∀ u, Ordered (Behind [a.target] s u) (Behind [] s (closeLeft a s (routeAfter s a.target u))) u
      (closeLeft a s (routeAfter s a.target u)) := fun u =>
    (routeAfter_ordered List.not_mem_nil u).trans (closeLeft_keepsUp a s _)
  refine Abreast.trans ?_ (handTarget_abreast a s _)
  unfold settleLeft
  cases hm : movedFrom s a with
  | none =>
    exact .of_ordered (assignWrites_behind a s (List.mem_singleton_self _) (by rw [hm]; nofun)) (rest _)
  | some c =>
    have other : c ∉ [a.target] := fun h => (movedFrom_iff.mp hm).1 (List.mem_singleton.mp h)
    have written : Ordered (Current s) (Behind [c, a.target] s (assignWrites a s)) s (assignWrites a s) :=
      assignWrites_behind a s (List.mem_cons_of_mem _ (List.mem_singleton_self _)) fun d hd => by
        rw [hm] at hd
        cases hd
        exact List.mem_cons_self
    have settled := (routeAfter_ordered other (assignWrites a s)).trans (relayUnassigned_keepsUp (before := s) c _)
    exact .of_ordered written (settled.trans (rest _))

theorem PlanOp.abreast {s t : State} (op : PlanOp s t) : Abreast s t := by
  cases op with
  | define slot tag label =>
    unfold defineLanguage
    (repeat' split) <;> exact .of_fields rfl rfl rfl rfl rfl rfl
  | remove slot =>
    unfold removeLanguage
    (repeat' split) <;> exact .of_fields rfl rfl rfl rfl rfl rfl
  | assign target args a _ _ => exact applyAssign_abreast a s
  | override on => exact setOverride_abreast on s

/-! ## The full set -/

/-- An order that names what holds changes nothing of what the line says. -/
theorem placeOrder_current {o : RouteOrder} {s : State} (h : Current s o) : Abreast s (placeOrder o s) := by
  have same : SameRoutes s (placeOrder o s) := placeOrder_routes o s
  refine abreast_iff.mpr ((placeOrder_ordered (Current s) o s).trans (.of_line rfl rfl fun x => ?_))
  have stands : Current (placeOrder o s) x ↔ Current s x := by
    rw [← behind_nil s, ← behind_nil s]
    exact behind_congr (fun c _ => by rw [same]; rfl) (fun b => by rw [same]; exact ⟨rfl, rfl⟩) x
  rw [stands]
  unfold believe
  split
  · next e =>
    cases x <;> cases o <;> simp_all [sameSubject, Current]
  · exact Iff.rfl

theorem mem_fullSet {s : State} {o : RouteOrder} : o ∈ fullSet s ↔ Current s o := by
  unfold fullSet
  cases o <;> simp [Current, eq_comm]

theorem fullSet_of_sameRoutes {s t : State} (h : SameRoutes s t) : fullSet t = fullSet s := by
  have routes : effectiveRoute t = effectiveRoute s := funext fun c => by rw [h]; rfl
  have booths : t.booth = s.booth := funext fun b => by rw [h]; rfl
  unfold fullSet
  rw [routes, booths]

theorem fullSet_once (s : State) : (fullSet s).Pairwise (fun a b => sameSubject a b = false) := by
  have distinct : ∀ {α : Type} {l : List α} (f : α → RouteOrder), l.Nodup →
      (∀ a b, a ≠ b → sameSubject (f a) (f b) = false) → (l.map f).Pairwise (fun a b => sameSubject a b = false) :=
    fun f hl hf => List.pairwise_map.mpr (hl.imp fun {a b} ne => hf a b ne)
  unfold fullSet
  refine List.pairwise_append.mpr ⟨List.pairwise_append.mpr ⟨?_, ?_, ?_⟩, ?_, ?_⟩
  · exact distinct _ (List.nodup_finRange 24) fun a b ne => by simpa [sameSubject] using ne
  · exact distinct _ (List.nodup_finRange 32) fun a b ne => by simpa [sameSubject] using ne
  · rintro x hx y hy
    obtain ⟨c, _, rfl⟩ := List.mem_map.mp hx
    obtain ⟨b, _, rfl⟩ := List.mem_map.mp hy
    rfl
  · exact distinct _ (List.nodup_finRange 32) fun a b ne => by simpa [sameSubject] using ne
  · rintro x hx y hy
    obtain ⟨b, _, rfl⟩ := List.mem_map.mp hy
    rcases List.mem_append.mp hx with hx | hx <;> obtain ⟨_, _, rfl⟩ := List.mem_map.mp hx <;> rfl

/-- Orders of new subjects join the end of the line, in their order. -/
theorem placeAll_orders (os : List RouteOrder) (s : State) (busy : s.gen.routeSending = none → s.gen.routeList = [])
    (once : os.Pairwise (fun a b => sameSubject a b = false))
    (fresh : ∀ x ∈ s.gen.routeList, ∀ o ∈ os, sameSubject x o = false) :
    routeOrders (placeAll os s) = routeOrders s ++ os ∧
      ((placeAll os s).gen.routeSending = none → (placeAll os s).gen.routeList = []) := by
  induction os generalizing s with
  | nil => exact ⟨(List.append_nil _).symm, busy⟩
  | cons o os ih =>
    obtain ⟨first, rest⟩ := List.pairwise_cons.mp once
    have joined : placeUnsent o s.gen.routeList = s.gen.routeList ++ [o] :=
      placeUnsent_fresh o _ fun x hx => fresh x hx o List.mem_cons_self
    have placed : routeOrders (placeOrder o s) = routeOrders s ++ [o] := by
      unfold placeOrder
      rw [routeBegin_orders]
      simp [routeOrders, joined]
    have listed : (placeOrder o s).gen.routeSending ≠ none ∧
        ∀ x ∈ (placeOrder o s).gen.routeList, x ∈ s.gen.routeList ++ [o] := by
      unfold placeOrder
      rcases routeBegin_cases { s with gen.routeList := placeUnsent o s.gen.routeList } with
        ⟨_, y, tail, hl, e⟩ | ⟨idle, e⟩ <;> rw [e]
      · refine ⟨nofun, fun x hx => ?_⟩
        rw [← joined]
        have hl : placeUnsent o s.gen.routeList = y :: tail := hl
        exact hl ▸ List.mem_cons_of_mem y hx
      · refine ⟨idle.resolve_right (by simp [joined]), fun x hx => joined ▸ hx⟩
    obtain ⟨orders, idle⟩ := ih (placeOrder o s) (fun none => absurd none listed.1) rest fun x hx y hy => by
      rcases List.mem_append.mp (listed.2 x hx) with hx | hx
      · exact fresh x hx y (List.mem_cons_of_mem _ hy)
      · rw [List.mem_singleton.mp hx]
        exact first y hy
    refine ⟨?_, idle⟩
    rw [placeAll, List.foldl_cons, ← placeAll, orders, placed]
    simp

theorem placeAll_current (s : State) : Abreast s (placeAll (fullSet s) s) := by
  have all : ∀ o ∈ fullSet s, Current s o := fun o ho => mem_fullSet.mp ho
  unfold placeAll
  suffices h : ∀ (os : List RouteOrder) (t : State), SameRoutes s t → (∀ o ∈ os, Current s o) →
      Abreast t (os.foldl (fun s o => placeOrder o s) t) from h (fullSet s) s rfl all
  intro os
  induction os with
  | nil => exact fun t _ _ => .refl
  | cons o os ih =>
    intro t same hos
    have current : Current t o := by
      rw [← behind_nil s, behind_congr (s := s) (fun c _ => by rw [same]; rfl) (fun b => by rw [same]; exact ⟨rfl, rfl⟩),
        behind_nil]
      exact hos o List.mem_cons_self
    exact (placeOrder_current current).trans
      (ih _ (same.trans (placeOrder_routes o t)) fun x hx => hos x (List.mem_cons_of_mem _ hx))

/-! ## The acts -/

/-- A line that carries the full set says what holds, whatever came before. -/
theorem Abreast.of_fullSet {s t : State} (h : routeOrders t = fullSet t)
    (busy : t.gen.routeSending = none → t.gen.routeList = []) : Abreast s t := by
  have mem : ∀ o, o ∈ routeOrders t ↔ Current t o := fun o => by rw [h, mem_fullSet]
  refine abreast_iff.mpr ⟨fun _ => ⟨?_, busy⟩, fun _ _ => ⟨fun o ho => ?_, fun o ho => .inl ?_⟩, fun o ho => .inr ?_⟩
  · have once := fullSet_once t
    rw [← h] at once
    exact (List.pairwise_append.mp once).2.1
  · exact (mem o).mp (List.mem_append_right _ ho)
  · exact (mem o).mp (List.mem_append_left _ (by simp [ho]))
  · exact (mem o).mpr ho

/-- The point of a general reset at which the route line is handed its full set. -/
def resetBase (kind : RestartKind) (cleared : Bool) (s : State) : State :=
  let s := { s with gen := General.quiet s.ret }
  { s with
    gen.ports := ⟨portAtCompletion s kind cleared .console, portAtCompletion s kind cleared .desk1,
      portAtCompletion s kind cleared .desk2⟩ }

/-- What a general reset does once the route line has its full set. -/
def resetEnd (kind : RestartKind) (cleared : Bool) (s : State) : State :=
  let s := if cleared then s else { s with ret.dirSeq := wrapNext Config.smallMax s.ret.dirSeq }
  { dirBegin s with gen.start := ⟨kind, cleared⟩ }

theorem generalReset_eq (kind : RestartKind) (cleared : Bool) (s : State) : generalReset kind cleared s =
    resetEnd kind cleared (placeAll (fullSet (resetBase kind cleared s)) (resetBase kind cleared s)) := by
  unfold generalReset resetEnd resetBase
  dsimp only

theorem resetEnd_line (kind : RestartKind) (cleared : Bool) (s : State) :
    (resetEnd kind cleared s).gen.routeSending = s.gen.routeSending ∧
      (resetEnd kind cleared s).gen.routeList = s.gen.routeList ∧ fullSet (resetEnd kind cleared s) = fullSet s := by
  cases cleared <;> exact ⟨rfl, rfl, rfl⟩

theorem generalReset_line (kind : RestartKind) (cleared : Bool) (s : State) :
    routeOrders (generalReset kind cleared s) = fullSet (generalReset kind cleared s) ∧
      ((generalReset kind cleared s).gen.routeSending = none → (generalReset kind cleared s).gen.routeList = []) := by
  rw [generalReset_eq]
  generalize hu : resetBase kind cleared s = u
  have empty : u.gen.routeSending = none ∧ u.gen.routeList = [] := by rw [← hu]; exact ⟨rfl, rfl⟩
  obtain ⟨orders, idle⟩ := placeAll_orders (fullSet u) u (fun _ => empty.2) (fullSet_once u)
    (by rw [empty.2]; nofun)
  have same := placeAll_routes (fullSet u) u
  have set : fullSet (placeAll (fullSet u) u) = fullSet u := fullSet_of_sameRoutes same
  have now : routeOrders u = [] := by unfold routeOrders; rw [empty.1, empty.2]; rfl
  rw [now, List.nil_append] at orders
  obtain ⟨hs, hl, hf⟩ := resetEnd_line kind cleared (placeAll (fullSet u) u)
  unfold routeOrders at orders ⊢
  rw [hs, hl, hf]
  exact ⟨orders.trans set.symm, idle⟩

theorem countBlocks_abreast (s : State) : Abreast s (countBlocks s) := by
  refine .of_same (by rw [countBlocks_keeps]) (by rw [countBlocks_keeps]) (fun c => ?_) fun b => ?_
  · have settings : (countBlocks s).settings c = s.settings c := by unfold State.settings; rw [countBlocks_keeps]
    have override : (countBlocks s).gen.override = s.gen.override := by rw [countBlocks_keeps]
    have source : ((countBlocks s).chan c).source = (s.chan c).source := by
      unfold countBlocks countSlots
      simp only [State.chan, Bank.get_build, countHold]
      split <;> rfl
    unfold effectiveRoute
    rw [settings, override, source]
  · unfold State.booth
    rw [countBlocks_keeps]
    exact ⟨rfl, rfl⟩

/-- The part of the state that the route line and what it says are read from. -/
def matrixPart (s : State) :=
  (s.gen.routeSending, s.gen.routeList, s.gen.chans, s.ret.plan, s.gen.override, s.gen.booths)

theorem Abreast.of_part {s t u : State} (ht : t = u) (h : matrixPart u = matrixPart s) : Abreast s t := by
  subst ht
  simp only [matrixPart, Prod.mk.injEq] at h
  obtain ⟨hs, hl, hc, hp, ho, hb⟩ := h
  exact .of_fields hs hl hc hp ho hb

/-- An act keeps the line abreast, or takes the order sent from it, or empties it. -/
theorem Act.line_cases {drops : Prop} {s t : State} (act : Act drops s t) :
    Abreast s t ∨ (drops ∧ (t = routeBegin { s with gen.routeSending := none } ∨
      (t.gen.routeSending = none ∧ t.gen.routeList = []))) := by
  cases act with
  | aside a => exact .inl (.of_part a rfl)
  | ports op => exact .inl (.of_ports op.ports)
  | hall op => exact .inl op.deeds.abreast
  | booths op => exact .inl op.abreast
  | plan op => exact .inl op.abreast
  | books op => exact .inl (.of_part op.sameButBooks rfl)
  | jobs op => exact .inl (.of_part op.keeps rfl)
  | reset op =>
    cases op with
    | off h | stopped h => exact .inr ⟨h, .inr ⟨rfl, rfl⟩⟩
    | cleared _ _ _ h => exact .inr ⟨h, .inr ⟨rfl, rfl⟩⟩
    | general kind cleared =>
      obtain ⟨orders, busy⟩ := generalReset_line kind cleared s
      exact .inl (.of_fullSet orders busy)
    | port p => exact .inl (.of_part rfl rfl)
  | directory before => exact .inl (.of_part (dirAfter_directory before s) rfl)
  | refresh => exact .inl (placeAll_current s)
  | orderSent h => exact .inr ⟨h, .inl rfl⟩
  | count => exact .inl (countBlocks_abreast s)
  | session => exact .inl (.of_part (openSession_keeps s) rfl)
  | _ => exact .inl (.of_part rfl rfl)

theorem Act.abreast {s t : State} (act : Act False s t) : Abreast s t := act.line_cases.resolve_right fun h => h.1

theorem HireOp.abreast {s t : State} (op : HireOp s t) : Abreast s t := .of_part op.keeps rfl

/-- The end of an order's transmission: the line begins the next. -/
theorem orderSent_keeps {s : State} (listed : RouteListed s) (told : MatrixAgrees s) :
    RouteListed (routeBegin { s with gen.routeSending := none }) ∧
      MatrixAgrees (routeBegin { s with gen.routeSending := none }) := by
  have begun : Told (Current s) (routeBegin { s with gen.routeSending := none }) :=
    routeBegin_told ⟨told.unsent, nofun⟩
  rcases routeBegin_cases { s with gen.routeSending := none } with ⟨_, o, rest, hl, e⟩ | ⟨idle, e⟩ <;> rw [e] at begun ⊢
  · have hl : s.gen.routeList = o :: rest := hl
    exact ⟨⟨(List.pairwise_cons.mp (hl ▸ listed.once)).2, nofun⟩, begun.unsent, begun.sending⟩
  · exact ⟨⟨listed.once, fun _ => idle.resolve_left (by simp)⟩, begun.unsent, begun.sending⟩

theorem quiet_line {s : State} (hs : s.gen.routeSending = none) (hl : s.gen.routeList = []) :
    RouteListed s ∧ MatrixAgrees s :=
  ⟨⟨by rw [hl]; exact .nil, fun _ => hl⟩, by rw [hl]; nofun, by rw [hs]; nofun⟩

theorem Abreast.line {s t : State} (h : Abreast s t) (hs : RouteListed s ∧ MatrixAgrees s) :
    RouteListed t ∧ MatrixAgrees t := by
  have ordered := abreast_iff.mp h
  exact ⟨ordered.listed hs.1, (told_current t).mp (ordered.told hs.1 ((told_current s).mpr hs.2))⟩

/-- Settles O51: every act either keeps the line abreast of what holds, or takes the order sent from it, or empties it. -/
theorem routeLineIsKept : Obligations.RouteLineIsKept := by
  intro s t hstep listed told
  refine step_keeps (P := fun s => RouteListed s ∧ MatrixAgrees s) hstep
    (fun _ hs => ⟨⟨hs.1.once, hs.1.busy⟩, hs.2.unsent, hs.2.sending⟩) (fun _ u v act hu => ?_)
    (fun _ _ change hu => change.abreast.line hu) ⟨listed, told⟩
  rcases act.line_cases with abreast | ⟨_, rfl | ⟨idle, empty⟩⟩
  · exact abreast.line hu
  · exact orderSent_keeps hu.1 hu.2
  · exact quiet_line idle empty

theorem Course.abreast {s t : State} (h : Course False s t) : Abreast s t :=
  h.keeps (P := Abreast s) (fun _ _ act k => k.trans act.abreast) (fun _ _ change k => k.trans change.abreast) .refl

/-- What has come to hold between two states is on the line. -/
theorem Abreast.changes {s t : State} (h : Abreast s t) :
    (∀ c, effectiveRoute t c ≠ effectiveRoute s c → .route c (effectiveRoute t c) ∈ routeOrders t) ∧
    (∀ b, (t.booth b).effective ≠ (s.booth b).effective → .listen b (t.booth b).effective ∈ routeOrders t) ∧
    (∀ b, (t.booth b).muted ≠ (s.booth b).muted → .mute b (t.booth b).muted ∈ routeOrders t) := by
  have new : ∀ o, Current t o → ¬ Current s o → o ∈ routeOrders t := fun o ht hs =>
    ((abreast_iff.mp h).follows o ht).resolve_left fun old => hs old.1
  exact ⟨fun c ne => new (.route c _) rfl ne, fun b ne => new (.listen b _) rfl ne, fun b ne => new (.mute b _) rfl ne⟩

/-- The order sent leaves everything but the line as it was. -/
theorem orderSent_currents (s : State) (o : RouteOrder) :
    Current (routeBegin { s with gen.routeSending := none }) o ↔ Current s o := by
  have same : SameRoutes s (routeBegin { s with gen.routeSending := none }) :=
    SameRoutes.trans (t := { s with gen.routeSending := none }) rfl (routeBegin_routes _)
  rw [← behind_nil s, ← behind_nil s]
  exact behind_congr (fun c _ => by rw [same]; rfl) (fun b => by rw [same]; exact ⟨rfl, rfl⟩) o

theorem running_iff {s : State} : s.running = true ↔ s.supply = .main ∧ s.lineAsserted = false := by
  simp [State.running]

/-- The commands of the supplies and the reset line change nothing of a running domain that they leave running. -/
theorem exec_stopping {i : Instr} {s t : State} (hs : s.running = true) (ht : t.running = true) (h : exec i s = .next t)
    (hi : i = .powerOn ∨ i = .mainSupplyFail ∨ i = .backupDomainPowerLoss ∨ i = .resetLineAssert) : t = s := by
  obtain ⟨main, released⟩ := running_iff.mp hs
  obtain ⟨main', released'⟩ := running_iff.mp ht
  rcases hi with rfl | rfl | rfl | rfl
  · simp only [exec, execPowerOn, main, if_true] at h
    cases h
    rfl
  · simp only [exec, execMainSupplyFail, main, if_true] at h
    cases h
    cases main'
  · simp only [exec, execBackupDomainPowerLoss] at h
    cases h
    cases main'
  · simp only [exec, execResetLineAssert, released, Bool.false_eq_true, if_false] at h
    cases h
    cases released'

/-- Where what holds stands, no change wants an order. -/
theorem changes_of_same {s t : State} (h : ∀ o, Current t o ↔ Current s o) :
    (∀ c, effectiveRoute t c ≠ effectiveRoute s c → .route c (effectiveRoute t c) ∈ routeOrders t) ∧
    (∀ b, (t.booth b).effective ≠ (s.booth b).effective → .listen b (t.booth b).effective ∈ routeOrders t) ∧
    (∀ b, (t.booth b).muted ≠ (s.booth b).muted → .mute b (t.booth b).muted ∈ routeOrders t) :=
  ⟨fun c ne => absurd ((h (.route c _)).mp rfl) ne, fun b ne => absurd ((h (.listen b _)).mp rfl) ne,
    fun b ne => absurd ((h (.mute b _)).mp rfl) ne⟩

/-- Settles O52: whatever a command changes, it places the orders for, save the commands that stop the domain, and the end of an
order's transmission, which changes nothing that an order names. -/
theorem changesAreOrdered : Obligations.ChangesAreOrdered := by
  intro i s t hs due h ht
  by_cases stops : i = .powerOn ∨ i = .mainSupplyFail ∨ i = .backupDomainPowerLoss ∨ i = .resetLineAssert
  · rw [exec_stopping hs ht h stops]
    exact changes_of_same fun _ => Iff.rfl
  · by_cases sent : i = .routeOrderSent
    · subst sent
      have awake : Awake s := ⟨hs, due.resolve_right nofun⟩
      simp only [exec, execRouteOrderSent, taking_awake awake] at h
      cases h
      refine changes_of_same fun o => ?_
      split
      · exact orderSent_currents s o
      · exact Iff.rfl
    · have kept : dropsOrders i = False := by cases i <;> first | rfl | simp at stops sent
      exact Abreast.changes (kept ▸ exec_course h).abreast

end Sys2Proof.Machine
end

section
/-! SUPPORT. Listening sources: what each act makes of them: the settlement of O49. -/

namespace Sys2Proof.Machine
open Sys2Proof

/-! ## One booth -/

/-- A booth's effective source and auto-floor hold follow its chosen source (R74, R75). -/
def Listens (s : State) (b : Booth) : Prop :=
  match s.boothSettings b with
  | none => (s.booth b).chosen = .floor ∧ (s.booth b).effective = .floor ∧ (s.booth b).autoHold = false
  | some k => ((s.booth b).effective, (s.booth b).autoHold) = derivedListen k (s.booth b).chosen s

theorem listeningAgrees_iff (s : State) : ListeningAgrees s ↔ ∀ b, Listens s b := by
  refine forall_congr' fun b => ?_
  unfold Listens derivedListen
  cases s.boothSettings b with
  | none => exact Iff.rfl
  | some k =>
    cases (s.booth b).chosen with
    | floor => simp
    | channel r =>
      by_cases h : k.autoFloor = true ∧ (s.chan r).coverage = .uncovered
      · simp [h]
      · simp [h]

/-- What the derivation reads of a channel is its coverage. -/
theorem derivedListen_congr {s t : State} {k : BoothSettings} {x : Listen}
    (h : ∀ r, x = .channel r → (t.chan r).coverage = (s.chan r).coverage) : derivedListen k x t = derivedListen k x s := by
  unfold derivedListen
  split
  · rfl
  · next r => rw [h r rfl]

theorem Listens.of_same {s t : State} {b : Booth} (hb : t.boothSettings b = s.boothSettings b)
    (hc : (t.booth b).chosen = (s.booth b).chosen) (he : (t.booth b).effective = (s.booth b).effective)
    (hh : (t.booth b).autoHold = (s.booth b).autoHold)
    (cover : ∀ r, (s.booth b).chosen = .channel r → (t.chan r).coverage = (s.chan r).coverage) (h : Listens s b) :
    Listens t b := by
  unfold Listens at *
  rw [hb, hc, he, hh]
  split
  · next e => rw [e] at h; exact h
  · next k e =>
    rw [e] at h
    rw [derivedListen_congr cover]
    exact h

/-- The sources and the auto-floor hold of a booth stand. -/
structure SameListening (l m : BoothLive) : Prop where
  chosen : m.chosen = l.chosen
  effective : m.effective = l.effective
  autoHold : m.autoHold = l.autoHold

theorem SameListening.refl (l : BoothLive) : SameListening l l := ⟨rfl, rfl, rfl⟩
theorem SameSources.listening {l m : BoothLive} (h : SameSources l m) : SameListening l m :=
  ⟨h.chosen, h.effective, h.autoHold⟩

/-! ## Booths that wait for their sources -/

/-- Every booth's sources are right, but for booths `b` that chose a channel `c` with `waits b c`. -/
def ListensBut (waits : Booth → Chan → Prop) (s : State) : Prop :=
  ∀ b, Listens s b ∨ ((s.boothSettings b).isSome = true ∧ ∃ c, waits b c ∧ (s.booth b).chosen = .channel c)

/-- No booth waits. -/
abbrev noneWaits : Booth → Chan → Prop := fun _ _ => False

theorem listensBut_none (s : State) : ListensBut noneWaits s ↔ ListeningAgrees s := by
  simp [ListensBut, listeningAgrees_iff]

section
variable {waits waits' : Booth → Chan → Prop} {s t u : State}

theorem ListensBut.mono (h : ListensBut waits s) (le : ∀ b c, waits b c → waits' b c) : ListensBut waits' s := fun b =>
  (h b).imp_right fun ⟨configured, c, hc, chosen⟩ => ⟨configured, c, le b c hc, chosen⟩

theorem Listens.floor_of_unconfigured {b : Booth} (h : Listens s b) (hb : s.boothSettings b = none) :
    (s.booth b).chosen = .floor := by
  unfold Listens at h
  rw [hb] at h
  exact h.1

theorem ListensBut.of_same (h : ListensBut waits s) (hb : t.boothSettings = s.boothSettings)
    (hl : ∀ b, SameListening (s.booth b) (t.booth b))
    (hc : ∀ b c, ¬ waits b c → (t.chan c).coverage = (s.chan c).coverage) : ListensBut waits t := fun b => by
  rw [hb, (hl b).chosen]
  by_cases waiting : (s.boothSettings b).isSome = true ∧ ∃ c, waits b c ∧ (s.booth b).chosen = .channel c
  · exact .inr waiting
  · have listens := (h b).resolve_right waiting
    refine .inl (listens.of_same (congrFun hb b) (hl b).chosen (hl b).effective (hl b).autoHold fun r hr => hc b r fun w => ?_)
    cases none : s.boothSettings b with
    | none => rw [listens.floor_of_unconfigured none] at hr; cases hr
    | some k => exact waiting ⟨by rw [none]; rfl, r, w, hr⟩

end

/-- The part of the state that listening is read from. -/
def listenPart (s : State) := (s.gen.booths, s.gen.chans, s.ret.booths)

theorem ListensBut.of_part {waits : Booth → Chan → Prop} {s t u : State} (h : ListensBut waits s) (ht : t = u)
    (same : listenPart u = listenPart s) : ListensBut waits t := by
  subst ht
  simp only [listenPart, Prod.mk.injEq] at same
  obtain ⟨hb, hc, hs⟩ := same
  refine h.of_same (funext fun b => by unfold State.boothSettings; rw [hs]) (fun b => ?_) fun _ c _ => ?_
  · unfold State.booth; rw [hb]; exact .refl _
  · unfold State.chan; rw [hc]

/-! ### The operations on sources -/

theorem placeOrder_booth (o : RouteOrder) (s : State) (b : Booth) : (placeOrder o s).booth b = s.booth b := by
  rw [placeOrder_routes o s]; rfl

theorem setListen_booth (b d : Booth) (x y : Listen) (hold : Bool) (s : State) : (setListen b x y hold s).booth d =
    if b = d then { s.booth b with chosen := x, effective := y, autoHold := hold } else s.booth d := by
  unfold setListen
  simp only
  split
  · rw [State.setBooth_booth]
  · rw [placeOrder_booth, State.setBooth_booth]

theorem setListen_chan (b : Booth) (x y : Listen) (hold : Bool) (s : State) (c : Chan) :
    (setListen b x y hold s).chan c = s.chan c := by
  unfold setListen
  simp only
  split
  · rfl
  · rw [placeOrder_routes _ _]; rfl

theorem setListen_boothSettings (b : Booth) (x y : Listen) (hold : Bool) (s : State) :
    (setListen b x y hold s).boothSettings = s.boothSettings := by
  funext d
  unfold State.boothSettings
  rw [(setListen_moves ..).ret_keeps]

theorem chooseListen_chan (b : Booth) (x : Listen) (s : State) (c : Chan) : (chooseListen b x s).chan c = s.chan c := by
  unfold chooseListen
  split <;> exact setListen_chan ..

theorem chooseListen_boothSettings (b : Booth) (x : Listen) (s : State) :
    (chooseListen b x s).boothSettings = s.boothSettings := by
  unfold chooseListen
  split <;> exact setListen_boothSettings ..

theorem chooseListen_other {b d : Booth} (x : Listen) (s : State) (h : b ≠ d) :
    (chooseListen b x s).booth d = s.booth d := by
  unfold chooseListen
  split <;> rw [setListen_booth, if_neg h]

/-- A booth whose source is chosen listens to it rightly. -/
theorem chooseListen_listens (b : Booth) (x : Listen) (s : State) : Listens (chooseListen b x s) b := by
  unfold Listens
  rw [chooseListen_boothSettings]
  split
  · next e => simp [chooseListen, e, setListen_booth]
  · next k e =>
    rw [derivedListen_congr (s := s) (fun r _ => by rw [chooseListen_chan])]
    simp [chooseListen, e, setListen_booth]

theorem ListensBut.chooseListen {waits : Booth → Chan → Prop} {s : State} (b : Booth) (x : Listen)
    (h : ∀ d, d ≠ b → Listens s d ∨ ((s.boothSettings d).isSome = true ∧ ∃ c, waits d c ∧ (s.booth d).chosen = .channel c)) :
    ListensBut waits (chooseListen b x s) := fun d => by
  by_cases e : b = d
  · subst e; exact .inl (chooseListen_listens b x s)
  · rw [chooseListen_other x s e, chooseListen_boothSettings]
    have same := chooseListen_other x s e
    refine (h d (Ne.symm e)).imp_left fun listens => listens.of_same ?_ (by rw [same]) (by rw [same]) (by rw [same])
      fun r _ => by rw [chooseListen_chan]
    exact congrFun (chooseListen_boothSettings b x s) d

/-- A run over the booths that chooses anew for each one that listens to `r` leaves none waiting for `r`. -/
theorem ListensBut.settle {waits : Booth → Chan → Prop} {r : Chan} {f : State → Booth → State}
    (hf : ∀ t b, (f t b = t ∧ ((t.boothSettings b).isSome = true → (t.booth b).chosen ≠ .channel r)) ∨
      ∃ x u, f t b = u ∧ listenPart u = listenPart (Machine.chooseListen b x t)) {s : State}
    (h : ListensBut (fun b c => waits b c ∨ c = r) s) : ListensBut waits ((List.finRange 32).foldl f s) := by
  suffices run : ∀ (bs : List Booth) (t : State), ListensBut (fun b c => waits b c ∨ (b ∈ bs ∧ c = r)) t →
      ListensBut waits (bs.foldl f t) from
    run _ s (h.mono fun b c w => w.imp_right fun e => ⟨List.mem_finRange b, e⟩)
  intro bs
  induction bs with
  | nil => exact fun t ht => ht.mono fun b c w => w.resolve_right nofun
  | cons b bs ih =>
    refine fun t ht => ih _ ?_
    rcases hf t b with ⟨e, other⟩ | ⟨x, u, e, part⟩ <;> rw [e]
    · refine fun d => (ht d).imp_right fun ⟨configured, c, w, chosen⟩ => ⟨configured, c, w.imp_right ?_, chosen⟩
      rintro ⟨mem, rfl⟩
      refine ⟨(List.mem_cons.mp mem).resolve_left fun same => ?_, rfl⟩
      subst same
      exact other configured chosen
    · refine ListensBut.of_part (ListensBut.chooseListen b x fun d hd => ?_) rfl part
      refine (ht d).imp_right fun ⟨configured, c, w, chosen⟩ => ⟨configured, c, w.imp_right ?_, chosen⟩
      exact fun ⟨mem, e⟩ => ⟨(List.mem_cons.mp mem).resolve_left hd, e⟩

theorem notify_listenPart (n : NoticeBody) (s : State) : listenPart (notify n s) = listenPart s := by
  rw [notify_ports n s]; rfl

theorem relayFollow_settles {waits : Booth → Chan → Prop} {r : Chan} {s : State}
    (h : ListensBut (fun b c => waits b c ∨ c = r) s) : ListensBut waits (relayFollow r s) := by
  refine ListensBut.settle (fun t b => ?_) h
  unfold followOne
  simp only
  split
  · refine .inr ⟨.channel r, _, rfl, ?_⟩
    split
    · exact notify_listenPart ..
    · rfl
  · next other =>
    refine .inl ⟨rfl, fun configured chosen => other ?_⟩
    simp [configured, chosen]

theorem relayUnassigned_settles {waits : Booth → Chan → Prop} {r : Chan} {s : State}
    (h : ListensBut (fun b c => waits b c ∨ c = r) s) : ListensBut waits (relayUnassigned r s) := by
  refine ListensBut.settle (fun t b => ?_) h
  split
  · exact .inr ⟨.floor, _, rfl, rfl⟩
  · next other => exact .inl ⟨rfl, fun _ => other⟩

theorem chooseListen_keeps {waits : Booth → Chan → Prop} {s : State} (h : ListensBut waits s) (b : Booth) (x : Listen) :
    ListensBut waits (chooseListen b x s) := ListensBut.chooseListen b x fun d _ => h d

theorem relayUnproduced_keeps {waits : Booth → Chan → Prop} {s : State} (h : ListensBut waits s) :
    ListensBut waits (relayUnproduced s) := by
  unfold relayUnproduced
  simp only
  generalize relayArcs s = arcs
  generalize List.finRange 32 = bs
  induction bs generalizing s with
  | nil => exact h
  | cons b bs ih =>
    refine ih ?_
    dsimp only
    split
    · split
      · exact h
      · exact chooseListen_keeps h b .floor
    · exact h

/-! ## The acts -/

theorem routeAfter_listenPart (before : State) (c : Chan) (s : State) :
    listenPart (routeAfter before c s) = listenPart s := by
  rw [routeAfter_routes before c s]; rfl

theorem coverageChange_listens {waits : Booth → Chan → Prop} (c : Chan) (x : ChanLive) {f : State → State} (hf : Tells f)
    {s : State} (h : ListensBut waits s) : ListensBut waits (coverageChange c x f s) := by
  refine relayFollow_settles ?_
  have written : ListensBut (fun b d => waits b d ∨ d = c) (s.setChan c x) :=
    (h.mono fun _ _ => .inl).of_same rfl (fun _ => .refl _) fun b d w => by
      rw [State.setChan_chan, if_neg fun e => w (.inr e.symm)]
  refine written.of_part rfl ?_
  rcases hf (routeAfter s c (s.setChan c x)) with e | ⟨n, _, e⟩ <;> rw [e]
  · exact routeAfter_listenPart ..
  · exact (notify_listenPart ..).trans (routeAfter_listenPart ..)

theorem setBooth_listening {b : Booth} {l : BoothLive} {s : State} (h : SameListening (s.booth b) l) (d : Booth) :
    SameListening (s.booth d) ((s.setBooth b l).booth d) := by
  rw [State.setBooth_booth]
  split
  · next e => exact e ▸ h
  · exact .refl _

section
variable {waits : Booth → Chan → Prop} {s t : State}

theorem ListensBut.setBooth {b : Booth} {l : BoothLive} (same : SameListening (s.booth b) l) (h : ListensBut waits s) :
    ListensBut waits (s.setBooth b l) := h.of_same rfl (setBooth_listening same) fun _ _ _ => rfl

theorem syncMute_listens (b : Booth) (h : ListensBut waits s) : ListensBut waits (syncMute b s) := by
  unfold syncMute
  simp only
  split
  · exact h
  · generalize hl : BoothLive.mk _ _ _ _ _ _ _ _ _ _ = l
    have same : SameListening (s.booth b) l := by rw [← hl]; exact ⟨rfl, rfl, rfl⟩
    exact (h.setBooth same).of_part (placeOrder_routes ..) rfl

theorem Deeds.listens (deeds : Deeds s t) (h : ListensBut waits s) : ListensBut waits t := by
  induction deeds with
  | refl => exact h
  | cover c x f hf _ ih => exact coverageChange_listens c x hf ih
  | @hold t c x _ ih =>
    have written : ListensBut waits (t.setChan c { t.chan c with holder := some x, source := .booth x.booth }) :=
      ih.of_same rfl (fun _ => .refl _) fun _ d _ => by
        rw [State.setChan_chan]
        split
        · next e => rw [e]
        · rfl
    exact written.of_part rfl (routeAfter_listenPart ..)
  | seats b l same _ ih => exact syncMute_listens b (ih.setBooth same.listening)
  | booth b l same _ _ ih => exact ih.setBooth same.listening
  | acc b k x _ _ ih => exact ih.of_part rfl rfl
  | offer c x _ ih => exact ih.of_part rfl rfl
  | notice n _ _ ih => exact ih.of_part rfl (notify_listenPart ..)

/-- A booth's settings written while it listens to the floor. -/
theorem floor_listens (b : Booth) (x : Option BoothSettings) (h : ListensBut waits s) :
    ListensBut waits ((setListen b .floor .floor false s).setBoothSettings b x) := fun d => by
  have chan : ∀ c, (((setListen b .floor .floor false s).setBoothSettings b x).chan c) = s.chan c := fun c =>
    setListen_chan ..
  have booth : ((setListen b .floor .floor false s).setBoothSettings b x).booth d = _ := setListen_booth ..
  by_cases e : b = d
  · subst e
    refine .inl ?_
    unfold Listens
    rw [booth, if_pos rfl, State.setBoothSettings_same]
    cases x <;> simp [derivedListen]
  · have settings : ((setListen b .floor .floor false s).setBoothSettings b x).boothSettings d = s.boothSettings d := by
      rw [State.setBoothSettings_boothSettings, if_neg e, setListen_boothSettings]
    rw [booth, if_neg e, settings]
    rw [if_neg e] at booth
    exact (h d).imp_left fun listens =>
      listens.of_same settings (by rw [booth]) (by rw [booth]) (by rw [booth]) fun r _ => by rw [chan]

theorem voidCycle_listens (b : Booth) (h : ListensBut waits s) : ListensBut waits (voidCycle b s) :=
  h.of_part (voidCycle_cycle b s) rfl

theorem BoothOp.listens (op : BoothOp s t) (h : ListensBut waits s) : ListensBut waits t := by
  cases op with
  | choose b m x _ _ => exact chooseListen_keeps h b x
  | configure b m args _ _ _ =>
    unfold configureBooth
    have withdrawn := (withdrawAll_deeds b s).listens h
    refine relayUnproduced_keeps (voidCycle_listens b (floor_listens b (some m) (withdrawn.setBooth ?_)))
    exact ⟨rfl, rfl, rfl⟩
  | clear b =>
    unfold clearBooth
    have lost := (seatLoss_deeds b s).listens h
    refine relayUnproduced_keeps (voidCycle_listens b (floor_listens b none (lost.setBooth ?_)))
    exact ⟨rfl, rfl, rfl⟩

/-- After the writes of a CHAN_ASSIGN, the booths that chose a channel whose coverage changed wait. -/
theorem assignWrites_listens (a : Assign) (h : ListeningAgrees s) :
    ListensBut (fun _ c => (False ∨ (c = a.target ∧ (a.slot = none ∨ (s.settings a.target).slot ≠ a.slot))) ∨
      movedFrom s a = some c) (assignWrites a s) := by
  have keeps := assignWrites_keeps a s
  have booths : (assignWrites a s).ret.booths = s.ret.booths := congrArg (fun x => x.ret.booths) keeps
  have live : (assignWrites a s).gen.booths = s.gen.booths := congrArg (fun x => x.gen.booths) keeps
  refine (((listensBut_none s).mpr h).mono (fun _ _ => False.elim)).of_same ?_ (fun b => ?_) fun _ c still => ?_
  · unfold State.boothSettings; rw [booths]
  · unfold State.booth; rw [live]; exact .refl _
  · rw [assignWrites_chan]
    by_cases target : a.target = c
    · subst target
      have stands : a.slot ≠ none ∧ (s.settings a.target).slot = a.slot := by
        simp only [true_and, false_or, not_or, not_not] at still
        exact ⟨still.1.1, still.1.2⟩
      obtain ⟨k, hk⟩ := Option.ne_none_iff_exists'.mp stands.1
      unfold targetLive
      rw [if_pos rfl, stands.2, hk]
      simp only [if_true]
      split <;> rfl
    · have stays : movedFrom s a ≠ some c := fun e => still (.inr e)
      simp [target, stays]

theorem closeLeft_listenPart (a : Assign) (before s : State) : listenPart (closeLeft a before s) = listenPart s := by
  rw [(closeLeft_books a before s).keeps]; rfl

theorem applyAssign_listens (a : Assign) (h : ListeningAgrees s) : ListeningAgrees (applyAssign a s) := by
  rw [applyAssign, assignEffects_eq]
  have written := assignWrites_listens a h
  have settled : ListensBut (fun _ c => False ∨ (c = a.target ∧ (a.slot = none ∨ (s.settings a.target).slot ≠ a.slot)))
      (settleLeft a s (assignWrites a s)) := by
    unfold settleLeft
    split
    · next c hm =>
      refine relayUnassigned_settles (ListensBut.of_part (s := assignWrites a s) (written.mono fun _ d w => w.imp_right fun e => ?_) rfl
        (routeAfter_listenPart ..))
      rw [hm] at e
      exact (Option.some.inj e).symm
    · next hm => exact written.mono fun _ d w => w.resolve_right (by rw [hm]; nofun)
  have closed := (settled.of_part (t := routeAfter s a.target (settleLeft a s (assignWrites a s))) rfl
    (routeAfter_listenPart ..)).of_part (t := closeLeft a s (routeAfter s a.target (settleLeft a s (assignWrites a s)))) rfl
    (closeLeft_listenPart ..)
  rw [← listensBut_none]
  unfold handTarget
  split
  · exact relayUnassigned_settles (closed.mono fun _ c w => w.imp_right fun e => e.1)
  · next k hk =>
    split
    · next same =>
      refine closed.mono fun _ c w => w.resolve_right fun e => ?_
      rw [same, hk] at e
      simp at e
    · have followed : ListensBut noneWaits _ := relayFollow_settles (closed.mono fun _ c w => w.imp_right fun e => e.1)
      split
      · exact (uncover_deeds ..).listens followed
      · exact followed

theorem PlanOp.listens (op : PlanOp s t) (h : ListeningAgrees s) : ListeningAgrees t := by
  cases op with
  | define slot tag label =>
    unfold defineLanguage
    (repeat' split) <;> exact h
  | remove slot =>
    unfold removeLanguage
    (repeat' split) <;> exact h
  | assign target args a _ _ => exact applyAssign_listens a h
  | override on =>
    have moved := ((listensBut_none s).mpr h).of_part (t := { s with gen.override := on }) rfl rfl
    rw [← listensBut_none]
    unfold setOverride
    split
    · exact (listensBut_none s).mpr h
    · suffices run : ∀ (cs : List Chan) (u : State), ListensBut noneWaits u →
          ListensBut noneWaits (cs.foldl (fun t c => routeAfter s c t) u) from run _ _ moved
      intro cs
      induction cs with
      | nil => exact fun u hu => hu
      | cons c cs ih => exact fun u hu => ih _ (hu.of_part rfl (routeAfter_listenPart ..))

/-- While every booth listens to the floor, and was set to, its sources are right. -/
theorem listens_of_floor (h : ∀ b, (s.booth b).chosen = .floor ∧ (s.booth b).effective = .floor ∧ (s.booth b).autoHold = false) :
    ListeningAgrees s := by
  rw [listeningAgrees_iff]
  intro b
  obtain ⟨hc, he, ha⟩ := h b
  unfold Listens derivedListen
  rw [hc, he, ha]
  split <;> exact (by first | exact ⟨rfl, rfl, rfl⟩ | rfl)

theorem placeAll_booth (os : List RouteOrder) (s : State) (b : Booth) : (placeAll os s).booth b = s.booth b := by
  rw [placeAll_routes os s]; rfl

theorem resetEnd_booth (kind : RestartKind) (cleared : Bool) (s : State) (b : Booth) :
    (resetEnd kind cleared s).booth b = s.booth b := by cases cleared <;> rfl

/-- A general reset leaves every booth as its settings give it. -/
theorem generalReset_booth (kind : RestartKind) (cleared : Bool) (s : State) (b : Booth) :
    (generalReset kind cleared s).booth b = BoothLive.afterReset (s.boothSettings b) := by
  rw [generalReset_eq, resetEnd_booth, placeAll_booth]
  exact Bank.get_map ..

theorem quiet_booth (s : State) (b : Booth) (h : s.gen = General.quiet s.ret) :
    s.booth b = BoothLive.afterReset (s.boothSettings b) := by
  unfold State.booth
  rw [h]
  exact Bank.get_map ..

theorem ResetOp.listens {drops : Prop} (op : ResetOp drops s t) (h : ListeningAgrees s) : ListeningAgrees t := by
  have reset : ∀ {u : State}, (∀ b, ∃ x, u.booth b = BoothLive.afterReset x) → ListeningAgrees u := fun booths =>
    listens_of_floor fun b => by
      obtain ⟨x, e⟩ := booths b
      rw [e]
      exact ⟨rfl, rfl, rfl⟩
  cases op with
  | off | cleared => exact reset fun b => ⟨_, quiet_booth _ b rfl⟩
  | stopped => exact h
  | general kind cleared => exact reset fun b => ⟨_, generalReset_booth kind cleared s b⟩
  | port p => exact h

theorem countBlocks_coverage (s : State) (c : Chan) : ((countBlocks s).chan c).coverage = (s.chan c).coverage := by
  unfold countBlocks countSlots
  simp only [State.chan, Bank.get_build, countHold]
  split <;> rfl

theorem Act.listens {drops : Prop} (act : Act drops s t) (h : ListeningAgrees s) : ListeningAgrees t := by
  have agrees := (listensBut_none s).mpr h
  have part : ∀ {u v : State}, u = v → listenPart v = listenPart s → ListeningAgrees u := fun e same =>
    (listensBut_none _).mp (agrees.of_part e same)
  cases act with
  | aside a => exact part a rfl
  | ports op => exact part op.ports rfl
  | hall op => exact (listensBut_none t).mp (op.deeds.listens agrees)
  | booths op => exact (listensBut_none t).mp (op.listens agrees)
  | plan op => exact op.listens h
  | books op => exact part op.sameButBooks rfl
  | jobs op => exact part op.keeps rfl
  | reset op => exact op.listens h
  | directory before => exact part (dirAfter_directory before s) rfl
  | refresh =>
    generalize fullSet s = os
    exact part (placeAll_routes os s) rfl
  | orderSent =>
    exact part (SameRoutes.trans (t := { s with gen.routeSending := none }) rfl (routeBegin_routes _)) rfl
  | count =>
    refine (listensBut_none _).mp (agrees.of_same ?_ (fun b => ?_) fun _ c _ => countBlocks_coverage s c)
    · unfold State.boothSettings; rw [countBlocks_keeps]
    · unfold State.booth; rw [countBlocks_keeps]; exact .refl _
  | session => exact part (openSession_keeps s) rfl
  | _ => exact part rfl rfl

theorem HireOp.listens (op : HireOp s t) (h : ListeningAgrees s) : ListeningAgrees t :=
  (listensBut_none t).mp (((listensBut_none s).mpr h).of_part op.keeps rfl)

end

/-- Settles O49: every change of coverage is followed by the booths that chose the channel, and every choice of a source sets the
effective one. -/
theorem listeningIsKept : Obligations.ListeningIsKept := fun _ _ h =>
  step_keeps (P := ListeningAgrees) h (fun _ hs => hs) (fun _ _ _ act => act.listens) (fun _ _ change => change.listens)

end Sys2Proof.Machine
end

section
/-! SUPPORT. The relay graph: its hop counts as the lengths of chains: the settlement of O60. -/

namespace Sys2Proof.Machine
open Sys2Proof

/-! ## One round -/

/-- The largest of the values that the chosen elements of a list bring, from `m` on. -/
theorem foldl_max {α : Type} (p : α → Bool) (g : α → Nat) (l : List α) (m : Nat) :
    m ≤ l.foldl (fun m a => if p a then max m (g a) else m) m ∧
      (∀ a ∈ l, p a = true → g a ≤ l.foldl (fun m a => if p a then max m (g a) else m) m) ∧
      (l.foldl (fun m a => if p a then max m (g a) else m) m = m ∨
        ∃ a ∈ l, p a = true ∧ l.foldl (fun m a => if p a then max m (g a) else m) m = g a) := by
  induction l generalizing m with
  | nil => exact ⟨le_refl m, nofun, .inl rfl⟩
  | cons x l ih =>
    obtain ⟨low, each, attained⟩ := ih (if p x then max m (g x) else m)
    have start : m ≤ if p x then max m (g x) else m := by split <;> omega
    refine ⟨start.trans low, fun a ha hp => ?_, ?_⟩
    · rcases List.mem_cons.mp ha with rfl | ha
      · refine le_trans ?_ low
        rw [if_pos hp]
        exact Nat.le_max_right _ _
      · exact each a ha hp
    · rcases attained with e | ⟨a, ha, hp, e⟩
      · by_cases hp : p x = true
        · rw [if_pos hp] at e
          rcases Nat.le_total (g x) m with h | h
          · exact .inl (by rw [List.foldl_cons, if_pos hp, e, Nat.max_eq_left h])
          · exact .inr ⟨x, List.mem_cons_self, hp, by rw [List.foldl_cons, if_pos hp, e, Nat.max_eq_right h]⟩
        · rw [if_neg hp] at e
          exact .inl (by rw [List.foldl_cons, if_neg hp, e])
      · exact .inr ⟨a, List.mem_cons_of_mem _ ha, hp, e⟩

section
variable {arcs : List RelayArc} {h g : Bank Nat 24} {c : Chan}

theorem hopRound_arc {a : RelayArc} (ha : a ∈ arcs) (hc : c ∈ a.outputs) :
    inputHops h a.input + 1 ≤ (hopRound arcs h).get c := by
  rw [hopRound, Bank.get_build]
  exact (foldl_max (fun a => a.outputs.contains c) (fun a => inputHops h a.input + 1) arcs 0).2.1 a ha (by simpa using hc)

/-- A round gives a channel 0, or one more than the hops into a booth that has it as an output. -/
theorem hopRound_cases (arcs : List RelayArc) (h : Bank Nat 24) (c : Chan) : (hopRound arcs h).get c = 0 ∨
    ∃ a ∈ arcs, c ∈ a.outputs ∧ (hopRound arcs h).get c = inputHops h a.input + 1 := by
  rw [hopRound, Bank.get_build]
  refine (foldl_max (fun a => a.outputs.contains c) (fun a => inputHops h a.input + 1) arcs 0).2.2.imp_right ?_
  exact fun ⟨a, ha, hc, e⟩ => ⟨a, ha, by simpa using hc, e⟩

theorem hopRound_of_unproduced (hc : produced arcs c = false) : (hopRound arcs h).get c = 0 := by
  refine (hopRound_cases arcs h c).resolve_right fun ⟨a, ha, out, _⟩ => ?_
  rw [produced, List.any_eq_false] at hc
  exact hc a ha (by simpa using out)

theorem inputHops_mono (le : ∀ c, h.get c ≤ g.get c) (x : Listen) : inputHops h x ≤ inputHops g x := by
  cases x with
  | floor => exact le_refl 0
  | channel r => exact le r

end

/-! ## The table -/

section
variable {arcs : List RelayArc}

theorem hopTable_le (arcs : List RelayArc) (n : Nat) (c : Chan) : (hopTable arcs n).get c ≤ n := by
  induction n generalizing c with
  | zero => simp [hopTable]
  | succ n ih =>
    rcases hopRound_cases arcs (hopTable arcs n) c with e | ⟨a, _, _, e⟩ <;> rw [hopTable, e]
    · exact Nat.zero_le _
    · cases a.input with
      | floor => simp [inputHops]
      | channel r => exact Nat.succ_le_succ (ih r)

theorem hopTable_mono (arcs : List RelayArc) (n : Nat) (c : Chan) :
    (hopTable arcs n).get c ≤ (hopTable arcs (n + 1)).get c := by
  induction n generalizing c with
  | zero => simp [hopTable]
  | succ n ih =>
    rcases hopRound_cases arcs (hopTable arcs n) c with e | ⟨a, ha, hc, e⟩
    · rw [hopTable, e]; exact Nat.zero_le _
    · rw [hopTable, e]
      exact (Nat.succ_le_succ (inputHops_mono ih a.input)).trans (hopRound_arc ha hc)

/-- An entry that has just grown counts every step so far: a chain still under way. -/
theorem hopTable_grows {n : Nat} {c : Chan} (grows : (hopTable arcs n).get c < (hopTable arcs (n + 1)).get c) :
    (hopTable arcs (n + 1)).get c = n + 1 := by
  induction n generalizing c with
  | zero =>
    have := hopTable_le arcs (0 + 1) c
    omega
  | succ n ih =>
    rcases hopRound_cases arcs (hopTable arcs (n + 1)) c with e | ⟨a, ha, hc, e⟩
    · rw [hopTable, hopTable, e] at grows
      omega
    · have before : inputHops (hopTable arcs n) a.input + 1 ≤ (hopTable arcs (n + 1)).get c := hopRound_arc ha hc
      have now : (hopTable arcs (n + 1 + 1)).get c = inputHops (hopTable arcs (n + 1)) a.input + 1 := e
      cases hi : a.input with
      | floor =>
        rw [hi] at before now
        simp only [inputHops] at before now
        omega
      | channel r =>
        rw [hi] at before now
        simp only [inputHops] at before now
        rw [now, ih (by omega)]

/-! ## Chains and cycles -/

/-- A chain of channels, each linked to the one after it, that ends in `c`. -/
inductive Chain (arcs : List RelayArc) : List Chan → Chan → Prop where
  | single (c : Chan) : Chain arcs [c] c
  | snoc {l : List Chan} {r : Chan} (c : Chan) (h : Chain arcs l r) (hl : links arcs r c) : Chain arcs (c :: l) c

/-- A channel of `n + 1` hops ends a chain of as many channels. -/
theorem exists_chain {n m : Nat} {c : Chan} (h : (hopTable arcs n).get c = m + 1) :
    ∃ l, Chain arcs l c ∧ l.length = m + 1 := by
  induction n generalizing m c with
  | zero => simp [hopTable] at h
  | succ n ih =>
    cases m with
    | zero => exact ⟨[c], .single c, rfl⟩
    | succ m =>
      rcases hopRound_cases arcs (hopTable arcs n) c with e | ⟨a, ha, hc, e⟩
      · rw [hopTable, e] at h; cases h
      · rw [hopTable, e] at h
        cases hi : a.input with
        | floor => rw [hi] at h; simp [inputHops] at h
        | channel r =>
          rw [hi] at h
          obtain ⟨l, chain, length⟩ := ih (m := m) (c := r) (by simpa [inputHops] using h)
          exact ⟨c :: l, .snoc c chain ⟨a, ha, hi, hc⟩, by rw [List.length_cons, length]⟩

theorem Reaches.tail {r m c : Chan} (h : Reaches arcs r m) (k : links arcs m c) : Reaches arcs r c := by
  induction h with
  | one r m hl => exact .more r m c hl (.one m c k)
  | more r n m hl _ ih => exact .more r n c hl (ih k)

/-- Every channel of a chain but its end reaches it. -/
theorem Chain.reaches {l : List Chan} {c d : Chan} (h : Chain arcs l c) (hd : d ∈ l) : d = c ∨ Reaches arcs d c := by
  induction h with
  | single c => exact .inl (List.mem_singleton.mp hd)
  | @snoc l r c _ hl ih =>
    rcases List.mem_cons.mp hd with e | hd
    · exact .inl e
    · exact .inr ((ih hd).elim (fun e => e ▸ .one r c hl) fun reach => reach.tail hl)

/-- A chain that goes through a channel twice goes round a cycle. -/
theorem Chain.cycle {l : List Chan} {c : Chan} (h : Chain arcs l c) (twice : ¬ l.Nodup) : ∃ d, Reaches arcs d d := by
  induction h with
  | single c => exact absurd (List.nodup_singleton c) twice
  | @snoc l r c chain hl ih =>
    by_cases again : c ∈ l
    · exact ⟨c, (chain.reaches again).elim (fun e => .one c c (e ▸ hl)) fun reach => reach.tail hl⟩
    · exact ih fun once => twice (List.nodup_cons.mpr ⟨again, once⟩)

theorem Reaches.last {r c : Chan} (h : Reaches arcs r c) : ∃ m, (m = r ∨ Reaches arcs r m) ∧ links arcs m c := by
  induction h with
  | one r c hl => exact ⟨r, .inl rfl, hl⟩
  | more r m c hl _ ih =>
    obtain ⟨n, hn, last⟩ := ih
    exact ⟨n, .inr (hn.elim (fun e => e ▸ .one r m hl) fun reach => .more r m n hl reach), last⟩

/-- A channel on a cycle through `c` counts every step of the table. -/
theorem hopTable_cycle {c d : Chan} (out : Reaches arcs c d) (back : Reaches arcs d c) (n : Nat) :
    n ≤ (hopTable arcs n).get d := by
  induction n generalizing d with
  | zero => exact Nat.zero_le _
  | succ n ih =>
    obtain ⟨m, hm, a, ha, hi, hd⟩ := out.last
    have fromM : Reaches arcs c m := hm.elim (fun e => e ▸ .more c d c (e ▸ ⟨a, ha, hi, hd⟩) back) id
    have toC : Reaches arcs m c := .more m d c ⟨a, ha, hi, hd⟩ back
    have before := ih fromM toC
    have arc := hopRound_arc (h := hopTable arcs n) ha hd
    rw [hi] at arc
    exact (Nat.succ_le_succ before).trans arc

theorem mem_cells {n x : Nat} (b : Bank Nat n) : x ∈ b.cells ↔ ∃ i, b.get i = x := by
  rw [List.mem_iff_getElem]
  exact ⟨fun ⟨i, hi, e⟩ => ⟨⟨i, b.size ▸ hi⟩, e⟩, fun ⟨i, e⟩ => ⟨i.val, by rw [b.size]; exact i.isLt, e⟩⟩

theorem hasCycle_iff_get (arcs : List RelayArc) : hasCycle arcs = true ↔ ∃ c, 24 < (hops arcs).get c := by
  simp [hasCycle, List.any_eq_true, mem_cells]

/-- Without a cycle the table has settled. -/
theorem hops_settled (h : hasCycle arcs = false) (c : Chan) : (hops arcs).get c = (hopRound arcs (hops arcs)).get c := by
  have short : ∀ d, (hops arcs).get d ≤ 24 := fun d => by
    by_contra long
    have := (hasCycle_iff_get arcs).mpr ⟨d, by omega⟩
    rw [h] at this
    cases this
  refine Nat.le_antisymm (hopTable_mono arcs 25 c) (Nat.le_of_not_lt fun grows => ?_)
  have all := hopTable_grows (n := 25) grows
  rcases hopRound_cases arcs (hopTable arcs 25) c with e | ⟨a, _, _, e⟩
  · rw [hopTable, e] at all; cases all
  · rw [hopTable, e] at all
    cases hi : a.input with
    | floor => rw [hi] at all; simp [inputHops] at all
    | channel r =>
      rw [hi] at all
      have := short r
      simp only [inputHops, hops] at all this
      omega

/-- Settles O60: a long chain over 24 channels goes round, a cycle makes long chains, and without one the table has settled. -/
theorem relayGraphIsJudged : Obligations.RelayGraphIsJudged := by
  intro arcs
  refine ⟨⟨fun cyclic => ?_, fun ⟨c, reach⟩ => ?_⟩, fun acyclic c => ⟨fun out => ?_, fun a ha hc => ?_, fun out => ?_⟩⟩
  · obtain ⟨c, long⟩ := (hasCycle_iff_get arcs).mp cyclic
    have full : (hopTable arcs 25).get c = 24 + 1 := Nat.le_antisymm (hopTable_le arcs 25 c) long
    obtain ⟨l, chain, length⟩ := exists_chain full
    refine chain.cycle fun once => ?_
    have := once.length_le_card
    rw [length, Fintype.card_fin] at this
    omega
  · exact (hasCycle_iff_get arcs).mpr ⟨c, hopTable_cycle reach reach 25⟩
  · rw [hops_settled acyclic]
    exact hopRound_of_unproduced out
  · rw [hops_settled acyclic c]
    exact hopRound_arc ha hc
  · obtain ⟨a, ha, hc⟩ := List.any_eq_true.mp out
    have positive := hopRound_arc (h := hops arcs) ha (by simpa using hc)
    rw [hops_settled acyclic c]
    exact (hopRound_cases arcs (hops arcs) c).resolve_left fun e => by rw [e] at positive; omega

end

end Sys2Proof.Machine
end

section
/-! SUPPORT. The relay check under the acts: what each makes of the chosen sources: the settlement of O50. -/

namespace Sys2Proof.Machine
open Sys2Proof

/-! ## The check -/

section
variable {arcs arcs' : List RelayArc} {s t : State}

/-- Every arc of the one graph is an arc of the other, or one that now listens to the floor. -/
def Weaker (arcs' arcs : List RelayArc) : Prop :=
  ∀ a' ∈ arcs', ∃ a ∈ arcs, a.outputs = a'.outputs ∧ (a'.input = .floor ∨ a'.input = a.input)

theorem hopTable_weaker (h : Weaker arcs' arcs) (n : Nat) (c : Chan) :
    (hopTable arcs' n).get c ≤ (hopTable arcs n).get c := by
  induction n generalizing c with
  | zero => exact le_refl _
  | succ n ih =>
    rcases hopRound_cases arcs' (hopTable arcs' n) c with e | ⟨a', ha', hc, e⟩
    · rw [hopTable, e]; exact Nat.zero_le _
    · obtain ⟨a, ha, out, input⟩ := h a' ha'
      have arc := hopRound_arc (h := hopTable arcs n) ha (c := c) (by rw [out]; exact hc)
      have less : inputHops (hopTable arcs' n) a'.input ≤ inputHops (hopTable arcs n) a.input := by
        rcases input with e | e <;> rw [e]
        · exact Nat.zero_le _
        · exact inputHops_mono ih a.input
      rw [hopTable, e]
      exact (Nat.succ_le_succ less).trans arc

theorem withinHopLimit_iff (arcs : List RelayArc) : withinHopLimit arcs = true ↔ ∀ c, (hops arcs).get c ≤ 3 := by
  simp only [withinHopLimit, List.all_eq_true, mem_cells, forall_exists_index, forall_apply_eq_imp_iff, decide_eq_true_eq]
  exact Iff.rfl

/-- The relay check in its two parts: hop counts within the limit leave no room for a cycle. -/
theorem relayCheck_iff (s : State) (arcs : List RelayArc) : relayCheck s arcs = true ↔
    (∀ a ∈ arcs, sourceAllowed s arcs a = true) ∧ ∀ c, (hops arcs).get c ≤ 3 := by
  have acyclic : (∀ c, (hops arcs).get c ≤ 3) → hasCycle arcs = false := fun short => by
    rw [← Bool.not_eq_true, hasCycle_iff_get]
    exact fun ⟨c, long⟩ => absurd (short c) (by omega)
  simp only [relayCheck, Bool.and_eq_true, List.all_eq_true, Bool.not_eq_true', withinHopLimit_iff]
  exact ⟨fun ⟨⟨sources, _⟩, short⟩ => ⟨sources, short⟩, fun ⟨sources, short⟩ => ⟨⟨sources, acyclic short⟩, short⟩⟩

theorem sourceAllowed_channel {a : RelayArc} {r : Chan} (h : a.input = .channel r) : sourceAllowed s arcs a = true ↔
    (s.settings r).slot.isSome = true ∧ produced arcs r = true ∧ r ∉ a.outputs := by
  simp [sourceAllowed, h, and_assoc]

theorem sourceAllowed_floor {a : RelayArc} (h : a.input = .floor) : sourceAllowed s arcs a = true := by
  simp [sourceAllowed, h]

theorem produced_iff {c : Chan} : produced arcs c = true ↔ ∃ a ∈ arcs, c ∈ a.outputs := by
  simp [produced]

/-! ## The graph of a state -/

theorem mem_relayArcs {a : RelayArc} : a ∈ relayArcs s ↔
    ∃ k, s.boothSettings a.booth = some k ∧ a = ⟨a.booth, (s.booth a.booth).chosen, k.outputA, k.outputB⟩ := by
  unfold relayArcs
  simp only [List.mem_filterMap, List.mem_finRange, true_and, Option.map_eq_some_iff]
  constructor
  · rintro ⟨b, k, hk, rfl⟩
    exact ⟨k, hk, rfl⟩
  · rintro ⟨k, hk, e⟩
    exact ⟨a.booth, k, hk, e.symm⟩

theorem relayArcs_input {a : RelayArc} (h : a ∈ relayArcs s) : a.input = (s.booth a.booth).chosen := by
  obtain ⟨k, _, e⟩ := mem_relayArcs.mp h
  exact congrArg RelayArc.input e

/-- The outputs of a booth's settings. -/
def outputsOf (k : BoothSettings) : List Chan := k.outputA :: k.outputB.toList

theorem relayArcs_outputs {a : RelayArc} (h : a ∈ relayArcs s) :
    ∃ k, s.boothSettings a.booth = some k ∧ a.outputs = outputsOf k := by
  obtain ⟨k, hk, e⟩ := mem_relayArcs.mp h
  exact ⟨k, hk, congrArg RelayArc.outputs e⟩

theorem exists_relayArc {b : Booth} {k : BoothSettings} (h : s.boothSettings b = some k) :
    ∃ a ∈ relayArcs s, a.input = (s.booth b).chosen ∧ a.outputs = outputsOf k :=
  ⟨⟨b, (s.booth b).chosen, k.outputA, k.outputB⟩, mem_relayArcs.mpr ⟨k, h, rfl⟩, rfl, rfl⟩

theorem relayArcs_congr (hs : t.boothSettings = s.boothSettings) (hc : ∀ b, (t.booth b).chosen = (s.booth b).chosen) :
    relayArcs t = relayArcs s := by
  unfold relayArcs
  simp only [hs, hc]

/-- The relay check holds of the state. -/
def RelayOk (s : State) : Prop := relayCheck s (relayArcs s) = true

theorem relayOk_iff : RelayOk s ↔ (∀ a ∈ relayArcs s, sourceAllowed s (relayArcs s) a = true) ∧
    ∀ c, (hops (relayArcs s)).get c ≤ 3 := relayCheck_iff ..

theorem RelayOk.of_same (h : RelayOk s) (hs : t.boothSettings = s.boothSettings)
    (hc : ∀ b, (t.booth b).chosen = (s.booth b).chosen) (hp : ∀ r, (t.settings r).slot = (s.settings r).slot) :
    RelayOk t := by
  have arcs := relayArcs_congr hs hc
  rw [relayOk_iff] at h ⊢
  rw [arcs]
  refine ⟨fun a ha => ?_, h.2⟩
  have allowed := h.1 a ha
  unfold sourceAllowed at allowed ⊢
  cases hi : a.input with
  | floor => rfl
  | channel r => simpa [hi, hp] using allowed

/-- Some booths set to the floor, and some settings withdrawn: the check holds while no other booth's channel has lost its slot
or its producer. -/
theorem RelayOk.of_weaker (h : RelayOk s) (weaker : Weaker (relayArcs t) (relayArcs s))
    (hp : ∀ a ∈ relayArcs t, ∀ r, a.input = .channel r → (s.settings r).slot.isSome = true → (t.settings r).slot.isSome = true)
    (made : ∀ a ∈ relayArcs t, ∀ r, a.input = .channel r → produced (relayArcs s) r = true → produced (relayArcs t) r = true) :
    RelayOk t := by
  rw [relayOk_iff] at h ⊢
  obtain ⟨sources, short⟩ := h
  refine ⟨fun a' ha' => ?_, fun c => (hopTable_weaker weaker 25 c).trans (short c)⟩
  obtain ⟨a, ha, out, input⟩ := weaker a' ha'
  cases hi : a'.input with
  | floor => exact sourceAllowed_floor hi
  | channel r =>
    have same : a.input = .channel r := by rw [hi] at input; exact (input.resolve_left nofun).symm
    obtain ⟨slot, producer, other⟩ := (sourceAllowed_channel same).mp (sources a ha)
    exact (sourceAllowed_channel hi).mpr ⟨hp a' ha' r hi slot, made a' ha' r hi producer, out ▸ other⟩

/-- Where every booth listens to the floor the check holds. -/
theorem RelayOk.of_floor (h : ∀ b, (s.booth b).chosen = .floor) : RelayOk s := by
  have floor : ∀ a ∈ relayArcs s, a.input = .floor := fun a ha => by
    obtain ⟨k, _, e⟩ := mem_relayArcs.mp ha
    rw [e]
    exact h a.booth
  rw [relayOk_iff]
  refine ⟨fun a ha => sourceAllowed_floor (floor a ha), fun c => ?_⟩
  rcases hopRound_cases (relayArcs s) (hopTable (relayArcs s) 24) c with e | ⟨a, ha, _, e⟩ <;> rw [hops, hopTable, e]
  · exact Nat.zero_le _
  · rw [floor a ha]
    simp [inputHops]

/-! ## What the operations choose -/

theorem setListen_chosen (b d : Booth) (x y : Listen) (hold : Bool) (s : State) :
    ((setListen b x y hold s).booth d).chosen = if b = d then x else (s.booth d).chosen := by
  rw [setListen_booth]
  split <;> rfl

theorem chooseListen_chosen (b d : Booth) (x : Listen) (s : State) : ((chooseListen b x s).booth d).chosen =
    if b = d then (if (s.boothSettings b).isSome = true then x else .floor) else (s.booth d).chosen := by
  unfold chooseListen
  split
  · next e => rw [setListen_chosen, e]; rfl
  · next k e => rw [setListen_chosen, e]; rfl

theorem notify_booth (n : NoticeBody) (s : State) (b : Booth) : (notify n s).booth b = s.booth b := by
  rw [notify_ports n s]; rfl

theorem notify_boothSettings (n : NoticeBody) (s : State) : (notify n s).boothSettings = s.boothSettings := by
  rw [notify_ports n s]; rfl

/-- A booth that follows its channel chooses nothing new. -/
theorem followOne_chosen (r : Chan) (b d : Booth) (s : State) :
    ((followOne r s b).booth d).chosen = (s.booth d).chosen := by
  unfold followOne
  simp only
  split
  · next h =>
    obtain ⟨configured, chosen⟩ := Bool.and_eq_true_iff.mp h
    have same : ((chooseListen b (.channel r) s).booth d).chosen = (s.booth d).chosen := by
      rw [chooseListen_chosen, if_pos configured]
      split
      · next e => rw [← e, eq_of_beq chosen]
      · rfl
    split
    · rw [notify_booth, same]
    · exact same
  · rfl

theorem relayFollow_chosen (r : Chan) (d : Booth) (s : State) : ((relayFollow r s).booth d).chosen = (s.booth d).chosen := by
  unfold relayFollow
  generalize List.finRange 32 = bs
  induction bs generalizing s with
  | nil => rfl
  | cons b bs ih => rw [List.foldl_cons, ih, followOne_chosen]

/-- A run over the booths that sets to the floor each one whose source `p` names. -/
theorem floorAll_chosen (p : Listen → Bool) {f : State → Booth → State}
    (hf : ∀ t b, f t b = if p (t.booth b).chosen then chooseListen b .floor t else t) (s : State) (d : Booth) :
    (((List.finRange 32).foldl f s).booth d).chosen = if p (s.booth d).chosen then .floor else (s.booth d).chosen := by
  suffices run : ∀ (bs : List Booth) (t : State), bs.Nodup → ((bs.foldl f t).booth d).chosen =
      if d ∈ bs ∧ p (t.booth d).chosen = true then .floor else (t.booth d).chosen by
    rw [run _ s (List.nodup_finRange 32)]
    simp
  intro bs
  induction bs with
  | nil => simp
  | cons b bs ih =>
    intro t once
    obtain ⟨fresh, rest⟩ := List.nodup_cons.mp once
    have step : ((f t b).booth d).chosen = if b = d ∧ p (t.booth d).chosen = true then .floor else (t.booth d).chosen := by
      rw [hf]
      by_cases e : b = d
      · subst e
        by_cases hp : p (t.booth b).chosen = true
        · simp [hp, chooseListen_chosen]
        · simp [hp]
      · split
        · rw [chooseListen_chosen, if_neg e, if_neg fun h => e h.1]
        · rw [if_neg fun h => e h.1]
    rw [List.foldl_cons, ih _ rest, step]
    by_cases e : b = d
    · subst e
      simp [fresh]
    · simp [e, Ne.symm e]

theorem relayUnassigned_chosen (r : Chan) (s : State) (d : Booth) : ((relayUnassigned r s).booth d).chosen =
    if (s.booth d).chosen = .channel r then .floor else (s.booth d).chosen := by
  have run := floorAll_chosen (fun x => x == .channel r)
    (f := fun s b => if (s.booth b).chosen = .channel r then chooseListen b .floor s else s)
    (fun t b => by simp) s d
  unfold relayUnassigned
  simpa using run

/-- A source that `arcs` does not produce. -/
def unproduced (arcs : List RelayArc) : Listen → Bool
  | .floor => false
  | .channel r => !produced arcs r

theorem relayUnproduced_chosen (s : State) (d : Booth) : ((relayUnproduced s).booth d).chosen =
    if unproduced (relayArcs s) (s.booth d).chosen = true then .floor else (s.booth d).chosen := by
  unfold relayUnproduced
  dsimp only
  generalize relayArcs s = arcs
  refine floorAll_chosen (unproduced arcs) (fun t b => ?_) s d
  generalize (t.booth b).chosen = x
  cases x with
  | floor => rfl
  | channel r => cases h : produced arcs r <;> simp [h, unproduced]

/-- The deeds of the hall choose no source. -/
theorem Deeds.chosen (h : Deeds s t) (d : Booth) : (t.booth d).chosen = (s.booth d).chosen := by
  have written : ∀ (u : State) (b : Booth) (l : BoothLive), SameSources (u.booth b) l →
      ((u.setBooth b l).booth d).chosen = (u.booth d).chosen := fun u b l same => by
    rw [State.setBooth_booth]
    split
    · next e => rw [same.chosen, e]
    · rfl
  induction h with
  | refl => rfl
  | @cover t c x f hf _ ih =>
    have routed : ((routeAfter t c (t.setChan c x)).booth d) = t.booth d := by
      rw [routeAfter_routes t c (t.setChan c x)]; rfl
    unfold coverageChange
    rw [relayFollow_chosen]
    rcases hf (routeAfter t c (t.setChan c x)) with e | ⟨n, _, e⟩ <;> rw [e]
    · rw [routed]; exact ih
    · rw [notify_booth, routed]; exact ih
  | @hold t c x _ ih =>
    unfold holderChange
    rw [routeAfter_routes t c _]
    exact ih
  | @seats t b l same _ ih =>
    rw [← ih, ← written t b l same]
    unfold syncMute
    simp only
    split
    · rfl
    · rw [placeOrder_booth, State.setBooth_booth]
      split
      · next e => rw [e]
      · rfl
  | booth b l same _ _ ih => exact (written _ b l same).trans ih
  | acc b k x _ _ ih => exact ih
  | offer c x _ ih => exact ih
  | notice n _ _ ih => rw [notify_booth]; exact ih

/-! ## The acts -/

theorem withInput_produced (b : Booth) (x : Listen) (arcs : List RelayArc) (c : Chan) :
    produced (withInput b x arcs) c = produced arcs c := by
  unfold produced withInput
  rw [List.any_map]
  congr 1
  funext a
  simp only [Function.comp]
  split <;> rfl

theorem relayArcs_chooseListen {b : Booth} {m : BoothSettings} (hm : s.boothSettings b = some m) (x : Listen) :
    relayArcs (chooseListen b x s) = withInput b x (relayArcs s) := by
  unfold relayArcs withInput
  rw [List.map_filterMap, chooseListen_boothSettings]
  refine List.filterMap_congr fun d _ => ?_
  rw [chooseListen_chosen, hm]
  cases s.boothSettings d with
  | none => rfl
  | some k =>
    rcases eq_or_ne b d with rfl | e
    · simp
    · simp [e, e.symm]

theorem withInput_weaker (b : Booth) (arcs : List RelayArc) : Weaker (withInput b .floor arcs) arcs := fun a' ha' => by
  obtain ⟨a, ha, rfl⟩ := List.mem_map.mp ha'
  refine ⟨a, ha, ?_, ?_⟩ <;> split
  · rfl
  · rfl
  · exact .inl rfl
  · exact .inr rfl

/-- The tests of R77 on a change to a channel that passes them. -/
theorem listenTests_channel {b : Booth} {m : BoothSettings} {r : Chan} (ht : listenTests s b m (.channel r) = none)
    (new : (s.booth b).chosen ≠ .channel r) :
    (s.settings r).slot.isSome = true ∧ produced (relayArcs s) r = true ∧ r ≠ m.outputA ∧ some r ≠ m.outputB ∧
      ∀ c, (hops (withInput b (.channel r) (relayArcs s))).get c ≤ 3 := by
  simp only [listenTests, if_neg (Ne.symm new)] at ht
  split at ht
  · cases ht
  next slot =>
  split at ht
  · cases ht
  next made =>
  split at ht
  · cases ht
  next own =>
  split at ht
  · cases ht
  split at ht
  · cases ht
  next limit =>
  obtain ⟨outA, outB⟩ := not_or.mp own
  refine ⟨by simpa [Option.isSome_iff_ne_none] using slot, by simpa using made, outA, outB, ?_⟩
  exact (withinHopLimit_iff _).mp (by simpa using limit)

theorem chooseListen_relayOk {b : Booth} {m : BoothSettings} {x : Listen} (hm : s.boothSettings b = some m)
    (ht : listenTests s b m x = none) (h : RelayOk s) : RelayOk (chooseListen b x s) := by
  have slots : ∀ r, (chooseListen b x s).settings r = s.settings r := (chooseListen_moves b x s).settings
  have arcs := relayArcs_chooseListen hm x
  cases x with
  | floor =>
    refine h.of_weaker (by rw [arcs]; exact withInput_weaker b _) (fun a' _ r _ hs => by rw [slots]; exact hs) fun _ _ r _ hr => ?_
    rw [arcs, withInput_produced]
    exact hr
  | channel r =>
    by_cases e : (s.booth b).chosen = .channel r
    · refine h.of_same (chooseListen_boothSettings ..) (fun d => ?_) fun r => by rw [slots]
      rw [chooseListen_chosen, hm]
      split
      · next hd => rw [← hd, e]; rfl
      · rfl
    · obtain ⟨slot, made, outA, outB, short⟩ := listenTests_channel ht e
      rw [relayOk_iff] at h ⊢
      rw [arcs]
      refine ⟨fun a' ha' => ?_, short⟩
      obtain ⟨a, ha, rfl⟩ := List.mem_map.mp ha'
      have allowed := h.1 a ha
      split
      · next hb =>
        refine (sourceAllowed_channel (r := r) rfl).mpr ⟨by rw [slots]; exact slot, by rw [withInput_produced]; exact made, ?_⟩
        obtain ⟨k, hk, ha⟩ := mem_relayArcs.mp ha
        rw [hb, hm] at hk
        cases hk
        rw [ha]
        simpa [RelayArc.outputs, outA, eq_comm] using outB
      · unfold sourceAllowed at allowed ⊢
        cases hi : a.input with
        | floor => rfl
        | channel q => simpa [hi, slots, withInput_produced] using allowed

/-- A channel is produced while a configured booth has it as an output. -/
theorem produced_relayArcs {c : Chan} : produced (relayArcs s) c = true ↔
    ∃ b k, s.boothSettings b = some k ∧ (c = k.outputA ∨ some c = k.outputB) := by
  have out : ∀ (b : Booth) (x : Listen) (k : BoothSettings),
      c ∈ RelayArc.outputs ⟨b, x, k.outputA, k.outputB⟩ ↔ (c = k.outputA ∨ some c = k.outputB) := fun b x k => by
    simp [RelayArc.outputs, eq_comm]
  rw [produced_iff]
  constructor
  · rintro ⟨a, ha, hc⟩
    obtain ⟨k, hk, e⟩ := mem_relayArcs.mp ha
    rw [e] at hc
    exact ⟨a.booth, k, hk, (out ..).mp hc⟩
  · rintro ⟨b, k, hk, hc⟩
    exact ⟨⟨b, (s.booth b).chosen, k.outputA, k.outputB⟩, mem_relayArcs.mpr ⟨k, hk, rfl⟩, (out ..).mpr hc⟩

theorem produced_congr (h : t.boothSettings = s.boothSettings) (c : Chan) :
    produced (relayArcs t) c = produced (relayArcs s) c := by
  rw [Bool.eq_iff_iff, produced_relayArcs, produced_relayArcs, h]

/-- The state of a booth's new settings before the sources that nothing produces any more are set to the floor. -/
def reseated (b : Booth) (x : Option BoothSettings) (s : State) : State :=
  voidCycle b ((setListen b .floor .floor false s).setBoothSettings b x)

theorem voidCycle_booth (b d : Booth) (s : State) : (voidCycle b s).booth d = s.booth d := by rw [voidCycle_cycle]; rfl
theorem voidCycle_boothSettings (b : Booth) (s : State) : (voidCycle b s).boothSettings = s.boothSettings := by
  funext d; rw [voidCycle_cycle]; rfl

theorem reseated_chosen (b d : Booth) (x : Option BoothSettings) (s : State) :
    ((reseated b x s).booth d).chosen = if b = d then .floor else (s.booth d).chosen := by
  rw [reseated, voidCycle_booth]
  exact setListen_chosen ..

theorem reseated_boothSettings (b d : Booth) (x : Option BoothSettings) (s : State) :
    (reseated b x s).boothSettings d = if b = d then x else s.boothSettings d := by
  rw [reseated, voidCycle_boothSettings, State.setBoothSettings_boothSettings, setListen_boothSettings]

theorem relayUnproduced_boothSettings (s : State) : (relayUnproduced s).boothSettings = s.boothSettings :=
  funext (relayUnproduced_moves s).boothSettings

theorem setBooth_chosen {b : Booth} {l : BoothLive} (h : l.chosen = (s.booth b).chosen) (d : Booth) :
    ((s.setBooth b l).booth d).chosen = (s.booth d).chosen := by
  rw [State.setBooth_booth]
  split
  · next e => rw [← e, h]
  · rfl

/-- Before its channels are looked at, a booth that takes new settings chooses the floor, and every other what it chose. -/
theorem configureBooth_reseated (b : Booth) (m : BoothSettings) (s : State) :
    ∃ u, configureBooth b m s = relayUnproduced (reseated b (some m) u) ∧
      (∀ d, (u.booth d).chosen = (s.booth d).chosen) ∧ u.boothSettings = s.boothSettings := by
  unfold configureBooth reseated
  dsimp only
  refine ⟨_, rfl, fun d => ?_, ?_⟩
  · exact (setBooth_chosen (by rfl) d).trans ((withdrawAll_deeds b s).chosen d)
  · exact funext fun d => (State.setBooth_read_boothSettings ..).trans ((withdrawAll_moves b s).boothSettings d)

theorem clearBooth_reseated (b : Booth) (s : State) :
    ∃ u, clearBooth b s = relayUnproduced (reseated b none u) ∧
      (∀ d, (u.booth d).chosen = (s.booth d).chosen) ∧ u.boothSettings = s.boothSettings := by
  unfold clearBooth reseated
  dsimp only
  refine ⟨_, rfl, fun d => ?_, ?_⟩
  · exact (setBooth_chosen (by rfl) d).trans ((seatLoss_deeds b s).chosen d)
  · exact funext fun d => (State.setBooth_read_boothSettings ..).trans ((seatLoss_moves b s).boothSettings d)

/-- The source of a booth after the ones that nothing produces are set to the floor. -/
theorem relayUnproduced_source {d : Booth} {r : Chan} (h : ((relayUnproduced s).booth d).chosen = .channel r) :
    (s.booth d).chosen = .channel r ∧ produced (relayArcs s) r = true := by
  rw [relayUnproduced_chosen] at h
  split at h
  · cases h
  · next hp =>
    rw [h] at hp
    exact ⟨h, by simpa [unproduced] using hp⟩

theorem relayUnproduced_floor (d : Booth) : ((relayUnproduced s).booth d).chosen = .floor ∨
    ((relayUnproduced s).booth d).chosen = (s.booth d).chosen := by
  rw [relayUnproduced_chosen]
  split
  · exact .inl rfl
  · exact .inr rfl

theorem clearBooth_relayOk (b : Booth) (h : RelayOk s) : RelayOk (clearBooth b s) := by
  have plan : (clearBooth b s).ret.plan = s.ret.plan := (clearBooth_booths_set b s).2.2
  have slots : ∀ r, (clearBooth b s).settings r = s.settings r := fun r => by unfold State.settings; rw [plan]
  obtain ⟨u, e, chosen, settings⟩ := clearBooth_reseated b s
  rw [e] at slots ⊢
  generalize hv : reseated b none u = v at slots ⊢
  have given : ∀ d, (relayUnproduced v).boothSettings d = if b = d then none else s.boothSettings d := fun d => by
    rw [relayUnproduced_boothSettings, ← hv, reseated_boothSettings, settings]
  refine h.of_weaker (fun a' ha' => ?_) (fun _ _ r _ hs => by rw [slots]; exact hs) fun a' ha' r hi _ => ?_
  · obtain ⟨k, hk, out⟩ := relayArcs_outputs ha'
    rw [given] at hk
    split at hk
    · cases hk
    next other =>
    obtain ⟨a, ha, input, same⟩ := exists_relayArc hk
    refine ⟨a, ha, same.trans out.symm, ?_⟩
    rw [relayArcs_input ha', input]
    refine (relayUnproduced_floor a'.booth).imp id fun f => ?_
    rw [f, ← hv, reseated_chosen, if_neg other, chosen]
  · rw [relayArcs_input ha'] at hi
    rw [produced_congr (relayUnproduced_boothSettings v)]
    exact (relayUnproduced_source hi).2

/-- An arc set to the floor where `arcs` does not produce its source. -/
def grounded (arcs : List RelayArc) (a : RelayArc) : RelayArc :=
  if unproduced arcs a.input = true then { a with input := .floor } else a

theorem relayArcs_relayUnproduced (s : State) :
    relayArcs (relayUnproduced s) = (relayArcs s).map (grounded (relayArcs s)) := by
  obtain ⟨arcs, hn⟩ : ∃ arcs, relayArcs s = arcs := ⟨_, rfl⟩
  have mapped : (relayArcs s).map (grounded arcs) = (List.finRange 32).filterMap (fun d =>
      ((s.boothSettings d).map fun k => (⟨d, (s.booth d).chosen, k.outputA, k.outputB⟩ : RelayArc)).map (grounded arcs)) :=
    List.map_filterMap
  rw [show grounded (relayArcs s) = grounded arcs by rw [hn], mapped]
  conv_lhs => unfold relayArcs
  rw [relayUnproduced_boothSettings]
  refine List.filterMap_congr fun d _ => ?_
  cases s.boothSettings d with
  | none => rfl
  | some k =>
    rw [relayUnproduced_chosen, hn]
    simp only [Option.map_some, grounded]
    split <;> rfl

/-- The graph after a BOOTH_SET is the one that its check looked at. -/
theorem relayArcs_configureBooth (b : Booth) (m : BoothSettings) (s : State) :
    relayArcs (configureBooth b m s) = arcsWithBooth s b m := by
  obtain ⟨u, e, chosen, settings⟩ := configureBooth_reseated b m s
  have before : relayArcs (reseated b (some m) u) = (List.finRange 32).filterMap (fun d =>
      if d = b then some ⟨b, .floor, m.outputA, m.outputB⟩
      else (s.boothSettings d).map (fun k => ⟨d, (s.booth d).chosen, k.outputA, k.outputB⟩)) := by
    refine List.filterMap_congr fun d _ => ?_
    rw [reseated_boothSettings, reseated_chosen, chosen, settings]
    rcases eq_or_ne d b with rfl | other
    · simp
    · simp [other, other.symm]
  rw [e, relayArcs_relayUnproduced, before]
  unfold arcsWithBooth
  dsimp only
  generalize List.filterMap _ (List.finRange 32) = arcs
  refine List.map_congr_left fun a _ => ?_
  unfold grounded
  cases hi : a.input with
  | floor => rfl
  | channel r => cases hp : produced arcs r <;> simp [unproduced, hp]

theorem relayCheck_congr (h : ∀ r, (t.settings r).slot = (s.settings r).slot) (arcs : List RelayArc) :
    relayCheck t arcs = relayCheck s arcs := by
  unfold relayCheck
  congr 3
  funext a
  unfold sourceAllowed
  split
  · rfl
  · rw [h]

theorem BoothOp.relayOk (op : BoothOp s t) (h : RelayOk s) : RelayOk t := by
  cases op with
  | choose b m x hm ht => exact chooseListen_relayOk hm ht h
  | configure b m args _ _ hr =>
    have plan := (configureBooth_booths_set b m s).2.2
    unfold RelayOk
    rw [relayArcs_configureBooth, relayCheck_congr (s := s) fun r => by unfold State.settings; rw [plan]]
    exact hr
  | clear b => exact clearBooth_relayOk b h

/-- The sources of the booths after a CHAN_ASSIGN: those that listened to a channel now UNASSIGNED listen to the floor. -/
theorem applyAssign_chosen (a : Assign) (s : State) (d : Booth) : ((applyAssign a s).booth d).chosen =
    match (s.booth d).chosen with
    | .channel c => if movedFrom s a = some c ∨ (c = a.target ∧ a.slot = none) then .floor else .channel c
    | .floor => .floor := by
  have routed : ∀ c u, ((routeAfter s c u).booth d) = u.booth d := fun c u => by rw [routeAfter_routes s c u]; rfl
  have written : (assignWrites a s).booth d = s.booth d := by
    unfold State.booth; rw [congrArg (fun x => x.gen.booths) (assignWrites_keeps a s)]
  have closed : ∀ u, (closeLeft a s u).booth d = u.booth d := fun u => by rw [(closeLeft_books a s u).keeps]; rfl
  have settled : ((settleLeft a s (assignWrites a s)).booth d).chosen =
      match movedFrom s a with
      | some c => if (s.booth d).chosen = .channel c then .floor else (s.booth d).chosen
      | none => (s.booth d).chosen := by
    unfold settleLeft
    cases movedFrom s a with
    | some c => rw [relayUnassigned_chosen, routed, written]
    | none => rw [written]
  have handed : ∀ u, ((handTarget a s u).booth d).chosen =
      if a.slot = none ∧ (u.booth d).chosen = .channel a.target then .floor else (u.booth d).chosen := fun u => by
    unfold handTarget
    split
    · next e => rw [relayUnassigned_chosen]; simp [e]
    · next k e =>
      have assigned : ¬ (a.slot = none ∧ (u.booth d).chosen = .channel a.target) := fun h => by rw [e] at h; cases h.1
      rw [if_neg assigned]
      split
      · rfl
      · split
        · rw [(uncover_deeds ..).chosen, relayFollow_chosen]
        · rw [relayFollow_chosen]
  rw [applyAssign, assignEffects_eq, handed, closed, routed, settled]
  cases hm : movedFrom s a with
  | none =>
    cases (s.booth d).chosen with
    | floor => simp
    | channel c => simp [and_comm]
  | some c =>
    cases (s.booth d).chosen with
    | floor => simp
    | channel x =>
      by_cases e : x = c
      · subst e; simp
      · simp [e, Ne.symm e, and_comm]

theorem applyAssign_plan (a : Assign) (s : State) : (applyAssign a s).ret.plan = (assignWrites a s).ret.plan := by
  rw [applyAssign, assignEffects_eq]
  have left := settleLeft_moves a s (assignWrites a s)
  have routed := routeAfter_moves s a.target (settleLeft a s (assignWrites a s))
  have closed := closeLeft_books a s (routeAfter s a.target (settleLeft a s (assignWrites a s)))
  have handed := handTarget_moves a s (closeLeft a s (routeAfter s a.target (settleLeft a s (assignWrites a s))))
  rw [handed.keeps, closed.keeps, routed.keeps, left.keeps]

theorem applyAssign_settings (a : Assign) (s : State) (d : Chan) : (applyAssign a s).settings d =
    if a.target = d then ⟨a.slot, a.policy, a.fallback, a.gapHold, a.offerTime⟩
    else { s.settings d with slot := if movedFrom s a = some d then none else (s.settings d).slot } := by
  rw [← assignWrites_settings]
  unfold State.settings
  rw [applyAssign_plan]

theorem applyAssign_boothSettings (a : Assign) (s : State) : (applyAssign a s).boothSettings = s.boothSettings := by
  have same : (applyAssign a s).ret.booths = s.ret.booths :=
    congrArg (fun x => x.ret.booths) ((assignWrites_plan a s).trans (assignEffects_plan a s _))
  funext d
  unfold State.boothSettings
  rw [same]

theorem applyAssign_relayOk (a : Assign) (h : RelayOk s) : RelayOk (applyAssign a s) := by
  have source : ∀ d r, ((applyAssign a s).booth d).chosen = .channel r →
      (s.booth d).chosen = .channel r ∧ movedFrom s a ≠ some r ∧ ¬ (r = a.target ∧ a.slot = none) := fun d r hr => by
    rw [applyAssign_chosen] at hr
    split at hr
    · next c hc =>
      split at hr
      · cases hr
      · next stays =>
        cases hr
        exact ⟨hc, not_or.mp stays⟩
    · cases hr
  have settings := applyAssign_boothSettings a s
  refine h.of_weaker (fun a' ha' => ?_) (fun a' ha' r hi hs => ?_) fun _ _ r _ hr => by rw [produced_congr settings]; exact hr
  · obtain ⟨k, hk, out⟩ := relayArcs_outputs ha'
    rw [settings] at hk
    obtain ⟨x, hx, input, same⟩ := exists_relayArc hk
    refine ⟨x, hx, same.trans out.symm, ?_⟩
    cases hi : a'.input with
    | floor => exact .inl rfl
    | channel r =>
      rw [relayArcs_input ha'] at hi
      exact .inr (by rw [input, (source _ r hi).1])
  · rw [relayArcs_input ha'] at hi
    obtain ⟨_, stays, assigned⟩ := source _ r hi
    rw [applyAssign_settings]
    split
    · next e => exact Option.isSome_iff_ne_none.mpr fun none => assigned ⟨e.symm, none⟩
    · simpa [stays] using hs

theorem PlanOp.relayOk (op : PlanOp s t) (h : RelayOk s) : RelayOk t := by
  cases op with
  | define slot tag label =>
    unfold defineLanguage
    (repeat' split) <;> exact h
  | remove slot =>
    unfold removeLanguage
    (repeat' split) <;> exact h
  | assign target args a _ _ => exact applyAssign_relayOk a h
  | override on =>
    have moved := setOverride_moves on s
    refine h.of_same (funext moved.boothSettings) (fun d => ?_) fun r => by rw [moved.settings]; rfl
    unfold setOverride
    split
    · rfl
    · suffices run : ∀ (cs : List Chan) (u : State), (cs.foldl (fun t c => routeAfter s c t) u).booth d = u.booth d by
        rw [run]; rfl
      intro cs
      induction cs with
      | nil => exact fun _ => rfl
      | cons c cs ih => exact fun u => (ih _).trans (by dsimp only; rw [routeAfter_routes s c u]; rfl)

/-- The part of the state that the relay check is read from. -/
def relayPart (s : State) := (s.gen.booths, s.ret.plan, s.ret.booths)

theorem RelayOk.of_part {u : State} (h : RelayOk s) (ht : t = u) (same : relayPart u = relayPart s) : RelayOk t := by
  subst ht
  simp only [relayPart, Prod.mk.injEq] at same
  obtain ⟨hb, hp, hs⟩ := same
  refine h.of_same (funext fun b => ?_) (fun b => ?_) fun r => ?_
  · unfold State.boothSettings; rw [hs]
  · unfold State.booth; rw [hb]
  · unfold State.settings; rw [hp]

theorem ResetOp.relayOk {drops : Prop} (op : ResetOp drops s t) (h : RelayOk s) : RelayOk t := by
  have reset : ∀ {u : State}, (∀ b, ∃ x, u.booth b = BoothLive.afterReset x) → RelayOk u := fun booths =>
    .of_floor fun b => by
      obtain ⟨x, e⟩ := booths b
      rw [e]
      rfl
  cases op with
  | off | cleared => exact reset fun b => ⟨_, quiet_booth _ b rfl⟩
  | stopped => exact h
  | general kind cleared => exact reset fun b => ⟨_, generalReset_booth kind cleared s b⟩
  | port p => exact h

theorem Act.relayOk {drops : Prop} (act : Act drops s t) (h : RelayOk s) : RelayOk t := by
  cases act with
  | aside a => exact h.of_part a rfl
  | ports op => exact h.of_part op.ports rfl
  | hall op => exact h.of_same (funext op.deeds.moves.boothSettings) op.deeds.chosen fun r => by rw [op.deeds.moves.settings]
  | booths op => exact op.relayOk h
  | plan op => exact op.relayOk h
  | books op => exact h.of_part op.sameButBooks rfl
  | jobs op => exact h.of_part op.keeps rfl
  | reset op => exact op.relayOk h
  | directory before => exact h.of_part (dirAfter_directory before s) rfl
  | refresh =>
    generalize fullSet s = os
    exact h.of_part (placeAll_routes os s) rfl
  | orderSent =>
    exact h.of_part (SameRoutes.trans (t := { s with gen.routeSending := none }) rfl (routeBegin_routes _)) rfl
  | count => exact h.of_part (countBlocks_keeps s) rfl
  | session => exact h.of_part (openSession_keeps s) rfl
  | _ => exact h.of_part rfl rfl

end

/-- Settles O50: a choice passes the check's tests; everything else sets booths to the floor, and takes a slot or an output only from
channels that then no booth chooses. -/
theorem relayCheckIsKept : Obligations.RelayCheckIsKept := fun _ _ h =>
  step_keeps (P := RelayOk) h (fun _ hs => hs) (fun _ _ _ act => act.relayOk)
    (fun _ _ change hs => hs.of_part change.keeps rfl)

end Sys2Proof.Machine
end

section
/-! SUPPORT. The scene: what the events of the hall move, read apart from the lines and sources that follow them. One equation
for each operation. -/

namespace Sys2Proof.Machine
open Sys2Proof

/-- A booth's live state without its seats and what follows them and the coverage: the mute state, the effective source and
the auto-floor hold. -/
def plain (l : BoothLive) : BoothLive :=
  { l with seats := Bank.fill 3 .off, muted := false, effective := .floor, autoHold := false }

/-- The live channels, the seats and their accumulators, the offers, and the rest of each booth's live state. -/
@[ext] structure Scene where
  chan : Chan → ChanLive
  seat : Booth → Seat → SeatState
  acc : Booth → Seat → SeatAcc
  offer : Chan → Option Offer
  booth : Booth → BoothLive

def scene (s : State) : Scene := ⟨s.chan, s.seat, s.acc, s.offer, fun b => plain (s.booth b)⟩

namespace Scene
variable (S : Scene)

/-- Channel `c` is in live state `x`. -/
def cast (c : Chan) (x : ChanLive) : Scene := { S with chan := fun d => if d = c then x else S.chan d }
/-- Seat `k` of booth `b` is in state `x`. -/
def sit (b : Booth) (k : Seat) (x : SeatState) : Scene :=
  { S with seat := fun d j => if d = b ∧ j = k then x else S.seat d j }
/-- Seat `k` of booth `b` has accumulator `x`. -/
def tally (b : Booth) (k : Seat) (x : SeatAcc) : Scene :=
  { S with acc := fun d j => if d = b ∧ j = k then x else S.acc d j }
/-- The offer on `c` is `x`. -/
def bid (c : Chan) (x : Option Offer) : Scene := { S with offer := fun d => if d = c then x else S.offer d }
/-- The rest of booth `b` is `l`. -/
def dress (b : Booth) (l : BoothLive) : Scene := { S with booth := fun d => if d = b then l else S.booth d }
/-- Booth `b` shows indication `i`. -/
def light (b : Booth) (i : Option Indication) : Scene := S.dress b { S.booth b with indication := i }
/-- Seat `k` of booth `b` goes LIVE, with one turn more. -/
def rise (b : Booth) (k : Seat) : Scene :=
  (S.tally b k { S.acc b k with turns := min 65535 ((S.acc b k).turns + 1) }).sit b k .live
/-- The holder of `c` is `h`. -/
def hand (c : Chan) (h : Holder) : Scene := S.cast c { S.chan c with holder := some h, source := .booth h.booth }

end Scene

/-! ## What leaves the scene as it was -/

section
variable {s t : State}

theorem scene_eq (hc : ∀ c, t.chan c = s.chan c) (hk : ∀ b k, t.seat b k = s.seat b k) (ha : ∀ b k, t.acc b k = s.acc b k)
    (ho : ∀ c, t.offer c = s.offer c) (hb : ∀ b, plain (t.booth b) = plain (s.booth b)) : scene t = scene s :=
  Scene.ext (funext hc) (funext fun b => funext (hk b)) (funext fun b => funext (ha b)) (funext ho) (funext hb)

/-- The part of the state that the scene is read from. -/
def scenePart (s : State) := (s.gen.chans, s.gen.booths, s.gen.offers, s.ret.seatAcc)

theorem scene_of_part {u : State} (ht : t = u) (h : scenePart u = scenePart s) : scene t = scene s := by
  subst ht
  simp only [scenePart, Prod.mk.injEq] at h
  obtain ⟨hc, hb, ho, ha⟩ := h
  have booth : ∀ b, t.booth b = s.booth b := fun b => by unfold State.booth; rw [hb]
  refine scene_eq (fun c => ?_) (fun b k => ?_) (fun b k => ?_) (fun c => ?_) fun b => by rw [booth]
  · unfold State.chan; rw [hc]
  · unfold State.seat; rw [booth]
  · unfold State.acc; rw [ha]
  · unfold State.offer; rw [ho]

/-- A write of a booth's sources, hold and mute state shows in nothing else. -/
theorem scene_setBooth_follow {b : Booth} {l : BoothLive} (hs : l.seats = (s.booth b).seats) (hl : plain l = plain (s.booth b)) :
    scene (s.setBooth b l) = scene s := by
  refine scene_eq (fun _ => rfl) (fun d j => ?_) (fun _ _ => rfl) (fun _ => rfl) fun d => ?_
  · rw [State.setBooth_seat]
    split
    · next e => rw [hs, e]; rfl
    · rfl
  · rw [State.setBooth_booth]
    split
    · next e => rw [hl, e]
    · rfl

@[simp] theorem scene_placeOrder (o : RouteOrder) (s : State) : scene (placeOrder o s) = scene s :=
  scene_of_part (placeOrder_routes o s) rfl
@[simp] theorem scene_routeAfter (before : State) (c : Chan) (s : State) : scene (routeAfter before c s) = scene s :=
  scene_of_part (routeAfter_routes before c s) rfl
@[simp] theorem scene_notify (n : NoticeBody) (s : State) : scene (notify n s) = scene s :=
  scene_of_part (notify_ports n s) rfl

@[simp] theorem scene_syncMute (b : Booth) (s : State) : scene (syncMute b s) = scene s := by
  unfold syncMute
  simp only
  split
  · rfl
  · rw [scene_placeOrder]
    exact scene_setBooth_follow rfl rfl

theorem scene_setListen {b : Booth} {x : Listen} (y : Listen) (hold : Bool) {s : State} (h : x = (s.booth b).chosen) :
    scene (setListen b x y hold s) = scene s := by
  subst h
  have written := scene_setBooth_follow (s := s) (b := b)
    (l := { s.booth b with chosen := (s.booth b).chosen, effective := y, autoHold := hold }) rfl rfl
  unfold setListen
  simp only
  split
  · exact written
  · rw [scene_placeOrder]; exact written

theorem scene_followOne (r : Chan) (s : State) (b : Booth) : scene (followOne r s b) = scene s := by
  unfold followOne
  simp only
  split
  · next h =>
    obtain ⟨configured, chosen⟩ := Bool.and_eq_true_iff.mp h
    have same : scene (chooseListen b (.channel r) s) = scene s := by
      unfold chooseListen
      split
      · next e => rw [e] at configured; cases configured
      · exact scene_setListen _ _ (eq_of_beq chosen).symm
    split
    · rw [scene_notify, same]
    · exact same
  · rfl

@[simp] theorem scene_relayFollow (r : Chan) (s : State) : scene (relayFollow r s) = scene s := by
  unfold relayFollow
  generalize List.finRange 32 = bs
  induction bs generalizing s with
  | nil => rfl
  | cons b bs ih => rw [List.foldl_cons, ih, scene_followOne]

/-! ## The writes -/

@[simp] theorem scene_setChan (c : Chan) (x : ChanLive) (s : State) : scene (s.setChan c x) = (scene s).cast c x :=
  Scene.ext (funext fun d => by simp [scene, Scene.cast, State.setChan_chan, eq_comm]) rfl rfl rfl rfl

@[simp] theorem scene_setOffer (c : Chan) (x : Option Offer) (s : State) : scene (s.setOffer c x) = (scene s).bid c x :=
  Scene.ext rfl rfl rfl (funext fun d => by simp [scene, Scene.bid, State.setOffer_offer, eq_comm]) rfl

@[simp] theorem scene_setAcc (b : Booth) (k : Seat) (x : SeatAcc) (s : State) :
    scene (s.setAcc b k x) = (scene s).tally b k x :=
  Scene.ext rfl rfl (funext fun d => funext fun j => by simp [scene, Scene.tally, State.setAcc_acc, eq_comm]) rfl rfl

@[simp] theorem scene_setSeat (b : Booth) (k : Seat) (x : SeatState) (s : State) :
    scene (s.setSeat b k x) = (scene s).sit b k x := by
  refine Scene.ext rfl (funext fun d => funext fun j => ?_) rfl rfl (funext fun d => ?_)
  · simp [scene, Scene.sit, State.setSeat_seat, eq_comm]
  · simp only [scene, Scene.sit, State.setSeat, State.setBooth_booth]
    split
    · next e => rw [← e]; rfl
    · rfl

/-- A write of a booth that leaves its seats. -/
theorem scene_setBooth {b : Booth} {l : BoothLive} (hs : l.seats = (s.booth b).seats) :
    scene (s.setBooth b l) = (scene s).dress b (plain l) := by
  refine Scene.ext rfl (funext fun d => funext fun j => ?_) rfl rfl (funext fun d => ?_)
  · simp only [scene, Scene.dress, State.setBooth_seat]
    split
    · next e => rw [hs, ← e]; rfl
    · rfl
  · simp only [scene, Scene.dress, State.setBooth_booth, eq_comm]
    split <;> rfl

@[simp] theorem scene_indicate (b : Booth) (i : Option Indication) (s : State) :
    scene (indicate b i s) = (scene s).light b i := scene_setBooth rfl

@[simp] theorem scene_putSeat (b : Booth) (k : Seat) (x : SeatState) (s : State) :
    scene (putSeat b k x s) = (scene s).sit b k x := by
  rw [putSeat, scene_syncMute, scene_setSeat]

@[simp] theorem scene_goLive (b : Booth) (k : Seat) (s : State) : scene (goLive b k s) = (scene s).rise b k := by
  rw [goLive, scene_putSeat, scene_setAcc]
  rfl

@[simp] theorem scene_select (b : Booth) (y : Side) (s : State) :
    scene (select b y s) = (scene s).dress b { (scene s).booth b with selection := y } := scene_setBooth rfl

/-! ## Coverage -/

theorem scene_coverageChange (c : Chan) (x : ChanLive) {f : State → State} (hf : Tells f) (s : State) :
    scene (coverageChange c x f s) = (scene s).cast c x := by
  rw [coverageChange, scene_relayFollow]
  rcases hf (routeAfter s c (s.setChan c x)) with e | ⟨n, _, e⟩ <;> rw [e]
  · rw [scene_routeAfter, scene_setChan]
  · rw [scene_notify, scene_routeAfter, scene_setChan]

@[simp] theorem scene_uncover (c : Chan) (s : State) :
    scene (uncover c s) = (scene s).cast c ⟨.uncovered, none, (s.settings c).fallback.source, 0, false⟩ := by
  unfold uncover
  exact scene_coverageChange c _ (tells_notify fun _ => rfl) s

theorem Scene.cast_cast (S : Scene) (c : Chan) (x y : ChanLive) : (S.cast c x).cast c y = S.cast c y :=
  Scene.ext (funext fun d => by simp only [Scene.cast]; split <;> rfl) rfl rfl rfl rfl

@[simp] theorem scene_turnEnd (c : Chan) (s : State) : scene (turnEnd c s) = (scene s).cast c (released s c) := by
  unfold turnEnd enterHolding released
  simp only
  split
  · rw [scene_uncover, scene_coverageChange c _ tells_id, Scene.cast_cast, (coverageChange_moves c _ id (fun _ => Moves.refl) s).settings]
  · rw [scene_coverageChange c _ tells_id]

@[simp] theorem scene_turnStart (c : Chan) (h : Holder) (s : State) :
    scene (turnStart c h s) = (scene s).cast c ⟨.covered, some h, .booth h.booth, 0, false⟩ := by
  unfold turnStart
  refine scene_coverageChange c _ (fun t => ?_) s
  split
  · exact .inr ⟨_, rfl, rfl⟩
  · exact .inl rfl

@[simp] theorem scene_holderChange (c : Chan) (h : Holder) (s : State) :
    scene (holderChange c h s) = (scene s).hand c h := by
  rw [holderChange, scene_routeAfter, scene_setChan]
  rfl

/-! ## Offers -/

/-- The scene once offer `o` has passed `c` to its waiting seat. -/
def Scene.pass (S : Scene) (c : Chan) (o : Offer) : Scene :=
  ((S.bid c none).rise o.waitBooth o.waitSeat).hand c ⟨o.waitBooth, o.waitSeat⟩

@[simp] theorem scene_passOffer (c : Chan) (o : Offer) (m : Manner) (s : State) :
    scene (passOffer c o m s) = (scene s).pass c o := by
  rw [passOffer, scene_notify, scene_holderChange, scene_goLive, scene_setOffer]
  rfl

/-- The scene once the offer on `c`, if one stands, is withdrawn. -/
def Scene.withdraw (S : Scene) (c : Chan) : Scene :=
  match S.offer c with
  | some o => (S.bid c none).sit o.waitBooth o.waitSeat .off
  | none => S

@[simp] theorem scene_withdrawOffer (c : Chan) (s : State) : scene (withdrawOffer c s) = (scene s).withdraw c := by
  unfold withdrawOffer Scene.withdraw
  show scene (match s.offer c with | some o => _ | none => _) = match s.offer c with | some o => _ | none => _
  cases s.offer c with
  | none => rfl
  | some o => rw [scene_putSeat, scene_setOffer]

end

end Sys2Proof.Machine
end

section
/-! SUPPORT. Scenes in which coverage, holders, live seats and offers agree, and the changes that keep them so. -/

namespace Sys2Proof.Machine
open Sys2Proof

/-- Booth `b` is configured, and `c` is the channel of its selected output. -/
def Scene.Faces (sets : Booth → Option BoothSettings) (S : Scene) (b : Booth) (c : Chan) : Prop :=
  ∃ m, sets b = some m ∧ selectedChan m (S.booth b) = c

theorem Scene.Faces.inj {sets : Booth → Option BoothSettings} {S : Scene} {b : Booth} {c d : Chan}
    (h : S.Faces sets b c) (k : S.Faces sets b d) : c = d := by
  obtain ⟨m, hm, rfl⟩ := h
  obtain ⟨n, hn, rfl⟩ := k
  rw [hm] at hn
  cases hn
  rfl

/-- What the offer `o` on `c` stands for. -/
structure Scene.Stands (plan : Chan → ChanSettings) (sets : Booth → Option BoothSettings) (S : Scene) (c : Chan)
    (o : Offer) : Prop where
  held : (S.chan c).holder = some ⟨o.holdBooth, o.holdSeat⟩
  waits : S.seat o.waitBooth o.waitSeat = .waiting
  faces : S.Faces sets o.waitBooth c
  within : o.kind = .inBooth ↔ o.waitBooth = o.holdBooth
  across : o.kind = .across → (plan c).policy = .offer

/-- The agreement of a scene, but for channel `x`, where one is named: `x` is COVERED, no seat is live on it, and no offer stands
on it. -/
structure Scene.AgreesBut (plan : Chan → ChanSettings) (sets : Booth → Option BoothSettings) (x : Option Chan) (S : Scene) :
    Prop where
  unassigned : ∀ c, (S.chan c).coverage = .unassigned ↔ (plan c).slot = none
  covered : ∀ c, x ≠ some c → ((S.chan c).coverage = .covered ↔ (S.chan c).holder.isSome = true)
  vacant : ∀ c, x = some c → (S.chan c).coverage = .covered ∧ S.offer c = none
  holderLive : ∀ c b k, x ≠ some c → (S.chan c).holder = some ⟨b, k⟩ → isLive (S.seat b k) = true ∧ S.Faces sets b c
  liveHolds : ∀ b k, isLive (S.seat b k) = true →
    ∃ c, x ≠ some c ∧ S.Faces sets b c ∧ (S.chan c).holder = some ⟨b, k⟩
  stands : ∀ c o, S.offer c = some o → S.Stands plan sets c o
  waitingOffered : ∀ b k, S.seat b k = .waiting → ∃ c o, S.offer c = some o ∧ o.waitBooth = b ∧ o.waitSeat = k

/-- Coverage, holders, live seats and offers agree. -/
abbrev Scene.Agrees (plan : Chan → ChanSettings) (sets : Booth → Option BoothSettings) (S : Scene) : Prop :=
  S.AgreesBut plan sets none

theorem hallAgrees_iff (s : State) :
    HallAgrees s ↔ (scene s).Agrees s.settings s.boothSettings ∧ ∀ b, MuteAgrees s b := by
  constructor
  · intro h
    refine ⟨⟨h.unassigned, fun c _ => h.covered c, nofun, fun c b k _ => h.holderLive c b k, fun b k hk => ?_, fun c o ho => ?_,
      h.waitingOffered⟩, h.mutes⟩
    · obtain ⟨m, hm, holder⟩ := h.liveHolds b k hk
      exact ⟨_, nofun, ⟨m, hm, rfl⟩, holder⟩
    · obtain ⟨held, waits, faces, within, across⟩ := h.offerHeld c o ho
      exact ⟨held, waits, faces, within, across⟩
  · rintro ⟨h, mutes⟩
    refine ⟨h.unassigned, fun c => h.covered c nofun, fun c b k => h.holderLive c b k nofun, fun b k hk => ?_,
      fun c o ho => ?_, h.waitingOffered, mutes⟩
    · obtain ⟨c, _, ⟨m, hm, rfl⟩, holder⟩ := h.liveHolds b k hk
      exact ⟨m, hm, holder⟩
    · obtain ⟨held, waits, faces, within, across⟩ := h.stands c o ho
      exact ⟨held, waits, faces, within, across⟩

namespace Scene
variable {plan : Chan → ChanSettings} {sets : Booth → Option BoothSettings} {S T : Scene} {x : Option Chan} {b d : Booth}
  {k j : Seat} {c : Chan}

theorem Faces.congr (h : (T.booth b).selection = (S.booth b).selection) : T.Faces sets b c ↔ S.Faces sets b c := by
  unfold Faces selectedChan
  rw [h]

/-- Agreement is read from coverage, holders, seats, offers and selections. -/
theorem AgreesBut.congr (h : S.AgreesBut plan sets x) (hc : ∀ c, (T.chan c).coverage = (S.chan c).coverage)
    (hh : ∀ c, (T.chan c).holder = (S.chan c).holder) (hs : T.seat = S.seat) (ho : T.offer = S.offer)
    (hb : ∀ b, (T.booth b).selection = (S.booth b).selection) : T.AgreesBut plan sets x := by
  have faces : ∀ b c, T.Faces sets b c ↔ S.Faces sets b c := fun b c => Faces.congr (hb b)
  constructor
  · intro c; rw [hc]; exact h.unassigned c
  · intro c; rw [hc, hh]; exact h.covered c
  · intro c; rw [hc, ho]; exact h.vacant c
  · intro c b k; rw [hh, hs, faces]; exact h.holderLive c b k
  · intro b k; rw [hs]; intro hk
    obtain ⟨c, hx, hf, hd⟩ := h.liveHolds b k hk
    exact ⟨c, hx, (faces b c).mpr hf, (hh c).trans hd⟩
  · intro c o; rw [ho]; intro hco
    obtain ⟨held, waits, faced, within, across⟩ := h.stands c o hco
    exact ⟨(hh c).trans held, by rw [hs]; exact waits, (faces _ c).mpr faced, within, across⟩
  · intro b k; rw [hs, ho]; exact h.waitingOffered b k

theorem AgreesBut.light (h : S.AgreesBut plan sets x) (b : Booth) (i : Option Indication) :
    (S.light b i).AgreesBut plan sets x :=
  h.congr (fun _ => rfl) (fun _ => rfl) rfl rfl fun d => by
    simp only [Scene.light, dress]
    split
    · next e => rw [e]
    · rfl

/-- A live seat that faces `c` holds it. -/
theorem AgreesBut.holds (h : S.AgreesBut plan sets x) (live : isLive (S.seat b k) = true) (faces : S.Faces sets b c) :
    x ≠ some c ∧ (S.chan c).holder = some ⟨b, k⟩ := by
  obtain ⟨d, hx, hf, holder⟩ := h.liveHolds b k live
  rw [faces.inj hf]
  exact ⟨hx, holder⟩

/-- A booth has one live seat at most. -/
theorem AgreesBut.one_live (h : S.AgreesBut plan sets x) (hk : isLive (S.seat b k) = true)
    (hj : isLive (S.seat b j) = true) : k = j := by
  obtain ⟨c, _, hc, hk⟩ := h.liveHolds b k hk
  obtain ⟨_, hj⟩ := h.holds hj hc
  rw [hk] at hj
  cases hj
  rfl

theorem isLive_waiting : isLive .waiting = false := rfl
theorem isLive_off : isLive .off = false := rfl
theorem isLive_live : isLive .live = true := rfl

/-- The live seat of `c` goes OFF, with no offer on `c`: the channel is left vacant. -/
theorem AgreesBut.vacate (h : S.Agrees plan sets) (live : isLive (S.seat b k) = true) (faces : S.Faces sets b c)
    (none : S.offer c = none) : (S.sit b k .off).AgreesBut plan sets (some c) := by
  obtain ⟨_, holder⟩ := h.holds live faces
  have covered : (S.chan c).coverage = .covered := (h.covered c nofun).mpr (by rw [holder]; rfl)
  have seat : ∀ d j, (S.sit b k .off).seat d j = if d = b ∧ j = k then .off else S.seat d j := fun _ _ => rfl
  refine ⟨h.unassigned, fun d _ => h.covered d nofun, ?_, fun d e j hx hd => ?_, fun e j hj => ?_, fun d o ho => ?_,
    fun e j hj => ?_⟩
  · rintro d ⟨⟩
    exact ⟨covered, none⟩
  · obtain ⟨hl, hf⟩ := h.holderLive d e j nofun hd
    refine ⟨?_, hf⟩
    rw [seat, if_neg]
    · exact hl
    · rintro ⟨rfl, rfl⟩
      exact hx (by rw [faces.inj hf])
  · rw [seat] at hj
    split at hj
    · cases hj
    · next other =>
      obtain ⟨d, _, hf, hd⟩ := h.liveHolds e j hj
      refine ⟨d, ?_, hf, hd⟩
      rintro ⟨⟩
      rw [holder] at hd
      cases hd
      exact other ⟨rfl, rfl⟩
  · obtain ⟨held, waits, faced, within, across⟩ := h.stands d o ho
    refine ⟨held, ?_, faced, within, across⟩
    rw [seat, if_neg]
    · exact waits
    · rintro ⟨hb, hk⟩
      rw [hb, hk] at waits
      rw [waits] at live
      cases live
  · rw [seat] at hj
    split at hj
    · cases hj
    · exact h.waitingOffered e j hj

/-- The offer on `c` is withdrawn. -/
theorem AgreesBut.withdraw (h : S.AgreesBut plan sets x) (c : Chan) : (S.withdraw c).AgreesBut plan sets x := by
  unfold Scene.withdraw
  cases ho : S.offer c with
  | none => exact h
  | some o =>
    obtain ⟨held, waits, faced, within, across⟩ := h.stands c o ho
    have seat : ∀ d j, ((S.bid c none).sit o.waitBooth o.waitSeat .off).seat d j =
        if d = o.waitBooth ∧ j = o.waitSeat then .off else S.seat d j := fun _ _ => rfl
    have offer : ∀ d, ((S.bid c none).sit o.waitBooth o.waitSeat .off).offer d = if d = c then none else S.offer d :=
      fun _ => rfl
    have live : ∀ d j, isLive (S.seat d j) = true → ¬ (d = o.waitBooth ∧ j = o.waitSeat) := by
      rintro d j hl ⟨rfl, rfl⟩
      rw [waits] at hl
      cases hl
    refine ⟨h.unassigned, h.covered, fun d hd => ?_, fun d e j hx hd => ?_, fun e j hj => ?_, fun d o' ho' => ?_,
      fun e j hj => ?_⟩
    · obtain ⟨cov, _⟩ := h.vacant d hd
      refine ⟨cov, ?_⟩
      rw [offer]
      split
      · rfl
      · exact (h.vacant d hd).2
    · obtain ⟨hl, hf⟩ := h.holderLive d e j hx hd
      refine ⟨?_, hf⟩
      rw [seat, if_neg (live e j hl)]
      exact hl
    · rw [seat] at hj
      split at hj
      · cases hj
      · exact h.liveHolds e j hj
    · rw [offer] at ho'
      split at ho'
      · cases ho'
      · next other =>
        obtain ⟨held', waits', faced', within', across'⟩ := h.stands d o' ho'
        refine ⟨held', ?_, faced', within', across'⟩
        rw [seat, if_neg]
        · exact waits'
        · rintro ⟨hb, _⟩
          rw [hb] at faced'
          exact other (faced'.inj faced)
    · rw [seat] at hj
      split at hj
      · cases hj
      · next other =>
        obtain ⟨d, o', ho', hb, hk⟩ := h.waitingOffered e j hj
        refine ⟨d, o', ?_, hb, hk⟩
        rw [offer, if_neg]
        · exact ho'
        · rintro rfl
          rw [ho] at ho'
          cases ho'
          exact other ⟨hb.symm, hk.symm⟩

/-- A vacant channel is released: it is neither covered nor held. -/
theorem AgreesBut.release (h : S.AgreesBut plan sets (some c)) {y : ChanLive} (held : y.holder = none)
    (uncovered : y.coverage ≠ .covered) (assigned : y.coverage ≠ .unassigned) : (S.cast c y).Agrees plan sets := by
  obtain ⟨cov, none⟩ := h.vacant c rfl
  have chan : ∀ d, (S.cast c y).chan d = if d = c then y else S.chan d := fun _ => rfl
  have slot : (plan c).slot ≠ Option.none := fun e => by
    rw [(h.unassigned c).mpr e] at cov
    cases cov
  have apart : ∀ d, d ≠ c → some c ≠ some d := fun d hd e => hd (Option.some.inj e).symm
  refine ⟨fun d => ?_, fun d _ => ?_, nofun, fun d e j _ hd => ?_, fun e j hj => ?_, fun d o ho => ?_, h.waitingOffered⟩
  · rw [chan]
    split
    · next e => rw [e]; exact iff_of_false assigned slot
    · exact h.unassigned d
  · rw [chan]
    split
    · exact iff_of_false uncovered (by rw [held]; simp)
    · next hd => exact h.covered d (apart d hd)
  · rw [chan] at hd
    split at hd
    · rw [held] at hd; cases hd
    · next hc => exact h.holderLive d e j (apart d hc) hd
  · obtain ⟨d, hd, hf, holder⟩ := h.liveHolds e j hj
    refine ⟨d, nofun, hf, ?_⟩
    rw [chan, if_neg fun e => hd (by rw [e])]
    exact holder
  · obtain ⟨held', waits, faced, within, across⟩ := h.stands d o ho
    refine ⟨?_, waits, faced, within, across⟩
    rw [chan, if_neg]
    · exact held'
    · rintro rfl
      exact nomatch none.symm.trans ho

/-- A vacant channel is taken by a seat that faces it, which goes live. -/
theorem AgreesBut.take (h : S.AgreesBut plan sets (some c)) (off : S.seat b k = .off) (faces : S.Faces sets b c) {y : ChanLive} (covered : y.coverage = .covered)
    (held : y.holder = some ⟨b, k⟩) {z : SeatState} (live : isLive z = true) : ((S.sit b k z).cast c y).Agrees plan sets := by
  obtain ⟨cov, none⟩ := h.vacant c rfl
  have chan : ∀ d, ((S.sit b k z).cast c y).chan d = if d = c then y else S.chan d := fun _ => rfl
  have seat : ∀ e j, ((S.sit b k z).cast c y).seat e j = if e = b ∧ j = k then z else S.seat e j := fun _ _ => rfl
  have slot : (plan c).slot ≠ Option.none := fun e => by
    rw [(h.unassigned c).mpr e] at cov
    cases cov
  have apart : ∀ d, d ≠ c → some c ≠ some d := fun d hd e => hd (Option.some.inj e).symm
  have notWaiting : z ≠ .waiting := fun e => by rw [e] at live; cases live
  refine ⟨fun d => ?_, fun d _ => ?_, nofun, fun d e j _ hd => ?_, fun e j hj => ?_, fun d o ho => ?_, fun e j hj => ?_⟩
  · rw [chan]
    split
    · next e => rw [e, covered]; exact iff_of_false nofun slot
    · exact h.unassigned d
  · rw [chan]
    split
    · exact iff_of_true covered (by rw [held]; rfl)
    · next hd => exact h.covered d (apart d hd)
  · rw [chan] at hd
    split at hd
    · next e =>
      rw [held] at hd
      cases hd
      rw [seat, if_pos ⟨rfl, rfl⟩, e]
      exact ⟨live, faces⟩
    · next hc =>
      obtain ⟨hl, hf⟩ := h.holderLive d e j (apart d hc) hd
      refine ⟨?_, hf⟩
      rw [seat]
      split
      · exact live
      · exact hl
  · rw [seat] at hj
    split at hj
    · next e =>
      refine ⟨c, nofun, e.1 ▸ faces, ?_⟩
      rw [chan, if_pos rfl, held, e.1, e.2]
    · obtain ⟨d, hd, hf, holder⟩ := h.liveHolds e j hj
      refine ⟨d, nofun, hf, ?_⟩
      rw [chan, if_neg fun e => hd (by rw [e])]
      exact holder
  · obtain ⟨held', waits, faced, within, across⟩ := h.stands d o ho
    refine ⟨?_, ?_, faced, within, across⟩
    · rw [chan, if_neg]
      · exact held'
      · rintro rfl
        exact nomatch none.symm.trans ho
    · rw [seat, if_neg]
      · exact waits
      · rintro ⟨hb, hk⟩
        rw [hb, hk, off] at waits
        cases waits
  · rw [seat] at hj
    split at hj
    · exact absurd hj notWaiting
    · exact h.waitingOffered e j hj

/-- A channel that nobody holds becomes vacant for a claim. -/
theorem AgreesBut.openUp (h : S.Agrees plan sets) (free : (S.chan c).holder = Option.none)
    (assigned : (S.chan c).coverage ≠ .unassigned) {y : ChanLive} (covered : y.coverage = .covered) :
    (S.cast c y).AgreesBut plan sets (some c) := by
  have chan : ∀ d, (S.cast c y).chan d = if d = c then y else S.chan d := fun _ => rfl
  have noOffer : S.offer c = Option.none := Option.eq_none_iff_forall_ne_some.mpr fun o ho => by
    have held := (h.stands c o ho).held
    rw [free] at held
    cases held
  have other : ∀ d, d ≠ c → (S.cast c y).chan d = S.chan d := fun d hd => by rw [chan, if_neg hd]
  have notC : ∀ d, some c ≠ some d → d ≠ c := fun d hd e => hd (by rw [e])
  refine ⟨fun d => ?_, fun d hd => ?_, ?_, fun d e j hx hd => ?_, fun e j hj => ?_, fun d o ho => ?_, h.waitingOffered⟩
  · rw [chan]
    split
    · next e => rw [covered, e]; exact iff_of_false nofun fun none => assigned ((h.unassigned c).mpr none)
    · exact h.unassigned d
  · rw [other d (notC d hd)]
    exact h.covered d nofun
  · rintro d ⟨⟩
    exact ⟨by rw [chan, if_pos rfl, covered], noOffer⟩
  · rw [other d (notC d hx)] at hd
    exact h.holderLive d e j nofun hd
  · obtain ⟨d, _, hf, holder⟩ := h.liveHolds e j hj
    have hd : d ≠ c := by
      rintro rfl
      rw [free] at holder
      cases holder
    exact ⟨d, fun e => hd (Option.some.inj e).symm, hf, by rw [other d hd]; exact holder⟩
  · obtain ⟨held, waits, faced, within, across⟩ := h.stands d o ho
    have hd : d ≠ c := by
      rintro rfl
      exact nomatch noOffer.symm.trans ho
    exact ⟨by rw [other d hd]; exact held, waits, faced, within, across⟩

/-- A live seat changes between LIVE and COUGH. -/
theorem AgreesBut.toggle (h : S.AgreesBut plan sets x) (live : isLive (S.seat b k) = true) {z : SeatState}
    (stays : isLive z = true) : (S.sit b k z).AgreesBut plan sets x := by
  have seat : ∀ e j, (S.sit b k z).seat e j = if e = b ∧ j = k then z else S.seat e j := fun _ _ => rfl
  have lives : ∀ e j, isLive ((S.sit b k z).seat e j) = isLive (S.seat e j) := fun e j => by
    rw [seat]
    split
    · next he => rw [he.1, he.2, live, stays]
    · rfl
  have waiting : ∀ e j, (S.sit b k z).seat e j = .waiting ↔ S.seat e j = .waiting := fun e j => by
    rw [seat]
    split
    · next he =>
      rw [he.1, he.2]
      refine iff_of_false (fun hz => ?_) fun hs => ?_
      · rw [hz] at stays; cases stays
      · rw [hs] at live; cases live
    · rfl
  refine ⟨h.unassigned, h.covered, h.vacant, fun d e j hx hd => ?_, fun e j hj => ?_, fun d o ho => ?_, fun e j hj => ?_⟩
  · rw [lives]; exact h.holderLive d e j hx hd
  · rw [lives] at hj; exact h.liveHolds e j hj
  · obtain ⟨held, waits, faced, within, across⟩ := h.stands d o ho
    exact ⟨held, (waiting ..).mpr waits, faced, within, across⟩
  · exact h.waitingOffered e j ((waiting e j).mp hj)

/-- An offer opens on a held channel with none, for an OFF seat that faces it. -/
theorem AgreesBut.bidFor (h : S.Agrees plan sets) {o : Offer} (held : (S.chan c).holder = some ⟨o.holdBooth, o.holdSeat⟩)
    (off : S.seat o.waitBooth o.waitSeat = .off) (free : S.offer c = Option.none) (faces : S.Faces sets o.waitBooth c)
    (within : o.kind = .inBooth ↔ o.waitBooth = o.holdBooth) (across : o.kind = .across → (plan c).policy = .offer) :
    ((S.bid c (some o)).sit o.waitBooth o.waitSeat .waiting).Agrees plan sets := by
  have seat : ∀ e j, ((S.bid c (some o)).sit o.waitBooth o.waitSeat .waiting).seat e j =
      if e = o.waitBooth ∧ j = o.waitSeat then .waiting else S.seat e j := fun _ _ => rfl
  have offer : ∀ d, ((S.bid c (some o)).sit o.waitBooth o.waitSeat .waiting).offer d =
      if d = c then some o else S.offer d := fun _ => rfl
  refine ⟨h.unassigned, h.covered, nofun, fun d e j hx hd => ?_, fun e j hj => ?_, fun d o' ho => ?_, fun e j hj => ?_⟩
  · obtain ⟨hl, hf⟩ := h.holderLive d e j hx hd
    refine ⟨?_, hf⟩
    rw [seat, if_neg]
    · exact hl
    · rintro ⟨rfl, rfl⟩
      rw [off] at hl
      cases hl
  · rw [seat] at hj
    split at hj
    · cases hj
    · exact h.liveHolds e j hj
  · rw [offer] at ho
    split at ho
    · next e =>
      cases ho
      subst e
      exact ⟨held, by rw [seat, if_pos ⟨rfl, rfl⟩], faces, within, across⟩
    · obtain ⟨held', waits, faced, within', across'⟩ := h.stands d o' ho
      refine ⟨held', ?_, faced, within', across'⟩
      rw [seat]
      split
      · rfl
      · exact waits
  · rw [seat] at hj
    split at hj
    · next e => exact ⟨c, o, by rw [offer, if_pos rfl], e.1.symm, e.2.symm⟩
    · obtain ⟨d, o', ho, hb, hk⟩ := h.waitingOffered e j hj
      refine ⟨d, o', ?_, hb, hk⟩
      rw [offer, if_neg]
      · exact ho
      · rintro rfl
        exact nomatch free.symm.trans ho

/-- Within a booth, another seat takes the channel at once; an ACROSS offer stays and names it as the holder. -/
theorem AgreesBut.direct {l : Seat} (h : S.Agrees plan sets) (live : isLive (S.seat b l) = true) (off : S.seat b k = .off)
    (faces : S.Faces sets b c) :
    ((((S.sit b l .off).rise b k).bid c
      ((S.offer c).map fun o => { o with holdBooth := b, holdSeat := k })).hand c ⟨b, k⟩).Agrees plan sets := by
  obtain ⟨_, holder⟩ := h.holds live faces
  have apart : k ≠ l := by
    rintro rfl
    rw [off] at live
    cases live
  generalize hT : (((S.sit b l .off).rise b k).bid c
    ((S.offer c).map fun o => { o with holdBooth := b, holdSeat := k })).hand c ⟨b, k⟩ = T
  have seat : ∀ e j, T.seat e j = if e = b ∧ j = k then .live else if e = b ∧ j = l then .off else S.seat e j :=
    fun _ _ => by rw [← hT]; rfl
  have chan : ∀ d, T.chan d = if d = c then { S.chan c with holder := some ⟨b, k⟩, source := .booth b } else S.chan d :=
    fun _ => by rw [← hT]; rfl
  have offer : ∀ d, T.offer d =
      if d = c then (S.offer c).map fun o => { o with holdBooth := b, holdSeat := k } else S.offer d :=
    fun _ => by rw [← hT]; rfl
  have faced : ∀ e d, T.Faces sets e d ↔ S.Faces sets e d := fun _ _ => by rw [← hT]; exact Iff.rfl
  have waiting : ∀ e j, T.seat e j = .waiting ↔ S.seat e j = .waiting := fun e j => by
    rw [seat]
    split
    · next he => rw [he.1, he.2, off]; exact iff_of_false nofun nofun
    · split
      · next he =>
        rw [he.1, he.2]
        exact iff_of_false nofun fun hs => by rw [hs] at live; cases live
      · rfl
  refine ⟨fun d => ?_, fun d _ => ?_, nofun, fun d e j _ hd => ?_, fun e j hj => ?_, fun d o ho => ?_, fun e j hj => ?_⟩
  · rw [chan]
    split
    · next e => rw [e]; exact h.unassigned c
    · exact h.unassigned d
  · rw [chan]
    split
    · exact iff_of_true ((h.covered c nofun).mpr (by rw [holder]; rfl)) rfl
    · exact h.covered d nofun
  · rw [chan] at hd
    split at hd
    · next e =>
      cases hd
      rw [seat, if_pos ⟨rfl, rfl⟩, faced, e]
      exact ⟨rfl, faces⟩
    · next other =>
      obtain ⟨hl, hf⟩ := h.holderLive d e j nofun hd
      rw [seat, faced]
      refine ⟨?_, hf⟩
      split
      · rfl
      · rw [if_neg]
        · exact hl
        · rintro ⟨rfl, rfl⟩
          exact other (hf.inj faces)
  · rw [seat] at hj
    split at hj
    · next e => exact ⟨c, nofun, (faced ..).mpr (e.1 ▸ faces), by rw [chan, if_pos rfl, e.1, e.2]⟩
    · split at hj
      · cases hj
      · next _ other =>
        obtain ⟨d, _, hf, hd⟩ := h.liveHolds e j hj
        refine ⟨d, nofun, (faced ..).mpr hf, ?_⟩
        rw [chan, if_neg]
        · exact hd
        · rintro rfl
          rw [holder] at hd
          cases hd
          exact other ⟨rfl, rfl⟩
  · rw [offer] at ho
    split at ho
    · next e =>
      subst e
      obtain ⟨o', ho', e⟩ := Option.map_eq_some_iff.mp ho
      obtain ⟨held, waits, hf, within, policy⟩ := h.stands _ o' ho'
      rw [holder] at held
      cases held
      rw [← e]
      exact ⟨by rw [chan, if_pos rfl], (waiting ..).mpr waits, (faced ..).mpr hf, within, policy⟩
    · next other =>
      obtain ⟨held, waits, hf, within, policy⟩ := h.stands d o ho
      exact ⟨by rw [chan, if_neg other]; exact held, (waiting ..).mpr waits, (faced ..).mpr hf, within, policy⟩
  · obtain ⟨d, o, ho, hb, hk⟩ := h.waitingOffered e j ((waiting e j).mp hj)
    by_cases e : d = c
    · subst e
      exact ⟨d, { o with holdBooth := b, holdSeat := k }, by rw [offer, if_pos rfl, ho]; rfl, hb, hk⟩
    · exact ⟨d, o, by rw [offer, if_neg e]; exact ho, hb, hk⟩

/-- A booth whose seats are all OFF may select, show and be set as anything. -/
theorem AgreesBut.reset {sets' : Booth → Option BoothSettings} (h : S.AgreesBut plan sets x)
    (off : ∀ j, S.seat b j = .off) (hc : T.chan = S.chan) (hs : T.seat = S.seat) (ho : T.offer = S.offer)
    (hb : ∀ d, d ≠ b → (T.booth d).selection = (S.booth d).selection ∧ sets' d = sets d) : T.AgreesBut plan sets' x := by
  have faces : ∀ d e, d ≠ b → (T.Faces sets' d e ↔ S.Faces sets d e) := fun d e hd => by
    obtain ⟨selection, same⟩ := hb d hd
    unfold Faces selectedChan
    rw [selection, same]
  have live : ∀ d j, isLive (S.seat d j) = true → d ≠ b := by
    rintro d j hl rfl
    rw [off] at hl
    cases hl
  refine ⟨by rw [hc]; exact h.unassigned, by rw [hc]; exact h.covered, by rw [hc, ho]; exact h.vacant, fun d e j hx hd => ?_,
    fun e j hj => ?_, fun d o hd => ?_, by rw [hs, ho]; exact h.waitingOffered⟩
  · rw [hc] at hd
    obtain ⟨hl, hf⟩ := h.holderLive d e j hx hd
    rw [hs, faces e d (live e j hl)]
    exact ⟨hl, hf⟩
  · rw [hs] at hj
    obtain ⟨d, hx, hf, hd⟩ := h.liveHolds e j hj
    exact ⟨d, hx, (faces e d (live e j hj)).mpr hf, by rw [hc]; exact hd⟩
  · rw [ho] at hd
    obtain ⟨held, waits, hf, within, across⟩ := h.stands d o hd
    have other : o.waitBooth ≠ b := fun e => by
      rw [e, off] at waits
      cases waits
    exact ⟨by rw [hc]; exact held, by rw [hs]; exact waits, (faces _ d other).mpr hf, within, across⟩

/-- Channels that nobody holds may change with their settings, to be covered by none; every other keeps its policy and its slot,
or both. -/
theorem AgreesBut.replan {plan' : Chan → ChanSettings} (h : S.Agrees plan sets) (hs : T.seat = S.seat)
    (ho : T.offer = S.offer) (hb : ∀ d, (T.booth d).selection = (S.booth d).selection)
    (hc : ∀ c, ((T.chan c).coverage = (S.chan c).coverage ∧ (T.chan c).holder = (S.chan c).holder ∧
        ((plan' c).slot = none ↔ (plan c).slot = none) ∧ ((S.chan c).holder.isSome = true → (plan' c).policy = (plan c).policy)) ∨
      ((S.chan c).holder = none ∧ (T.chan c).holder = none ∧ (T.chan c).coverage ≠ .covered ∧
        ((T.chan c).coverage = .unassigned ↔ (plan' c).slot = none))) : T.Agrees plan' sets := by
  have faces : ∀ d e, T.Faces sets d e ↔ S.Faces sets d e := fun d e => Faces.congr (hb d)
  have holder : ∀ c, (T.chan c).holder = (S.chan c).holder := fun c => by
    rcases hc c with ⟨_, same, _⟩ | ⟨none, none', _⟩
    · exact same
    · rw [none, none']
  refine ⟨fun c => ?_, fun c _ => ?_, nofun, fun d e j hx hd => ?_, fun e j hj => ?_, fun d o hd => ?_,
    by rw [hs, ho]; exact h.waitingOffered⟩
  · rcases hc c with ⟨same, _, slot, _⟩ | ⟨_, _, _, fits⟩
    · rw [same, slot]; exact h.unassigned c
    · exact fits
  · rcases hc c with ⟨same, same', _⟩ | ⟨_, none, uncovered, _⟩
    · rw [same, same']; exact h.covered c nofun
    · exact iff_of_false uncovered (by rw [none]; simp)
  · rw [hs, faces]
    exact h.holderLive d e j hx (holder d ▸ hd)
  · rw [hs] at hj
    obtain ⟨d, hx, hf, hd⟩ := h.liveHolds e j hj
    exact ⟨d, hx, (faces e d).mpr hf, by rw [holder]; exact hd⟩
  · rw [ho] at hd
    obtain ⟨held, waits, hf, within, across⟩ := h.stands d o hd
    refine ⟨by rw [holder]; exact held, by rw [hs]; exact waits, (faces _ d).mpr hf, within, fun e => ?_⟩
    rcases hc d with ⟨_, _, _, policy⟩ | ⟨none, _⟩
    · rw [policy (by rw [held]; rfl)]; exact across e
    · rw [none] at held; cases held

end Scene

end Sys2Proof.Machine
end

section
/-! SUPPORT. The events of the hall in the scene, and the mute states: what every one of them keeps. -/

namespace Sys2Proof.Machine
open Sys2Proof

/-! ## The composite operations -/

namespace Scene
variable (S : Scene)

/-- The turn of seat `k` of booth `b` on `c` ends: an offer that stands passes `c`, and with none `c` goes to live state `y`. -/
def quit (b : Booth) (k : Seat) (c : Chan) (y : ChanLive) : Scene :=
  match S.offer c with
  | some o => (S.sit b k .off).pass c o
  | none => (S.sit b k .off).cast c y

/-- Holder `x` of `c` is cut, with the waiting seat of an offer that stands, for `h`. -/
def oust (c : Chan) (x h : Holder) : Scene :=
  (match S.offer c with
    | some o =>
      ((((S.sit x.booth x.seat .off).light x.booth (some .cut)).pass c o).sit o.waitBooth o.waitSeat .off).light o.waitBooth
        (some .cut)
    | none => (S.sit x.booth x.seat .off).light x.booth (some .cut)).hand c h

/-- Booth `b` leaves `c` by an output switch; a channel that goes to no one goes to live state `y`. -/
def leave (b : Booth) (c : Chan) (y : ChanLive) : Scene :=
  match S.offer c with
  | some o =>
    match o.kind with
    | .inBooth => ((S.withdraw c).light b (some .withdrawn)).cast c y
    | .across => S.pass c o
  | none => S.cast c y

/-- Booth `b` selects output `y`. -/
def turnTo (b : Booth) (y : Side) : Scene := S.dress b { S.booth b with selection := y }

end Scene

section
variable {s t : State}

theorem released_congr {c : Chan} (hs : t.settings c = s.settings c) (hc : (t.chan c).source = (s.chan c).source) :
    released t c = released s c := by
  unfold released
  rw [hs, hc]

theorem scene_chan (h : (scene t).chan = (scene s).chan) (c : Chan) : t.chan c = s.chan c := congrFun h c

theorem putSeat_chan (b : Booth) (k : Seat) (x : SeatState) (s : State) (c : Chan) : (putSeat b k x s).chan c = s.chan c :=
  congrFun (congrArg Scene.chan (scene_putSeat b k x s)) c
theorem putSeat_offer (b : Booth) (k : Seat) (x : SeatState) (s : State) (c : Chan) : (putSeat b k x s).offer c = s.offer c :=
  congrFun (congrArg Scene.offer (scene_putSeat b k x s)) c

theorem released_putSeat (b : Booth) (k : Seat) (x : SeatState) (c : Chan) (s : State) :
    released (putSeat b k x s) c = released s c :=
  released_congr ((putSeat_deeds b k x s).moves.settings c) (by rw [putSeat_chan])

@[simp] theorem scene_endTurn (b : Booth) (k : Seat) (c : Chan) (m : Manner) (s : State) :
    scene (endTurn b k c m s) = (scene s).quit b k c (released s c) := by
  unfold endTurn settleChan Scene.quit
  show _ = match s.offer c with | some o => _ | none => _
  rw [putSeat_offer]
  cases s.offer c with
  | some o => rw [scene_passOffer, scene_putSeat]
  | none => rw [scene_turnEnd, scene_putSeat, released_putSeat]

@[simp] theorem scene_cutTurn (b : Booth) (k : Seat) (c : Chan) (s : State) :
    scene (cutTurn b k c s) = ((scene s).quit b k c (released s c)).light b (some .cut) := by
  rw [cutTurn, scene_indicate, scene_endTurn]

@[simp] theorem scene_claimLast (c : Chan) (x h : Holder) (s : State) :
    scene (claimLast c x h s) = (scene s).oust c x h := by
  have offer : (indicate x.booth (some .cut) (putSeat x.booth x.seat .off s)).offer c = s.offer c := putSeat_offer ..
  unfold claimLast Scene.oust
  simp only
  rw [scene_holderChange, offer]
  show _ = Scene.hand (match s.offer c with | some o => _ | none => _) c h
  cases s.offer c with
  | some o => simp only [scene_indicate, scene_putSeat, scene_passOffer]
  | none => simp only [scene_indicate, scene_putSeat]

theorem withdrawOffer_chan (c d : Chan) (s : State) : (withdrawOffer c s).chan d = s.chan d := by
  unfold withdrawOffer
  split
  · exact putSeat_chan ..
  · rfl

@[simp] theorem scene_leaveChan (b : Booth) (c : Chan) (s : State) :
    scene (leaveChan b c s) = (scene s).leave b c (released s c) := by
  have kept : released (indicate b (some .withdrawn) (withdrawOffer c s)) c = released s c := by
    refine released_congr (((withdrawOffer_deeds c s).trans (indicate_deeds ..)).moves.settings c) ?_
    exact congrArg ChanLive.source (withdrawOffer_chan c c s)
  unfold leaveChan Scene.leave
  show _ = match s.offer c with | some o => _ | none => _
  cases s.offer c with
  | some o =>
    simp only
    cases o.kind with
    | inBooth => simp only [scene_turnEnd, scene_indicate, scene_withdrawOffer, kept]
    | across => simp only [scene_passOffer]
  | none => simp only [scene_turnEnd]

/-! ## Mute states -/

theorem MuteAgrees.of_same {b : Booth} (hm : (t.booth b).muted = (s.booth b).muted) (hs : ∀ k, t.seat b k = s.seat b k)
    (h : MuteAgrees s b) : MuteAgrees t b := by
  unfold MuteAgrees at *
  rw [hm]
  simpa only [hs] using h

theorem syncMute_agrees (b : Booth) (s : State) : MuteAgrees (syncMute b s) b := by
  have seats : ∀ k, (syncMute b s).seat b k = s.seat b k := fun k =>
    congrFun (congrFun (congrArg Scene.seat (scene_syncMute b s)) b) k
  unfold MuteAgrees
  simp only [seats]
  have muted : ((syncMute b s).booth b).muted = (List.finRange 3).any (fun k => s.seat b k == .cough) := by
    unfold syncMute
    simp only
    split
    · next e => exact e.symm
    · rw [placeOrder_booth, State.setBooth_same]
  rw [muted]
  simp

theorem syncMute_other {b d : Booth} (s : State) (h : b ≠ d) : (syncMute b s).booth d = s.booth d := by
  unfold syncMute
  simp only
  split
  · rfl
  · rw [placeOrder_booth, State.setBooth_booth, if_neg h]

theorem setListen_muted (b d : Booth) (x y : Listen) (hold : Bool) (s : State) :
    ((setListen b x y hold s).booth d).muted = (s.booth d).muted ∧ ((setListen b x y hold s).booth d).seats = (s.booth d).seats := by
  rw [setListen_booth]
  split
  · next e => rw [e]; exact ⟨rfl, rfl⟩
  · exact ⟨rfl, rfl⟩

/-- A choice of a source leaves the seats and the mute state of every booth. -/
theorem chooseListen_mutes (b d : Booth) (x : Listen) (s : State) (h : MuteAgrees s d) :
    MuteAgrees (chooseListen b x s) d := by
  have same : ((chooseListen b x s).booth d).muted = (s.booth d).muted ∧
      ((chooseListen b x s).booth d).seats = (s.booth d).seats := by
    unfold chooseListen
    split <;> exact setListen_muted ..
  exact h.of_same same.1 fun k => by unfold State.seat; rw [same.2]

theorem MuteAgrees.of_booth {b : Booth} (hb : t.booth b = s.booth b) (h : MuteAgrees s b) : MuteAgrees t b :=
  h.of_same (by rw [hb]) fun k => by unfold State.seat; rw [hb]

theorem relayFollow_mutes (r : Chan) (d : Booth) (s : State) (h : MuteAgrees s d) : MuteAgrees (relayFollow r s) d := by
  unfold relayFollow
  generalize List.finRange 32 = bs
  induction bs generalizing s with
  | nil => exact h
  | cons b bs ih =>
    refine ih _ ?_
    unfold followOne
    simp only
    split
    · split
      · exact (chooseListen_mutes b d _ s h).of_booth (notify_booth ..)
      · exact chooseListen_mutes b d _ s h
    · exact h

theorem routeAfter_booth (before : State) (c : Chan) (s : State) (d : Booth) : (routeAfter before c s).booth d = s.booth d := by
  rw [routeAfter_routes before c s]; rfl

/-- The deeds of the hall keep each booth's mute state in agreement with its seats. -/
theorem Deeds.mutes {d : Booth} (deeds : Deeds s t) (h : MuteAgrees s d) : MuteAgrees t d := by
  induction deeds with
  | refl => exact h
  | @cover t c x f hf _ ih =>
    refine relayFollow_mutes c d _ ?_
    rcases hf (routeAfter t c (t.setChan c x)) with e | ⟨n, _, e⟩ <;> rw [e]
    · exact ih.of_booth (routeAfter_booth ..)
    · exact ih.of_booth ((notify_booth ..).trans (routeAfter_booth ..))
  | hold c x _ ih => exact ih.of_booth (routeAfter_booth ..)
  | @seats t b l same _ ih =>
    by_cases e : b = d
    · subst e; exact syncMute_agrees ..
    · refine ih.of_booth ?_
      rw [syncMute_other _ e, State.setBooth_booth, if_neg e]
  | @booth t b l same hs _ ih =>
    by_cases e : b = d
    · subst e
      exact ih.of_same (by rw [State.setBooth_same, same.muted]) fun k => by
        rw [State.setBooth_seat, if_pos rfl, hs]; rfl
    · refine ih.of_booth ?_
      rw [State.setBooth_booth, if_neg e]
  | acc b k x _ _ ih => exact ih.of_booth rfl
  | offer c x _ ih => exact ih.of_booth rfl
  | notice n _ _ ih => exact ih.of_booth (notify_booth ..)

end

/-! ## Agreement under the composite operations -/

namespace Scene
variable {plan : Chan → ChanSettings} {sets : Booth → Option BoothSettings} {S T : Scene} {x : Option Chan} {b d : Booth}
  {k j : Seat} {c : Chan}

theorem withdraw_offer (S : Scene) (c d : Chan) : (S.withdraw c).offer d = if d = c then none else S.offer d := by
  unfold withdraw
  cases h : S.offer c with
  | some o => rfl
  | none =>
    by_cases e : d = c
    · rw [if_pos e, e]; exact h
    · rw [if_neg e]

theorem withdraw_seat (S : Scene) (c : Chan) (d : Booth) (j : Seat) : (S.withdraw c).seat d j =
    if (S.offer c).map (fun o => (o.waitBooth, o.waitSeat)) = some (d, j) then .off else S.seat d j := by
  unfold withdraw
  cases S.offer c with
  | none => rfl
  | some o => simp [sit, bid, eq_comm]

theorem withdraw_chan (S : Scene) (c : Chan) : (S.withdraw c).chan = S.chan := by
  unfold withdraw
  split <;> rfl

theorem withdraw_booth (S : Scene) (c : Chan) : (S.withdraw c).booth = S.booth := by
  unfold withdraw
  split <;> rfl

theorem Faces.withdraw (h : S.Faces sets b c) (d : Chan) : (S.withdraw d).Faces sets b c :=
  (Faces.congr (by rw [withdraw_booth])).mpr h

/-- A live seat is not the one that waits for the channel. -/
theorem AgreesBut.not_waiting (h : S.AgreesBut plan sets x) (live : isLive (S.seat b k) = true) {o : Offer}
    (ho : S.offer c = some o) : ¬ (o.waitBooth = b ∧ o.waitSeat = k) := by
  rintro ⟨rfl, rfl⟩
  rw [(h.stands c o ho).waits] at live
  cases live

theorem AgreesBut.withdraw_live (h : S.AgreesBut plan sets x) (live : isLive (S.seat b k) = true) (c : Chan) :
    (S.withdraw c).seat b k = S.seat b k := by
  rw [withdraw_seat, if_neg]
  intro e
  obtain ⟨o, ho, e⟩ := Option.map_eq_some_iff.mp e
  exact h.not_waiting live ho ⟨congrArg Prod.fst e, congrArg Prod.snd e⟩

/-- The holder of `c` goes OFF with the waiting seat of any offer: the channel is left vacant. -/
theorem AgreesBut.clearOut (h : S.Agrees plan sets) (live : isLive (S.seat b k) = true) (faces : S.Faces sets b c) :
    ((S.withdraw c).sit b k .off).AgreesBut plan sets (some c) :=
  (h.withdraw c).vacate (by rw [h.withdraw_live live]; exact live) (faces.withdraw c) (by rw [withdraw_offer, if_pos rfl])

/-- A live seat's turn ends. -/
theorem AgreesBut.quit (h : S.Agrees plan sets) (live : isLive (S.seat b k) = true) (faces : S.Faces sets b c)
    {y : ChanLive} (held : y.holder = none) (uncovered : y.coverage ≠ .covered) (assigned : y.coverage ≠ .unassigned) :
    (S.quit b k c y).Agrees plan sets := by
  have vacant := h.clearOut live faces
  unfold Scene.quit
  cases ho : S.offer c with
  | none =>
    have same : S.withdraw c = S := by unfold Scene.withdraw; rw [ho]
    rw [same] at vacant
    exact vacant.release held uncovered assigned
  | some o =>
    have other := h.not_waiting live ho
    have wait := (h.stands c o ho).faces
    have seat : ∀ d j, ((S.withdraw c).sit b k .off).seat d j =
        if d = b ∧ j = k then .off else if d = o.waitBooth ∧ j = o.waitSeat then .off else S.seat d j := fun d j => by
      simp only [sit, withdraw_seat, ho, Option.map_some, Option.some.injEq, Prod.mk.injEq, eq_comm]
    have covered : (S.chan c).coverage = .covered := by
      have cov := (vacant.vacant c rfl).1
      simpa only [sit, withdraw_chan] using cov
    refine (vacant.take (b := o.waitBooth) (k := o.waitSeat) (z := .live)
      (y := { S.chan c with holder := some ⟨o.waitBooth, o.waitSeat⟩, source := .booth o.waitBooth }) ?_ (wait.withdraw c) covered
      rfl rfl).congr (fun d => ?_) (fun d => ?_) (funext fun d => funext fun j => ?_) (funext fun d => ?_) fun d => ?_
    · rw [seat, if_neg other, if_pos ⟨rfl, rfl⟩]
    · simp only [pass, hand, rise, tally, sit, bid, cast, withdraw_chan]
    · simp only [pass, hand, rise, tally, sit, bid, cast, withdraw_chan]
    · have rest := seat d j
      simp only [pass, hand, rise, tally, sit, bid, cast] at rest ⊢
      rw [rest]
      split
      · rfl
      · rfl
    · simp only [pass, hand, rise, tally, sit, bid, cast, withdraw_offer]
    · simp only [pass, hand, rise, tally, sit, bid, cast, withdraw_booth]

theorem oust_chan (S : Scene) (c : Chan) (x h : Holder) (d : Chan) : (S.oust c x h).chan d =
    if d = c then { S.chan c with holder := some h, source := .booth h.booth } else S.chan d := by
  unfold oust
  by_cases e : d = c
  · subst e
    cases S.offer d <;> simp [hand, cast, pass, rise, tally, sit, bid, light, dress]
  · cases S.offer c <;> simp [hand, cast, pass, rise, tally, sit, bid, light, dress, e]

theorem oust_seat (S : Scene) (c : Chan) (x h : Holder) (d : Booth) (j : Seat) : (S.oust c x h).seat d j =
    if d = x.booth ∧ j = x.seat then .off else (S.withdraw c).seat d j := by
  unfold oust withdraw
  cases S.offer c with
  | none => rfl
  | some o =>
    simp only [hand, cast, pass, rise, tally, sit, bid, light, dress]
    by_cases w : d = o.waitBooth ∧ j = o.waitSeat
    · rw [if_pos w, if_pos w, ite_self]
    · simp only [if_neg w]

theorem oust_offer (S : Scene) (c : Chan) (x h : Holder) (d : Chan) : (S.oust c x h).offer d =
    if d = c then none else S.offer d := by
  unfold oust
  cases ho : S.offer c with
  | none =>
    by_cases e : d = c
    · rw [if_pos e, e]; exact ho
    · rw [if_neg e]; rfl
  | some o => rfl

theorem light_selection (S : Scene) (b : Booth) (i : Option Indication) (d : Booth) :
    ((S.light b i).booth d).selection = (S.booth d).selection := by
  simp only [light, dress]
  split
  · next e => rw [e]
  · rfl

theorem oust_selection (S : Scene) (c : Chan) (x h : Holder) (d : Booth) :
    ((S.oust c x h).booth d).selection = (S.booth d).selection := by
  unfold oust
  cases S.offer c with
  | none => exact light_selection ..
  | some o => exact (light_selection ..).trans (light_selection ..)

/-- The seats that a claim of `c` turns OFF: its holder, and the seat that waits for it. -/
def Bound (S : Scene) (c : Chan) (d : Booth) (j : Seat) : Prop :=
  (S.chan c).holder = some ⟨d, j⟩ ∨ ∃ o, S.offer c = some o ∧ o.waitBooth = d ∧ o.waitSeat = j

/-- `U` is `S` once `c` is `h`'s, whose seat is left as it was. -/
structure Claims (c : Chan) (h : Holder) (S U : Scene) : Prop where
  other : ∀ d, d ≠ c → U.chan d = S.chan d
  covered : (U.chan c).coverage = .covered
  holder : (U.chan c).holder = some h
  bound : ∀ d j, S.Bound c d j → U.seat d j = .off
  rest : ∀ d j, ¬ S.Bound c d j → U.seat d j = S.seat d j
  offer : ∀ d, U.offer d = if d = c then none else S.offer d
  selection : ∀ d, (U.booth d).selection = (S.booth d).selection

theorem withdraw_seat_iff (S : Scene) (c : Chan) (d : Booth) (j : Seat) :
    ((∃ o, S.offer c = some o ∧ o.waitBooth = d ∧ o.waitSeat = j) → (S.withdraw c).seat d j = .off) ∧
    ((¬ ∃ o, S.offer c = some o ∧ o.waitBooth = d ∧ o.waitSeat = j) → (S.withdraw c).seat d j = S.seat d j) := by
  rw [withdraw_seat]
  constructor
  · rintro ⟨o, ho, rfl, rfl⟩
    rw [ho]
    exact if_pos rfl
  · intro none
    rw [if_neg]
    intro e
    obtain ⟨o, ho, e⟩ := Option.map_eq_some_iff.mp e
    cases e
    exact none ⟨o, ho, rfl, rfl⟩

theorem AgreesBut.claims_oust (agrees : S.Agrees plan sets) {x : Holder} (holder : (S.chan c).holder = some x) (h : Holder) :
    Claims c h S (S.oust c x h) where
  other d e := by rw [oust_chan, if_neg e]
  covered := by
    rw [oust_chan, if_pos rfl]
    exact (agrees.covered c nofun).mpr (by rw [holder]; rfl)
  holder := by rw [oust_chan, if_pos rfl]
  bound d j hb := by
    rw [oust_seat]
    split
    · rfl
    · next other =>
      refine (withdraw_seat_iff S c d j).1 (hb.resolve_left fun held => ?_)
      rw [holder] at held
      cases held
      exact other ⟨rfl, rfl⟩
  rest d j hb := by
    rw [oust_seat, if_neg]
    · exact (withdraw_seat_iff S c d j).2 fun waits => hb (.inr waits)
    · rintro ⟨rfl, rfl⟩
      exact hb (.inl holder)
  offer := oust_offer S c x h
  selection := oust_selection S c x h

/-- On a channel that nobody holds, no offer stands. -/
theorem AgreesBut.no_offer (agrees : S.AgreesBut plan sets x) (free : (S.chan c).holder = none) : S.offer c = none :=
  Option.eq_none_iff_forall_ne_some.mpr fun o ho => by
    have held := (agrees.stands c o ho).held
    rw [free] at held
    cases held

theorem AgreesBut.claims_cast (agrees : S.Agrees plan sets) (free : (S.chan c).holder = none) {h : Holder} {y : ChanLive}
    (covered : y.coverage = .covered) (held : y.holder = some h) : Claims c h S (S.cast c y) := by
  have none : S.offer c = none := agrees.no_offer free
  have chan : ∀ d, (S.cast c y).chan d = if d = c then y else S.chan d := fun _ => rfl
  refine ⟨fun d e => by rw [chan, if_neg e], by rw [chan, if_pos rfl, covered], by rw [chan, if_pos rfl, held],
    fun d j hb => ?_, fun _ _ _ => rfl, fun d => ?_, fun _ => rfl⟩
  · rcases hb with holder | ⟨o, ho, _⟩
    · rw [free] at holder; cases holder
    · rw [none] at ho; cases ho
  · split
    · next e => rw [e]; exact none
    · rfl

/-- An OFF seat that faces `c` claims it. -/
theorem AgreesBut.claimed {h : Holder} {U : Scene} (agrees : S.Agrees plan sets) (claims : Claims c h S U)
    (assigned : (S.chan c).coverage ≠ .unassigned) (off : S.seat h.booth h.seat = .off) (faces : S.Faces sets h.booth c)
    {z : SeatState} (live : isLive z = true) : (U.sit h.booth h.seat z).Agrees plan sets := by
  have seats : ∀ V : Scene, (∀ d j, S.Bound c d j → V.seat d j = .off) → (∀ d j, ¬ S.Bound c d j → V.seat d j = S.seat d j) →
      U.seat = V.seat := fun V hb hr => by
    funext d j
    by_cases e : S.Bound c d j
    · rw [claims.bound d j e, hb d j e]
    · rw [claims.rest d j e, hr d j e]
  cases holder : (S.chan c).holder with
  | none =>
    have none : S.offer c = none := agrees.no_offer holder
    have unbound : ∀ d j, ¬ S.Bound c d j := by
      rintro d j (held | ⟨o, ho, _⟩)
      · rw [holder] at held; cases held
      · rw [none] at ho; cases ho
    have same : U.seat = S.seat := seats S (fun d j e => absurd e (unbound d j)) fun _ _ _ => rfl
    have free := agrees.openUp (y := U.chan c) holder assigned claims.covered
    refine (free.take (y := U.chan c) off faces claims.covered claims.holder live).congr (fun d => ?_) (fun d => ?_) ?_ ?_
      claims.selection
    · show (U.chan d).coverage = (if d = c then _ else if d = c then _ else S.chan d).coverage
      split
      · next e => rw [e]
      · next e => rw [claims.other d e]
    · show (U.chan d).holder = (if d = c then _ else if d = c then _ else S.chan d).holder
      split
      · next e => rw [e]
      · next e => rw [claims.other d e]
    · exact funext fun d => funext fun j => congrArg (fun v => if d = h.booth ∧ j = h.seat then z else v)
        (congrFun (congrFun same d) j)
    · funext d
      refine (claims.offer d).trans ?_
      split
      · next e => rw [e]; exact none.symm
      · rfl
  | some x =>
    obtain ⟨xlive, xfaces⟩ := agrees.holderLive c x.booth x.seat nofun holder
    have same : U.seat = ((S.withdraw c).sit x.booth x.seat .off).seat := by
      refine seats _ (fun d j hb => ?_) fun d j hb => ?_
      · show (if _ then _ else (S.withdraw c).seat d j) = _
        split
        · rfl
        · next other =>
          refine (withdraw_seat_iff S c d j).1 (hb.resolve_left fun held => ?_)
          rw [holder] at held
          cases held
          exact other ⟨rfl, rfl⟩
      · show (if _ then _ else (S.withdraw c).seat d j) = _
        rw [if_neg]
        · exact (withdraw_seat_iff S c d j).2 fun waits => hb (.inr waits)
        · rintro ⟨rfl, rfl⟩
          exact hb (.inl holder)
    refine ((agrees.clearOut xlive xfaces).take (y := U.chan c) (z := z) ?_ (faces.withdraw c) claims.covered claims.holder
      live).congr (fun d => ?_) (fun d => ?_) ?_ ?_ fun d => ?_
    · show (if _ then _ else (S.withdraw c).seat _ _) = _
      rw [withdraw_seat, off, ite_self, ite_self]
    · show (U.chan d).coverage = (if d = c then _ else (S.withdraw c).chan d).coverage
      rw [withdraw_chan]
      split
      · next e => rw [e]
      · next e => rw [claims.other d e]
    · show (U.chan d).holder = (if d = c then _ else (S.withdraw c).chan d).holder
      rw [withdraw_chan]
      split
      · next e => rw [e]
      · next e => rw [claims.other d e]
    · exact funext fun d => funext fun j => congrArg (fun v => if d = h.booth ∧ j = h.seat then z else v)
        (congrFun (congrFun same d) j)
    · exact funext fun d => (claims.offer d).trans (withdraw_offer S c d).symm
    · exact (claims.selection d).trans (by rw [← withdraw_booth S c]; rfl)

end Scene

end Sys2Proof.Machine
end

section
/-! SUPPORT. The events of the hall keep coverage, holders, live seats and offers in agreement. -/

namespace Sys2Proof.Machine
open Sys2Proof

namespace Scene
variable {plan : Chan → ChanSettings} {sets : Booth → Option BoothSettings} {S T U : Scene} {x : Option Chan} {b d : Booth}
  {k j : Seat} {c : Chan}

/-- What `c` is once a booth has left it, if it goes to live state `y` where no offer passes it. -/
def leftTo (S : Scene) (c : Chan) (y : ChanLive) : ChanLive :=
  match S.offer c with
  | some o =>
    match o.kind with
    | .inBooth => y
    | .across => { S.chan c with holder := some ⟨o.waitBooth, o.waitSeat⟩, source := .booth o.waitBooth }
  | none => y

/-- What the seat that waits for `c` is once a booth has left it. -/
def leftSeat (S : Scene) (c : Chan) : SeatState := if (S.offer c).map Offer.kind = some .across then .live else .off

theorem leave_chan (S : Scene) (b : Booth) (c : Chan) (y : ChanLive) (d : Chan) :
    (S.leave b c y).chan d = if d = c then S.leftTo c y else S.chan d := by
  unfold leave leftTo
  cases S.offer c with
  | none => rfl
  | some o =>
    simp only
    cases o.kind with
    | across => rfl
    | inBooth =>
      show (if d = c then y else (S.withdraw c).chan d) = _
      rw [withdraw_chan]

theorem leave_seat (S : Scene) (b : Booth) (c : Chan) (y : ChanLive) (d : Booth) (j : Seat) : (S.leave b c y).seat d j =
    if ∃ o, S.offer c = some o ∧ o.waitBooth = d ∧ o.waitSeat = j then S.leftSeat c else S.seat d j := by
  unfold leave leftSeat
  cases ho : S.offer c with
  | none => simp [cast]
  | some o =>
    have waits : (∃ o', some o = some o' ∧ o'.waitBooth = d ∧ o'.waitSeat = j) ↔ d = o.waitBooth ∧ j = o.waitSeat := by
      simp [eq_comm]
    simp only [waits]
    cases hk : o.kind with
    | across => simp [hk, pass, hand, rise, cast, sit, bid, tally]
    | inBooth =>
      simp only [hk, Option.map_some]
      show (S.withdraw c).seat d j = _
      have seat := withdraw_seat_iff S c d j
      rw [ho, waits] at seat
      split
      · next w => rw [seat.1 w]; rfl
      · next w => rw [seat.2 w]

theorem leave_offer (S : Scene) (b : Booth) (c : Chan) (y : ChanLive) (d : Chan) :
    (S.leave b c y).offer d = if d = c then none else S.offer d := by
  unfold leave
  cases ho : S.offer c with
  | none =>
    show S.offer d = _
    by_cases e : d = c
    · rw [if_pos e, e, ho]
    · rw [if_neg e]
  | some o =>
    simp only
    cases hk : o.kind with
    | across => rfl
    | inBooth => exact withdraw_offer S c d

theorem leave_selection (S : Scene) (b : Booth) (c : Chan) (y : ChanLive) (d : Booth) :
    ((S.leave b c y).booth d).selection = (S.booth d).selection := by
  unfold leave
  cases ho : S.offer c with
  | none => rfl
  | some o =>
    simp only
    cases hk : o.kind with
    | across => rfl
    | inBooth => exact (light_selection ..).trans (by rw [withdraw_booth])

/-- A booth that faces a channel which it does not hold, and on which no offer stands, has no seat but OFF ones. -/
theorem AgreesBut.all_off (agrees : T.Agrees plan sets) (facing : T.Faces sets b c) (offer : T.offer c = none)
    (away : ∀ j, (T.chan c).holder ≠ some ⟨b, j⟩) (j : Seat) : T.seat b j = .off := by
  cases hs : T.seat b j with
  | off => rfl
  | live => exact absurd (agrees.holds (by rw [hs]; rfl) facing).2 (away j)
  | cough => exact absurd (agrees.holds (by rw [hs]; rfl) facing).2 (away j)
  | waiting =>
    obtain ⟨d, o, ho, rfl, _⟩ := agrees.waitingOffered b j hs
    have e := (agrees.stands d o ho).faces.inj facing
    rw [e, offer] at ho
    cases ho

/-- A live seat's booth leaves `c`: then each of its seats is OFF. -/
theorem AgreesBut.left (h : S.Agrees plan sets) (live : isLive (S.seat b k) = true) (faces : S.Faces sets b c)
    {y : ChanLive} (held : y.holder = none) (uncovered : y.coverage ≠ .covered) (assigned : y.coverage ≠ .unassigned) :
    ((S.sit b k .off).leave b c y).Agrees plan sets ∧ ∀ j, ((S.sit b k .off).leave b c y).seat b j = .off := by
  have holder := (h.holds live faces).2
  have agrees : ((S.sit b k .off).leave b c y).Agrees plan sets := by
    have quit := h.quit live faces held uncovered assigned
    unfold Scene.quit at quit
    by_cases across : (S.offer c).map Offer.kind = some .across
    · obtain ⟨o, ho, hk⟩ := Option.map_eq_some_iff.mp across
      rw [ho] at quit
      unfold Scene.leave
      rw [show (S.sit b k .off).offer c = some o from ho]
      simp only [hk]
      exact quit
    · have off : S.leftSeat c = .off := if_neg across
      have dest : S.leftTo c y = y := by
        unfold leftTo
        cases ho : S.offer c with
        | none => rfl
        | some o =>
          simp only
          cases hk : o.kind with
          | inBooth => rfl
          | across => exact absurd (by rw [ho, Option.map_some, hk]) across
      have chan : ∀ d, ((S.sit b k .off).leave b c y).chan d = if d = c then y else (S.withdraw c).chan d := fun d => by
        rw [leave_chan, withdraw_chan]
        show (if d = c then S.leftTo c y else S.chan d) = _
        rw [dest]
      refine ((h.clearOut live faces).release held uncovered assigned).congr (fun d => by rw [chan]; rfl)
        (fun d => by rw [chan]; rfl) ?_ (funext fun d => (leave_offer ..).trans (withdraw_offer S c d).symm) fun d => ?_
      · funext d j
        rw [leave_seat]
        show (if ∃ o, S.offer c = some o ∧ _ then S.leftSeat c else if d = b ∧ j = k then _ else _) =
          if d = b ∧ j = k then _ else (S.withdraw c).seat d j
        rw [off]
        by_cases w : ∃ o, S.offer c = some o ∧ o.waitBooth = d ∧ o.waitSeat = j
        · rw [(withdraw_seat_iff S c d j).1 w, ite_self]
          exact if_pos w
        · rw [(withdraw_seat_iff S c d j).2 w]
          exact if_neg w
      · exact (leave_selection ..).trans (congrArg (fun l => (l d).selection) (withdraw_booth S c).symm)
  refine ⟨agrees, fun j => ?_⟩
  have facing : ((S.sit b k .off).leave b c y).Faces sets b c := (Faces.congr (leave_selection ..)).mpr faces
  generalize hT : (S.sit b k .off).leave b c y = T at agrees facing ⊢
  have offer : T.offer c = none := by rw [← hT, leave_offer, if_pos rfl]
  have away : ∀ j, (T.chan c).holder ≠ some ⟨b, j⟩ := fun j e => by
    rw [← hT, leave_chan, if_pos rfl] at e
    unfold leftTo at e
    rw [show (S.sit b k .off).offer c = S.offer c from rfl] at e
    cases ho : S.offer c with
    | none => rw [ho] at e; exact nomatch held.symm.trans e
    | some o =>
      rw [ho] at e
      simp only at e
      obtain ⟨holds, _, _, within, _⟩ := h.stands c o ho
      rw [holder] at holds
      cases hk : o.kind with
      | inBooth => rw [hk] at e; exact nomatch held.symm.trans e
      | across =>
        rw [hk] at e
        obtain ⟨wait, _⟩ := Holder.mk.inj (Option.some.inj e)
        obtain ⟨hold, _⟩ := Holder.mk.inj (Option.some.inj holds)
        exact nomatch hk.symm.trans (within.mpr (wait.trans hold))
  exact agrees.all_off facing offer away j

/-- A claim of any assigned channel by an OFF seat that faces it leads somewhere. -/
theorem AgreesBut.exists_claims (h : S.Agrees plan sets) (c : Chan) (g : Holder) : ∃ U, Claims c g S U := by
  cases holder : (S.chan c).holder with
  | none => exact ⟨_, h.claims_cast holder (y := ⟨.covered, some g, .booth g.booth, 0, false⟩) rfl rfl⟩
  | some x => exact ⟨_, h.claims_oust holder g⟩

/-- A live seat takes the channel of its booth's other output, and leaves the one it was on. -/
theorem AgreesBut.switch {m : BoothSettings} {y : Side} {c₂ : Chan} {z : ChanLive} (h : S.Agrees plan sets)
    (live : isLive (S.seat b k) = true) (faces : S.Faces sets b c) (hm : sets b = some m) (hy : outputOf m y = c₂)
    (apart : c₂ ≠ c) (assigned : (S.chan c₂).coverage ≠ .unassigned) (claims : Claims c₂ ⟨b, k⟩ S U)
    (held : z.holder = none) (uncovered : z.coverage ≠ .covered) (zassigned : z.coverage ≠ .unassigned) :
    ((U.turnTo b y).leave b c z).Agrees plan sets := by
  obtain ⟨left, off⟩ := h.left live faces held uncovered zassigned
  generalize hL : (S.sit b k .off).leave b c z = L at left off
  have turned : (L.turnTo b y).Agrees plan sets := left.reset off rfl rfl rfl fun d hd => ⟨by
    show (if d = b then _ else L.booth d).selection = _
    rw [if_neg hd], rfl⟩
  have chan : ∀ d, d ≠ c → L.chan d = S.chan d := fun d hd => by rw [← hL, leave_chan, if_neg hd]; rfl
  have offer : ∀ d, d ≠ c → L.offer d = S.offer d := fun d hd => by rw [← hL, leave_offer, if_neg hd]; rfl
  have facing : (L.turnTo b y).Faces sets b c₂ := ⟨m, hm, by
    show outputOf m (if b = b then { L.booth b with selection := y } else L.booth b).selection = c₂
    rw [if_pos rfl]
    exact hy⟩
  obtain ⟨V, taken⟩ := turned.exists_claims c₂ ⟨b, k⟩
  have bound : ∀ d j, (L.turnTo b y).Bound c₂ d j ↔ S.Bound c₂ d j := fun d j => by
    unfold Bound
    rw [show (L.turnTo b y).chan c₂ = _ from chan c₂ apart, show (L.turnTo b y).offer c₂ = _ from offer c₂ apart]
  have notBound : ¬ S.Bound c₂ b k := by
    rintro (holder | ⟨o, ho, e⟩)
    · exact apart ((h.holderLive c₂ b k nofun holder).2.inj faces)
    · exact h.not_waiting live ho e
  have notBoth : ∀ d j, S.Bound c₂ d j → ¬ ∃ o, S.offer c = some o ∧ o.waitBooth = d ∧ o.waitSeat = j := by
    rintro d j (holder | ⟨o₂, ho₂, rfl, rfl⟩) ⟨o, ho, hb, hj⟩
    · exact h.not_waiting (h.holderLive c₂ d j nofun holder).1 ho ⟨hb, hj⟩
    · exact apart ((h.stands c₂ o₂ ho₂).faces.inj (hb ▸ (h.stands c o ho).faces))
  have waits : ¬ ∃ o, S.offer c = some o ∧ o.waitBooth = b ∧ o.waitSeat = k := by
    rintro ⟨o, ho, e⟩
    exact h.not_waiting live ho e
  have dest : (U.turnTo b y).leftTo c z = S.leftTo c z := by
    unfold leftTo
    rw [show (U.turnTo b y).offer c = S.offer c from (claims.offer c).trans (if_neg apart.symm),
      show (U.turnTo b y).chan c = S.chan c from claims.other c apart.symm]
  refine (turned.claimed taken (by rw [show (L.turnTo b y).chan c₂ = _ from chan c₂ apart]; exact assigned) (off k) facing
    (z := S.seat b k) live).congr (fun d => ?_) (fun d => ?_) (funext fun d => funext fun j => ?_) (funext fun d => ?_)
    fun d => ?_
  · show ((U.turnTo b y).leave b c z |>.chan d).coverage = (V.chan d).coverage
    rw [leave_chan, dest]
    by_cases e : d = c₂
    · rw [e, if_neg apart, taken.covered]
      exact claims.covered
    · rw [taken.other d e, show (L.turnTo b y).chan d = L.chan d from rfl, ← hL, leave_chan,
        show (U.turnTo b y).chan d = S.chan d from claims.other d e]
      rfl
  · show ((U.turnTo b y).leave b c z |>.chan d).holder = (V.chan d).holder
    rw [leave_chan, dest]
    by_cases e : d = c₂
    · rw [e, if_neg apart, taken.holder]
      exact claims.holder
    · rw [taken.other d e, show (L.turnTo b y).chan d = L.chan d from rfl, ← hL, leave_chan,
        show (U.turnTo b y).chan d = S.chan d from claims.other d e]
      rfl
  · have seatL : L.seat d j = if ∃ o, S.offer c = some o ∧ o.waitBooth = d ∧ o.waitSeat = j then S.leftSeat c
        else if d = b ∧ j = k then .off else S.seat d j := by rw [← hL, leave_seat]; rfl
    rw [leave_seat, show (U.turnTo b y).offer c = S.offer c from (claims.offer c).trans (if_neg apart.symm),
      show (U.turnTo b y).leftSeat c = S.leftSeat c from by
        unfold leftSeat
        rw [show (U.turnTo b y).offer c = S.offer c from (claims.offer c).trans (if_neg apart.symm)]]
    show (if _ then _ else U.seat d j) = if d = b ∧ j = k then S.seat b k else V.seat d j
    by_cases own : d = b ∧ j = k
    · obtain ⟨rfl, rfl⟩ := own
      rw [if_neg waits, if_pos ⟨rfl, rfl⟩, claims.rest d j notBound]
    · rw [if_neg own]
      by_cases e : S.Bound c₂ d j
      · rw [if_neg (notBoth d j e), claims.bound d j e, taken.bound d j ((bound d j).mpr e)]
      · rw [claims.rest d j e, taken.rest d j fun f => e ((bound d j).mp f),
          show (L.turnTo b y).seat d j = L.seat d j from rfl, seatL, if_neg own]
  · rw [leave_offer]
    show (if d = c then none else U.offer d) = V.offer d
    rw [taken.offer, claims.offer, show (L.turnTo b y).offer d = L.offer d from rfl, ← hL, leave_offer]
    by_cases e : d = c
    · rw [if_pos e, if_pos e, ite_self]
    · rw [if_neg e, if_neg e]; rfl
  · rw [leave_selection]
    refine Eq.trans ?_ (taken.selection d).symm
    show (if d = b then _ else U.booth d).selection = (if d = b then _ else L.booth d).selection
    by_cases e : d = b
    · rw [if_pos e, if_pos e]
    · rw [if_neg e, if_neg e, claims.selection, ← hL, leave_selection]
      rfl

end Scene

end Sys2Proof.Machine
end

section
/-! SUPPORT. The operations of the hall on states whose scene agrees: the button events, the expiries, a miss, and a booth that
loses its seats. -/

namespace Sys2Proof.Machine
open Sys2Proof

/-- Coverage, holders, live seats and offers agree under the settings of the state. -/
def Placed (s : State) : Prop := (scene s).Agrees s.settings s.boothSettings

section
variable {s t : State} {b : Booth} {k : Seat} {c : Chan}

theorem Placed.of_moves (moves : Moves s t) (h : (scene t).Agrees s.settings s.boothSettings) : Placed t := by
  unfold Placed
  rw [show t.settings = s.settings from funext moves.settings, show t.boothSettings = s.boothSettings from
    funext moves.boothSettings]
  exact h

theorem Placed.of_scene (moves : Moves s t) (e : scene t = scene s) (h : Placed s) : Placed t :=
  .of_moves moves (e ▸ h)

theorem faces_selected {m : BoothSettings} (hm : s.boothSettings b = some m) :
    (scene s).Faces s.boothSettings b (selectedChan m (s.booth b)) := ⟨m, hm, rfl⟩

theorem live_of_liveSeat (h : liveSeat s b = some k) : isLive (s.seat b k) = true := List.find?_some (p := fun k => isLive (s.seat b k)) h

theorem liveSeat_eq_none : liveSeat s b = none ↔ ∀ k, isLive (s.seat b k) = false := by
  unfold liveSeat
  simp

theorem seat_off (live : isLive (s.seat b k) = false) (waits : s.seat b k ≠ .waiting) : s.seat b k = .off := by
  cases h : s.seat b k <;> simp_all [isLive]

theorem released_holder (s : State) (c : Chan) : (released s c).holder = none := by
  unfold released; split <;> rfl
theorem released_uncovered (s : State) (c : Chan) : (released s c).coverage ≠ .covered := by
  unfold released; split <;> exact nofun
theorem released_assigned (s : State) (c : Chan) : (released s c).coverage ≠ .unassigned := by
  unfold released; split <;> exact nofun

/-! ## Offers withdrawn -/

theorem scene_withdrawAll (b : Booth) (s : State) :
    scene (withdrawAll b s) = (waitingChans s b).foldl Scene.withdraw (scene s) := by
  unfold withdrawAll
  generalize waitingChans s b = cs
  induction cs generalizing s with
  | nil => rfl
  | cons c cs ih => rw [List.foldl_cons, ih, scene_withdrawOffer, List.foldl_cons]

theorem mem_waitingChans : c ∈ waitingChans s b ↔ ∃ o, s.offer c = some o ∧ o.waitBooth = b := by
  unfold waitingChans
  cases h : s.offer c <;> simp [h]

end

namespace Scene
variable {plan : Chan → ChanSettings} {sets : Booth → Option BoothSettings} {S T U : Scene} {x : Option Chan} {b d : Booth}
  {k j : Seat} {c : Chan}

theorem foldl_withdraw_offer (cs : List Chan) (S : Scene) (d : Chan) :
    (cs.foldl Scene.withdraw S).offer d = if d ∈ cs then none else S.offer d := by
  induction cs generalizing S with
  | nil => simp
  | cons c cs ih =>
    rw [List.foldl_cons, ih, withdraw_offer]
    by_cases e : d = c <;> simp [e]

theorem foldl_withdraw_keeps (cs : List Chan) (S : Scene) :
    (cs.foldl Scene.withdraw S).chan = S.chan ∧ (cs.foldl Scene.withdraw S).booth = S.booth := by
  induction cs generalizing S with
  | nil => exact ⟨rfl, rfl⟩
  | cons c cs ih =>
    obtain ⟨chan, booth⟩ := ih (S.withdraw c)
    exact ⟨chan.trans (withdraw_chan S c), booth.trans (withdraw_booth S c)⟩

theorem AgreesBut.foldl_withdraw (cs : List Chan) (h : S.AgreesBut plan sets x) :
    (cs.foldl Scene.withdraw S).AgreesBut plan sets x ∧
      ∀ d j, isLive ((cs.foldl Scene.withdraw S).seat d j) = isLive (S.seat d j) := by
  induction cs generalizing S with
  | nil => exact ⟨h, fun _ _ => rfl⟩
  | cons c cs ih =>
    obtain ⟨agrees, live⟩ := ih (h.withdraw c)
    refine ⟨agrees, fun d j => (live d j).trans ?_⟩
    rw [withdraw_seat]
    split
    · next w =>
      obtain ⟨o, ho, e⟩ := Option.map_eq_some_iff.mp w
      cases e
      rw [(h.stands c o ho).waits]
      rfl
    · rfl

end Scene

section
variable {s t : State} {b : Booth} {k : Seat} {c : Chan}

/-- The offers of a booth's waiting seats are withdrawn: none of its seats waits, and its live seat is the same. -/
theorem Placed.withdrawAll (h : Placed s) (b : Booth) :
    Placed (withdrawAll b s) ∧ (∀ k, (Machine.withdrawAll b s).seat b k ≠ .waiting) ∧
      ∀ k, isLive ((Machine.withdrawAll b s).seat b k) = isLive (s.seat b k) := by
  obtain ⟨agrees, live⟩ := Scene.AgreesBut.foldl_withdraw (waitingChans s b) h
  rw [← scene_withdrawAll] at agrees live
  refine ⟨.of_moves (withdrawAll_moves b s) agrees, fun k waits => ?_, live b⟩
  obtain ⟨c, o, ho, hb, _⟩ := agrees.waitingOffered b k waits
  rw [scene_withdrawAll, Scene.foldl_withdraw_offer] at ho
  split at ho
  · cases ho
  · next other => exact other (mem_waitingChans.mpr ⟨o, ho, hb⟩)

/-- A turn ends. -/
theorem Placed.endTurn (h : Placed s) (live : isLive (s.seat b k) = true) (faces : (scene s).Faces s.boothSettings b c)
    (m : Manner) : Placed (endTurn b k c m s) := by
  refine .of_moves (endTurn_deeds b k c m s).moves ?_
  rw [scene_endTurn]
  exact Scene.AgreesBut.quit h live faces (released_holder s c) (released_uncovered s c) (released_assigned s c)

theorem Placed.indicate (h : Placed s) (b : Booth) (i : Option Indication) : Placed (indicate b i s) := by
  refine .of_moves (indicate_deeds b i s).moves ?_
  rw [scene_indicate]
  exact Scene.AgreesBut.light h b i

theorem Placed.notify (h : Placed s) (n : NoticeBody) : Placed (notify n s) :=
  .of_scene (notify_moves n s) (scene_notify n s) h

/-- A write of a booth's presence, misses and indication. -/
theorem Placed.setBooth (h : Placed s) {l : BoothLive} (hs : l.seats = (s.booth b).seats)
    (hl : l.selection = (s.booth b).selection) : Placed (s.setBooth b l) := by
  unfold Placed
  rw [scene_setBooth hs]
  refine Scene.AgreesBut.congr h (fun _ => rfl) (fun _ => rfl) rfl rfl fun d => ?_
  show (if d = b then plain l else plain (s.booth d)).selection = (plain (s.booth d)).selection
  split
  · next e => rw [e]; exact hl
  · rfl

/-- A live seat's turn ends in a booth in which no seat waits: then each of its seats is OFF. -/
theorem Placed.endTurn_off (h : Placed s) (live : isLive (s.seat b k) = true) (faces : (scene s).Faces s.boothSettings b c)
    (idle : ∀ j, s.seat b j ≠ .waiting) (m : Manner) (j : Seat) : (Machine.endTurn b k c m s).seat b j = .off := by
  have agrees := Scene.AgreesBut.quit h live faces (released_holder s c) (released_uncovered s c) (released_assigned s c)
  have e := scene_endTurn b k c m s
  show (scene (Machine.endTurn b k c m s)).seat b j = .off
  rw [e]
  refine agrees.all_off (c := c) ((Scene.Faces.congr ?_).mpr faces) ?_ (fun i => ?_) j
  · unfold Scene.quit
    cases (scene s).offer c <;> rfl
  · unfold Scene.quit
    cases ho : (scene s).offer c with
    | none => exact ho
    | some o => exact if_pos rfl
  · unfold Scene.quit
    cases ho : (scene s).offer c with
    | none =>
      show (if c = c then released s c else _).holder ≠ _
      rw [if_pos rfl, released_holder]
      exact nofun
    | some o =>
      show (if c = c then (⟨_, some (⟨o.waitBooth, o.waitSeat⟩ : Holder), _, _, _⟩ : ChanLive) else _).holder ≠ _
      rw [if_pos rfl]
      intro e
      cases e
      exact idle _ (Scene.AgreesBut.stands h c o ho).waits

/-- The turn of the live seat of a booth, where it has one, ends. -/
def liveEnds (b : Booth) (s : State) : State :=
  match s.boothSettings b, liveSeat s b with
  | some m, some h => endTurn b h (selectedChan m (s.booth b)) .turnEnd s
  | _, _ => s

theorem seatLoss_eq (b : Booth) (s : State) : seatLoss b s = syncMute b ((liveEnds b (withdrawAll b s)).setBooth b
    { (liveEnds b (withdrawAll b s)).booth b with seats := Bank.fill 3 .off, indication := none }) := rfl

theorem liveEnds_deeds (b : Booth) (s : State) : Deeds s (liveEnds b s) := by
  unfold liveEnds
  split
  · exact endTurn_deeds ..
  · exact .refl

theorem Placed.liveEnds (h : Placed s) (b : Booth) (idle : ∀ j, s.seat b j ≠ .waiting) :
    Placed (liveEnds b s) ∧ ∀ j, (Machine.liveEnds b s).seat b j = .off := by
  unfold Machine.liveEnds
  split
  · next m k hm hk =>
    exact ⟨h.endTurn (live_of_liveSeat hk) (faces_selected hm) _,
      h.endTurn_off (live_of_liveSeat hk) (faces_selected hm) idle _⟩
  · next other =>
    refine ⟨h, fun j => seat_off (Bool.eq_false_iff.mpr fun live => ?_) (idle j)⟩
    obtain ⟨c, _, ⟨m, hm, _⟩, _⟩ := Scene.AgreesBut.liveHolds h b j live
    cases hk : liveSeat s b with
    | some k => exact other m k hm hk
    | none => exact nomatch live.symm.trans (liveSeat_eq_none.mp hk j)

/-- A booth whose seats are OFF already has them written OFF, with other fields that its selection and its seats do not hang
on. -/
theorem Placed.unseat (h : Placed s) (off : ∀ j, s.seat b j = .off) {l : BoothLive} (hs : ∀ j, l.seats.get j = .off) :
    Placed (s.setBooth b l) ∧ ∀ j, (s.setBooth b l).seat b j = .off := by
  have seats : ∀ d j, (s.setBooth b l).seat d j = s.seat d j := fun d j => by
    rw [State.setBooth_seat]
    split
    · next e =>
      subst e
      rw [off, hs]
    · rfl
  refine ⟨Scene.AgreesBut.reset (b := b) h off rfl (funext fun d => funext fun j => seats d j) rfl fun d hd => ⟨?_, rfl⟩,
    fun j => (seats b j).trans (off j)⟩
  show ((s.setBooth b l).booth d).selection = (s.booth d).selection
  rw [State.setBooth_booth, if_neg (Ne.symm hd)]

theorem syncMute_seat (b d : Booth) (j : Seat) (s : State) : (syncMute b s).seat d j = s.seat d j :=
  congrFun (congrFun (congrArg Scene.seat (scene_syncMute b s)) d) j

theorem Placed.syncMute (h : Placed s) (b : Booth) : Placed (syncMute b s) :=
  .of_scene (syncMute_moves b s) (scene_syncMute b s) h

/-- A booth loses its seats. -/
theorem Placed.seatLoss (h : Placed s) (b : Booth) : Placed (seatLoss b s) ∧ ∀ j, (Machine.seatLoss b s).seat b j = .off := by
  obtain ⟨withdrawn, idle, _⟩ := h.withdrawAll b
  obtain ⟨ended, off⟩ := withdrawn.liveEnds b idle
  obtain ⟨unseated, off⟩ := ended.unseat off (l := { (Machine.liveEnds b (Machine.withdrawAll b s)).booth b with
    seats := Bank.fill 3 .off, indication := none }) fun _ => Bank.get_fill ..
  rw [seatLoss_eq]
  exact ⟨unseated.syncMute b, fun j => (syncMute_seat ..).trans (off j)⟩

end

end Sys2Proof.Machine
end

section
/-! SUPPORT. Every event of the hall leaves coverage, holders, live seats and offers in agreement. -/

namespace Sys2Proof.Machine
open Sys2Proof

section
variable {s t : State} {b : Booth} {k : Seat} {c : Chan}

/-- Seat `k` changes its state under a scene that agrees. -/
theorem Placed.of_scene_eq {S : Scene} (moves : Moves s t) (e : scene t = S) (h : S.Agrees s.settings s.boothSettings) :
    Placed t := .of_moves moves (e ▸ h)

theorem Placed.withdrawOffer (h : Placed s) (c : Chan) : Placed (withdrawOffer c s) :=
  .of_scene_eq (withdrawOffer_deeds c s).moves (scene_withdrawOffer c s) (Scene.AgreesBut.withdraw h c)

theorem Placed.lapse (h : Placed s) {o : Offer} (ho : s.offer c = some o) : Placed (lapse c o s) := by
  unfold Machine.lapse
  refine Placed.notify (Placed.indicate ?_ _ _) _
  have withdrawn := h.withdrawOffer c
  unfold Machine.withdrawOffer at withdrawn
  rw [ho] at withdrawn
  exact withdrawn

theorem Placed.expireOffer (h : Placed s) {o : Offer} (ho : s.offer c = some o) : Placed (expireOffer c o s) := by
  unfold Machine.expireOffer
  split
  · obtain ⟨live, faces⟩ := Scene.AgreesBut.holderLive h c _ _ nofun (Scene.AgreesBut.stands h c o ho).held
    exact h.endTurn live faces _
  · exact h.lapse ho

theorem Placed.holder_none (h : Placed s) (uncovered : (s.chan c).coverage ≠ .covered) : (s.chan c).holder = none := by
  have held : ¬ (s.chan c).holder.isSome = true := fun e => uncovered ((Scene.AgreesBut.covered h c nofun).mpr e)
  simpa using held

theorem Placed.covered_of_holder (h : Placed s) {x : Holder} (holder : (s.chan c).holder = some x) :
    (s.chan c).coverage = .covered :=
  (Scene.AgreesBut.covered h c nofun).mpr (show (s.chan c).holder.isSome = true by rw [holder]; rfl)

theorem Placed.expireHold (h : Placed s) (c : Chan) : Placed (expireHold c s) := by
  unfold Machine.expireHold
  split
  · next hold =>
    obtain ⟨holding, _⟩ := hold
    refine .of_scene_eq (uncover_deeds c s).moves (scene_uncover c s) (Scene.AgreesBut.replan h rfl rfl (fun _ => rfl) fun d => ?_)
    by_cases e : d = c
    · subst e
      have slot : (s.settings d).slot ≠ none := fun e => by
        exact nomatch holding.symm.trans ((Scene.AgreesBut.unassigned h d).mpr e)
      refine .inr ⟨h.holder_none (by rw [holding]; exact nofun), ?_⟩
      rw [show ∀ x, ((scene s).cast d x).chan d = x from fun x => if_pos rfl]
      exact ⟨rfl, nofun, iff_of_false nofun slot⟩
    · refine .inl ?_
      rw [show ∀ x, ((scene s).cast c x).chan d = (scene s).chan d from fun x => if_neg e]
      exact ⟨rfl, rfl, Iff.rfl, fun _ => rfl⟩
  · exact h

/-! ## SEAT_ON -/

/-- The seat of a claim: OFF, with no live seat in its booth. -/
theorem Placed.claimSeat (h : Placed s) (off : s.seat b k = .off) (faces : (scene s).Faces s.boothSettings b c)
    (idle : liveSeat s b = none) : Placed (claimSeat b k c s) := by
  have outside : ∀ x : Holder, (s.chan c).holder = some x → b ≠ x.booth := by
    rintro x hx rfl
    exact nomatch (Scene.AgreesBut.holderLive h c _ _ nofun hx).1.symm.trans (liveSeat_eq_none.mp idle x.seat)
  have moves := (claimSeat_deeds b k c s).moves
  unfold Machine.claimSeat at moves ⊢
  split
  · exact h.indicate _ _
  · next x covered holder =>
    simp only [covered, holder] at moves
    cases policy : (s.settings c).policy with
    | first => exact h.indicate _ _
    | last =>
      simp only [policy] at moves
      refine .of_scene_eq moves (by rw [scene_goLive, scene_claimLast]) ?_
      exact (Scene.AgreesBut.claimed h (Scene.AgreesBut.claims_oust h holder ⟨b, k⟩)
        (fun e => nomatch covered.symm.trans e) off faces (z := .live) rfl).congr
        (fun _ => rfl) (fun _ => rfl) rfl rfl fun _ => rfl
    | offer =>
      simp only [policy] at moves ⊢
      cases ho : s.offer c with
      | some o => exact h.indicate _ _
      | none =>
        simp only [ho] at moves
        refine .of_scene_eq moves (by rw [scene_putSeat, scene_setOffer]) (Scene.AgreesBut.bidFor (o := ⟨_, _, _, _, _, _⟩) h holder off ho faces ?_ fun _ => policy)
        exact iff_of_false nofun (outside x holder)
  · next assigned free =>
    have free : (s.chan c).holder = none := by
      cases hx : (s.chan c).holder with
      | none => rfl
      | some x => exact (free x (h.covered_of_holder hx) hx).elim
    refine .of_scene_eq (s := s) ?_ (by rw [scene_turnStart, scene_goLive]) ?_
    · exact ((goLive_deeds ..).trans (turnStart_deeds ..)).moves
    · exact (Scene.AgreesBut.claimed h (Scene.AgreesBut.claims_cast h free (h := ⟨b, k⟩)
        (y := ⟨.covered, some ⟨b, k⟩, .booth b, 0, false⟩) rfl rfl) assigned off faces (z := .live) rfl).congr
        (fun _ => rfl) (fun _ => rfl) rfl rfl fun _ => rfl

theorem Placed.inBoothRequest {l : Seat} (h : Placed s) (m : BoothSettings) (live : isLive (s.seat b l) = true)
    (off : s.seat b k = .off) (faces : (scene s).Faces s.boothSettings b c) : Placed (inBoothRequest b m l k c s) := by
  have moves := (inBoothRequest_deeds b m l k c s).moves
  unfold Machine.inBoothRequest at moves ⊢
  split
  · next mode =>
    simp only [mode] at moves
    refine .of_scene_eq moves ?_ (Scene.AgreesBut.direct h live off faces)
    have offer : (goLive b k (putSeat b l .off s)).offer c = (scene s).offer c :=
      congrArg (fun x => Scene.offer x c) ((scene_goLive b k _).trans (congrArg (fun S => Scene.rise S b k) (scene_putSeat ..)))
    unfold directHandover
    simp only [scene_notify, scene_holderChange, scene_setOffer, scene_goLive, scene_putSeat, offer]
  · next mode =>
    simp only at moves
    cases ho : s.offer c with
    | some o => exact h.indicate _ _
    | none =>
      refine .of_scene_eq (s := s) ?_ (by rw [scene_putSeat, scene_setOffer])
        (Scene.AgreesBut.bidFor (o := ⟨_, _, _, _, _, _⟩) h (Scene.AgreesBut.holds h live faces).2 off ho faces
          (iff_of_true rfl rfl) nofun)
      exact ((Deeds.refl.offer c _).trans (putSeat_deeds ..)).moves

theorem Placed.seatOn (h : Placed s) {m : BoothSettings} (hm : s.boothSettings b = some m) (k : Seat) :
    Placed (seatOnEvent b m k s) := by
  unfold seatOnEvent
  split
  · next off =>
    simp only
    cases hl : liveSeat s b with
    | none => exact h.claimSeat off (faces_selected hm) hl
    | some l => exact h.inBoothRequest m (live_of_liveSeat hl) off (faces_selected hm)
  · exact h

/-! ## SEAT_OFF, COUGH and GIVE -/

theorem Placed.toggle (h : Placed s) (live : isLive (s.seat b k) = true) {x : SeatState} (stays : isLive x = true) :
    Placed (putSeat b k x s) :=
  .of_scene_eq (putSeat_deeds b k x s).moves (scene_putSeat b k x s) (Scene.AgreesBut.toggle h live stays)

/-- A waiting seat has its offer. -/
theorem Placed.seatOffer (h : Placed s) (waits : s.seat b k = .waiting) : seatOffer s b k ≠ none := by
  obtain ⟨c, o, ho, rfl, rfl⟩ := Scene.AgreesBut.waitingOffered h b k waits
  intro none
  have found := List.find?_eq_none.mp none c (List.mem_finRange c)
  rw [show s.offer c = some o from ho] at found
  simp at found

theorem Placed.seatOff (h : Placed s) {m : BoothSettings} (hm : s.boothSettings b = some m) (k : Seat) :
    Placed (seatOffEvent b m k s) := by
  unfold seatOffEvent
  cases hs : s.seat b k with
  | off => exact h
  | waiting =>
    simp only
    cases ho : Machine.seatOffer s b k with
    | some c => exact h.withdrawOffer c
    | none => exact absurd ho (h.seatOffer hs)
  | live => exact h.endTurn (by rw [hs]; rfl) (faces_selected hm) _
  | cough => exact h.endTurn (by rw [hs]; rfl) (faces_selected hm) _

theorem Placed.coughDown (h : Placed s) (b : Booth) (m : BoothSettings) (k : Seat) : Placed (coughDownEvent b m k s) := by
  unfold coughDownEvent
  split
  · next e => exact h.toggle (by rw [e]; rfl) rfl
  · exact h

theorem Placed.coughUp (h : Placed s) (b : Booth) (m : BoothSettings) (k : Seat) : Placed (coughUpEvent b m k s) := by
  unfold coughUpEvent
  split
  · next e => exact h.toggle (by rw [e]; rfl) rfl
  · exact h

theorem Placed.give (h : Placed s) {m : BoothSettings} (hm : s.boothSettings b = some m) (k : Seat) :
    Placed (giveEvent b m k s) := by
  unfold giveEvent
  simp only
  split
  · split
    · next e =>
      simp only [Bool.and_eq_true] at e
      exact h.endTurn e.1.1 (faces_selected hm) _
    · exact h
  · exact h

/-! ## OUTPUT_SELECT -/

/-- A booth whose seats are OFF selects an output. -/
theorem Placed.select (h : Placed s) (off : ∀ j, s.seat b j = .off) (y : Side) : Placed (select b y s) := by
  refine .of_scene_eq (select_deeds b y s).moves (scene_select b y s) (Scene.AgreesBut.reset (b := b) h off rfl rfl rfl fun d hd => ⟨?_, rfl⟩)
  show (if d = b then _ else (scene s).booth d).selection = _
  rw [if_neg hd]

theorem Placed.outputSwitch (h : Placed s) {m : BoothSettings} (hm : s.boothSettings b = some m)
    (live : isLive (s.seat b k) = true) {y : Side} (apart : outputOf m y ≠ selectedChan m (s.booth b)) :
    Placed (outputSwitch b k (selectedChan m (s.booth b)) (outputOf m y) y s) := by
  have moves := (outputSwitch_deeds b k (selectedChan m (s.booth b)) (outputOf m y) y s).moves
  have faces := faces_selected hm
  generalize selectedChan m (s.booth b) = c at *
  have switched : ∀ {u : State}, Moves s (leaveChan b c (Machine.select b y u)) →
      (s.chan (outputOf m y)).coverage ≠ .unassigned → Scene.Claims (outputOf m y) ⟨b, k⟩ (scene s) (scene u) →
      Placed (leaveChan b c (Machine.select b y u)) := fun {u} moves assigned claims => by
    refine .of_moves moves ?_
    rw [scene_leaveChan, scene_select]
    exact Scene.AgreesBut.switch h live faces hm rfl apart assigned claims (released_holder _ _) (released_uncovered _ _)
      (released_assigned _ _)
  unfold Machine.outputSwitch at moves ⊢
  split
  · exact h.indicate _ _
  · next x covered holder =>
    simp only [covered, holder] at moves
    split
    · next policy =>
      simp only [policy] at moves
      refine switched moves (by rw [covered]; exact nofun) ?_
      rw [scene_claimLast]
      exact Scene.AgreesBut.claims_oust h holder ⟨b, k⟩
    · exact h.indicate _ _
  · next assigned free =>
    have free : (s.chan (outputOf m y)).holder = none := by
      cases hx : (s.chan (outputOf m y)).holder with
      | none => rfl
      | some x => exact (free x (h.covered_of_holder hx) hx).elim
    refine switched ?_ assigned ?_
    · exact ((turnStart_deeds ..).trans ((select_deeds ..).trans (leaveChan_deeds ..))).moves
    · rw [scene_turnStart]
      exact Scene.AgreesBut.claims_cast h free rfl rfl

/-- A booth whose two sides are one channel, under LAST, takes the channel from its own live seat and leaves it. -/
theorem Placed.switchOnto (h : Placed s) (live : isLive (s.seat b k) = true) (faces : (scene s).Faces s.boothSettings b c)
    (y : Side) : Placed (leaveChan b c (Machine.select b y (claimLast c ⟨b, k⟩ ⟨b, k⟩ s))) := by
  refine .of_moves ((claimLast_deeds ..).trans ((select_deeds ..).trans (leaveChan_deeds ..))).moves ?_
  have holder : ((scene s).chan c).holder = some ⟨b, k⟩ := (Scene.AgreesBut.holds h live faces).2
  have claims := Scene.AgreesBut.claims_oust h holder ⟨b, k⟩
  rw [← scene_claimLast] at claims
  have seats : ∀ d j, (scene (claimLast c ⟨b, k⟩ ⟨b, k⟩ s)).seat d j = (((scene s).withdraw c).sit b k .off).seat d j :=
    fun d j => by rw [scene_claimLast, Scene.oust_seat]; rfl
  rw [scene_leaveChan, scene_select]
  generalize scene (claimLast c ⟨b, k⟩ ⟨b, k⟩ s) = U at claims seats
  generalize hy : released _ c = z
  have held : z.holder = none := hy ▸ released_holder _ _
  have agrees := (Scene.AgreesBut.clearOut h live faces).release held (hy ▸ released_uncovered _ _) (hy ▸ released_assigned _ _)
  have none : (U.turnTo b y).offer c = none := (claims.offer c).trans (if_pos rfl)
  have gone : (U.turnTo b y).leave b c z = (U.turnTo b y).cast c z := by
    unfold Scene.leave
    rw [none]
  have off := agrees.all_off (b := b) (c := c) ((Scene.Faces.congr
    (congrArg (fun l => (l b).selection) (Scene.withdraw_booth (scene s) c))).mpr faces)
    ((Scene.withdraw_offer (scene s) c c).trans (if_pos rfl)) fun j => by
      show (if c = c then z else _).holder ≠ _
      rw [if_pos rfl, held]
      exact nofun
  change (Scene.leave (U.turnTo b y) b c z).Agrees _ _
  rw [gone]
  refine agrees.reset off (funext fun d => ?_) (funext fun d => funext fun j => seats d j) (funext fun d => ?_) fun d hd => ⟨?_, rfl⟩
  · show (if d = c then z else U.chan d) = if d = c then z else ((scene s).withdraw c).chan d
    rw [Scene.withdraw_chan]
    by_cases e : d = c
    · rw [if_pos e, if_pos e]
    · rw [if_neg e, if_neg e, claims.other d e]
  · exact (claims.offer d).trans (Scene.withdraw_offer (scene s) c d).symm
  · show (if d = b then _ else U.booth d).selection = (((scene s).withdraw c).booth d).selection
    rw [if_neg hd, claims.selection, Scene.withdraw_booth]

theorem Scene.withdraw_turnTo (S : Scene) (b : Booth) (y : Side) (c : Chan) :
    (S.turnTo b y).withdraw c = (S.withdraw c).turnTo b y := by
  unfold Scene.withdraw
  show (match S.offer c with | some o => _ | none => _) = _
  cases S.offer c <;> rfl

theorem Scene.foldl_withdraw_turnTo (cs : List Chan) (S : Scene) (b : Booth) (y : Side) :
    cs.foldl Scene.withdraw (S.turnTo b y) = (cs.foldl Scene.withdraw S).turnTo b y := by
  induction cs generalizing S with
  | nil => rfl
  | cons c cs ih => rw [List.foldl_cons, List.foldl_cons, Scene.withdraw_turnTo, ih]

/-- A booth with no live seat selects an output, its offers withdrawn. -/
theorem Placed.selectIdle (h : Placed s) (idle : liveSeat s b = none) (y : Side) :
    Placed (Machine.withdrawAll b (Machine.select b y s)) := by
  obtain ⟨withdrawn, waits, live⟩ := h.withdrawAll b
  have off : ∀ j, (Machine.withdrawAll b s).seat b j = .off := fun j =>
    seat_off ((live j).trans (liveSeat_eq_none.mp idle j)) (waits j)
  have selected := withdrawn.select off y
  refine .of_scene_eq (s := s) ((select_deeds ..).trans (withdrawAll_deeds ..)).moves (S := scene (Machine.select b y (Machine.withdrawAll b s))) ?_ ?_
  · rw [scene_select, scene_withdrawAll, scene_withdrawAll, scene_select]
    exact Scene.foldl_withdraw_turnTo ..
  · have moves := ((withdrawAll_deeds b s).trans (select_deeds b y _)).moves
    rw [← show _ = s.settings from funext moves.settings, ← show _ = s.boothSettings from funext moves.boothSettings]
    exact selected

theorem waitingChans_isEmpty (h : (waitingChans s b).isEmpty = true) : withdrawAll b s = s := by
  unfold withdrawAll
  rw [List.isEmpty_iff.mp h]
  rfl

theorem Placed.outputSelect (h : Placed s) {m : BoothSettings} (hm : s.boothSettings b = some m)
    (y : Side) : Placed (outputSelectEvent b m y s) := by
  unfold outputSelectEvent
  split
  · exact h
  next fits =>
  split
  · next k hk =>
    have live := live_of_liveSeat hk
    by_cases same : outputOf m y = selectedChan m (s.booth b)
    · have faces := faces_selected hm
      rw [same]
      generalize selectedChan m (s.booth b) = c at faces
      have holder := (Scene.AgreesBut.holds h live faces).2
      unfold Machine.outputSwitch
      rw [h.covered_of_holder holder, show (s.chan c).holder = some ⟨b, k⟩ from holder]
      simp only
      split
      · exact h.switchOnto live faces y
      · exact h.indicate _ _
    · exact h.outputSwitch hm live same
  · next idle =>
    have selected := h.selectIdle idle y
    split
    · next empty =>
      rw [waitingChans_isEmpty (s := Machine.select b y s) empty] at selected
      exact selected
    · exact selected.indicate _ _

end

end Sys2Proof.Machine
end

section
/-! SUPPORT. What leaves the scene of the hall as it was but for the sources the booths chose; and what a CHAN_ASSIGN, a change
of the booths and a reset leave of it. -/

namespace Sys2Proof.Machine
open Sys2Proof

/-- The scene without the sources that the booths chose. -/
def Scene.hush (S : Scene) : Scene := { S with booth := fun b => { S.booth b with chosen := .floor } }

/-- The scenes of two states differ in the sources that the booths chose at most. -/
def Alike (s t : State) : Prop := (scene t).hush = (scene s).hush

section
variable {s t u : State} {b : Booth} {k : Seat} {c : Chan}

theorem Alike.trans (h : Alike s t) (k : Alike t u) : Alike s u := Eq.trans (b := (scene t).hush) k h
theorem Alike.of_scene (h : scene t = scene s) : Alike s t := congrArg Scene.hush h
theorem Alike.chan (h : Alike s t) (c : Chan) : t.chan c = s.chan c := congrFun (congrArg Scene.chan h) c
theorem Alike.seat (h : Alike s t) (b : Booth) (k : Seat) : t.seat b k = s.seat b k :=
  congrFun (congrFun (congrArg Scene.seat h) b) k
theorem Alike.acc (h : Alike s t) (b : Booth) (k : Seat) : t.acc b k = s.acc b k :=
  congrFun (congrFun (congrArg Scene.acc h) b) k
theorem Alike.offer (h : Alike s t) (c : Chan) : t.offer c = s.offer c := congrFun (congrArg Scene.offer h) c
theorem Alike.booth (h : Alike s t) (b : Booth) :
    { plain (t.booth b) with chosen := .floor } = { plain (s.booth b) with chosen := .floor } :=
  congrFun (congrArg Scene.booth h) b
theorem Alike.selection (h : Alike s t) (b : Booth) : (t.booth b).selection = (s.booth b).selection :=
  congrArg (fun S : Scene => (S.booth b).selection) h

theorem Alike.foldl {α : Type} {f : State → α → State} (step : ∀ s a, Alike s (f s a)) (l : List α) (s : State) :
    Alike s (l.foldl f s) := by
  induction l generalizing s with
  | nil => rfl
  | cons a l ih => exact (step s a).trans (ih _)

theorem setListen_alike (b : Booth) (x y : Listen) (hold : Bool) (s : State) : Alike s (setListen b x y hold s) := by
  have written : Alike s (s.setBooth b { s.booth b with chosen := x, effective := y, autoHold := hold }) := by
    unfold Alike
    rw [scene_setBooth (by rfl)]
    refine Scene.ext rfl rfl rfl rfl (funext fun d => ?_)
    show { (if d = b then _ else plain (s.booth d)) with chosen := Listen.floor } = _
    split
    · next e => rw [e]; rfl
    · rfl
  unfold setListen
  simp only
  split
  · exact written
  · exact written.trans (.of_scene (scene_placeOrder ..))

theorem chooseListen_alike (b : Booth) (x : Listen) (s : State) : Alike s (chooseListen b x s) := by
  unfold chooseListen
  split <;> exact setListen_alike ..

theorem relayUnassigned_alike (c : Chan) (s : State) : Alike s (relayUnassigned c s) := by
  refine Alike.foldl (fun s b => ?_) _ s
  split
  · exact chooseListen_alike ..
  · rfl

theorem relayUnproduced_alike (s : State) : Alike s (relayUnproduced s) := by
  unfold relayUnproduced
  simp only
  generalize relayArcs s = arcs
  refine Alike.foldl (fun s b => ?_) _ s
  split
  · split
    · rfl
    · exact chooseListen_alike ..
  · rfl

theorem voidCycle_alike (b : Booth) (s : State) : Alike s (voidCycle b s) :=
  .of_scene (scene_of_part (voidCycle_cycle b s) rfl)

/-- Agreement is read from a scene without the sources chosen. -/
theorem Alike.agrees {plan : Chan → ChanSettings} {sets : Booth → Option BoothSettings} (h : Alike s t)
    (agrees : (scene s).Agrees plan sets) : (scene t).Agrees plan sets :=
  agrees.congr (fun c => congrArg ChanLive.coverage (h.chan c)) (fun c => congrArg ChanLive.holder (h.chan c))
    (funext fun b => funext (h.seat b)) (funext h.offer) h.selection

theorem Alike.placed (h : Alike s t) (moves : Moves s t) (placed : Placed s) : Placed t :=
  .of_moves moves (h.agrees placed)

/-! ## A booth that becomes ABSENT, and new settings -/

theorem Placed.becomeAbsent (h : Placed s) (b : Booth) (cause : MissCause) : Placed (becomeAbsent b cause s) := by
  unfold Machine.becomeAbsent
  dsimp only
  exact ((Placed.notify (h.setBooth (by rfl) (by rfl)) _).seatLoss b).1

theorem Placed.miss (h : Placed s) (b : Booth) (cause : MissCause) : Placed (miss b cause s) := by
  unfold Machine.miss
  simp only
  split
  · split
    · exact h.setBooth rfl rfl
    · exact h.becomeAbsent b cause
  · exact h

theorem HallOp.placed (op : HallOp s t) (h : Placed s) : Placed t := by
  cases op with
  | record b i p m g => exact h.setBooth rfl rfl
  | hold c => exact h.expireHold c
  | offer c o ho => exact h.expireOffer ho
  | seatOn b m k hm => exact h.seatOn hm k
  | seatOff b m k hm => exact h.seatOff hm k
  | coughDown b m k => exact h.coughDown b m k
  | coughUp b m k => exact h.coughUp b m k
  | give b m k hm => exact h.give hm k
  | output b m y hm => exact h.outputSelect hm y
  | miss b cause => exact h.miss b cause
  | cut b m k hm hk => exact (h.endTurn (live_of_liveSeat hk) (faces_selected hm) _).indicate b _

/-- A booth whose seats are OFF takes new settings. -/
theorem Placed.reseated (h : Placed s) (off : ∀ j, s.seat b j = .off) (x : Option BoothSettings) :
    Placed (relayUnproduced (reseated b x s)) := by
  refine (relayUnproduced_alike _).placed (relayUnproduced_moves _) ?_
  have listen := setListen_alike b .floor .floor false s
  have cycle := voidCycle_alike b ((setListen b .floor .floor false s).setBoothSettings b x)
  have same : Alike s (Machine.reseated b x s) := listen.trans cycle
  have settings : (Machine.reseated b x s).settings = s.settings := by
    funext c
    unfold Machine.reseated
    rw [voidCycle_cycle]
    exact (setListen_moves ..).settings c
  unfold Placed
  rw [settings]
  refine Scene.AgreesBut.reset (b := b) h off (funext same.chan) (funext fun d => funext (same.seat d)) (funext same.offer) fun d hd => ?_
  refine ⟨same.selection d, ?_⟩
  rw [reseated_boothSettings, if_neg (Ne.symm hd)]

theorem Placed.configureBooth (h : Placed s) (idle : liveSeat s b = none) (m : BoothSettings) :
    Placed (configureBooth b m s) := by
  obtain ⟨withdrawn, waits, live⟩ := h.withdrawAll b
  have off : ∀ j, (Machine.withdrawAll b s).seat b j = .off := fun j =>
    seat_off ((live j).trans (liveSeat_eq_none.mp idle j)) (waits j)
  unfold Machine.configureBooth
  dsimp only
  obtain ⟨unseated, off⟩ := withdrawn.unseat off (l := { (Machine.withdrawAll b s).booth b with
      seats := Bank.fill 3 .off, selection := .a
      indication := if (waitingChans s b).isEmpty then none else some Indication.withdrawn, presence := .pending, misses := 0
      lastGood := none }) fun _ => Bank.get_fill ..
  exact unseated.reseated off (some m)

theorem Placed.clearBooth (h : Placed s) (b : Booth) : Placed (clearBooth b s) := by
  obtain ⟨lost, off⟩ := h.seatLoss b
  unfold Machine.clearBooth
  dsimp only
  obtain ⟨unseated, off⟩ := lost.unseat off (l := { (Machine.seatLoss b s).booth b with
      selection := .a, indication := none, presence := .unconfigured, misses := 0, lastGood := none }) off
  exact unseated.reseated off none

theorem BoothOp.placed (op : BoothOp s t) (h : Placed s) : Placed t := by
  cases op with
  | choose b m x hm ht => exact (chooseListen_alike b x s).placed (chooseListen_moves b x s) h
  | configure b m args hm hl hr => exact h.configureBooth hl m
  | clear b => exact h.clearBooth b

end

end Sys2Proof.Machine
end

section
/-! PROOF. The hall's coverage, holders, live seats, offers and mute states agree after every step (O48). -/

namespace Sys2Proof.Machine
open Sys2Proof

section
variable {s t u : State} {b d : Booth} {k : Seat} {c : Chan}

/-! ## Mute states under the changes that are no event of the hall -/

theorem foldl_mutes {α : Type} {f : State → α → State} {d : Booth} (step : ∀ s a, MuteAgrees s d → MuteAgrees (f s a) d)
    (l : List α) (s : State) (h : MuteAgrees s d) : MuteAgrees (l.foldl f s) d := by
  induction l generalizing s with
  | nil => exact h
  | cons a l ih => exact ih _ (step s a h)

theorem relayUnassigned_mutes (c : Chan) (d : Booth) (s : State) (h : MuteAgrees s d) :
    MuteAgrees (relayUnassigned c s) d := by
  refine foldl_mutes (fun s b h => ?_) _ s h
  split
  · exact chooseListen_mutes b d _ s h
  · exact h

theorem relayUnproduced_mutes (d : Booth) (s : State) (h : MuteAgrees s d) : MuteAgrees (relayUnproduced s) d := by
  unfold relayUnproduced
  simp only
  generalize relayArcs s = arcs
  refine foldl_mutes (fun s b h => ?_) _ s h
  split
  · split
    · exact h
    · exact chooseListen_mutes b d _ s h
  · exact h

theorem routeAfter_mutes (before : State) (c : Chan) (d : Booth) (s : State) (h : MuteAgrees s d) :
    MuteAgrees (routeAfter before c s) d := h.of_booth (routeAfter_booth ..)

theorem reseated_mutes (b d : Booth) (x : Option BoothSettings) (s : State) (h : MuteAgrees s d) :
    MuteAgrees (reseated b x s) d := by
  obtain ⟨muted, seats⟩ := setListen_muted b d .floor .floor false s
  have listened : MuteAgrees (setListen b .floor .floor false s) d :=
    h.of_same muted fun k => by unfold State.seat; rw [seats]
  refine listened.of_booth ?_
  unfold reseated
  rw [voidCycle_booth]
  rfl

/-- A write of a booth that leaves its mute state, and its seats as they read. -/
theorem setBooth_mutes {l : BoothLive} (hm : l.muted = (s.booth b).muted) (hs : ∀ j, l.seats.get j = s.seat b j) (d : Booth)
    (h : MuteAgrees s d) : MuteAgrees (s.setBooth b l) d := by
  by_cases e : b = d
  · subst e
    exact h.of_same (by rw [State.setBooth_same, hm]) fun k => by rw [State.setBooth_seat, if_pos rfl, hs]
  · exact h.of_booth (by rw [State.setBooth_booth, if_neg e])

theorem BoothOp.mutes (op : BoothOp s t) (placed : Placed s) (d : Booth) (h : MuteAgrees s d) : MuteAgrees t d := by
  cases op with
  | choose b m x hm ht => exact chooseListen_mutes b d x s h
  | configure b m args hm idle hr =>
    obtain ⟨_, waits, live⟩ := placed.withdrawAll b
    have off : ∀ j, (withdrawAll b s).seat b j = .off := fun j =>
      seat_off ((live j).trans (liveSeat_eq_none.mp idle j)) (waits j)
    unfold configureBooth
    dsimp only
    refine relayUnproduced_mutes d _ (reseated_mutes b d (some m) _ (setBooth_mutes (by rfl) (fun j => ?_) d ((withdrawAll_deeds b s).mutes h)))
    rw [off]
    exact Bank.get_fill ..
  | clear b =>
    have lost := (seatLoss_deeds b s).mutes h
    unfold clearBooth
    dsimp only
    generalize seatLoss b s = u at lost ⊢
    exact relayUnproduced_mutes d _ (reseated_mutes b d none _ (setBooth_mutes (by rfl) (fun j => by rfl) d lost))

theorem closeLeft_booth (a : Assign) (before s : State) (d : Booth) : (closeLeft a before s).booth d = s.booth d := by
  rw [(closeLeft_books a before s).keeps]; rfl

theorem handTarget_mutes (a : Assign) (before : State) (d : Booth) (s : State) (h : MuteAgrees s d) :
    MuteAgrees (handTarget a before s) d := by
  unfold handTarget
  split
  · exact relayUnassigned_mutes _ d s h
  · split
    · exact h
    · split
      · exact (uncover_deeds ..).mutes (relayFollow_mutes _ d s h)
      · exact relayFollow_mutes _ d s h

theorem settleLeft_mutes (a : Assign) (before : State) (d : Booth) (s : State) (h : MuteAgrees s d) :
    MuteAgrees (settleLeft a before s) d := by
  unfold settleLeft
  split
  · exact relayUnassigned_mutes _ d _ (routeAfter_mutes _ _ d s h)
  · exact h

theorem assignWrites_booth (a : Assign) (s : State) (d : Booth) : (assignWrites a s).booth d = s.booth d := by
  rw [assignWrites_keeps]; rfl

theorem applyAssign_mutes (a : Assign) (d : Booth) (s : State) (h : MuteAgrees s d) : MuteAgrees (applyAssign a s) d := by
  rw [applyAssign, assignEffects_eq]
  refine handTarget_mutes a s d _ (MuteAgrees.of_booth (closeLeft_booth ..) ?_)
  exact routeAfter_mutes s _ d _ (settleLeft_mutes a s d _ (h.of_booth (assignWrites_booth a s d)))

/-! ## What a CHAN_ASSIGN leaves of the scene -/

theorem routeAfter_alike (before : State) (c : Chan) (s : State) : Alike s (routeAfter before c s) :=
  .of_scene (scene_routeAfter before c s)

theorem settleLeft_alike (a : Assign) (before s : State) : Alike s (settleLeft a before s) := by
  unfold settleLeft
  split
  · exact (routeAfter_alike ..).trans (relayUnassigned_alike ..)
  · rfl

theorem closeLeft_alike (a : Assign) (before s : State) : Alike s (closeLeft a before s) :=
  .of_scene (scene_of_part (closeLeft_books a before s).keeps rfl)

/-- The state of an accepted CHAN_ASSIGN before the target's new coverage is handed on. -/
def assigned (a : Assign) (s : State) : State :=
  closeLeft a s (routeAfter s a.target (settleLeft a s (assignWrites a s)))

theorem assigned_alike (a : Assign) (s : State) : Alike (assignWrites a s) (assigned a s) :=
  ((settleLeft_alike ..).trans (routeAfter_alike ..)).trans (closeLeft_alike ..)

theorem applyAssign_eq (a : Assign) (s : State) : applyAssign a s = handTarget a s (assigned a s) := by
  rw [applyAssign, assignEffects_eq, assigned]

theorem assigned_settings (a : Assign) (s : State) : (assigned a s).settings = (assignWrites a s).settings := by
  have plan : (assigned a s).ret.plan = (assignWrites a s).ret.plan := by
    rw [assigned, (closeLeft_books ..).keeps, (routeAfter_moves ..).keeps, (settleLeft_moves ..).keeps]
  funext c
  unfold State.settings
  rw [plan]

theorem handTarget_alike (a : Assign) (before s : State) :
    Alike (if entersPlan before a = true ∧ a.gapHold = 0 then
      s.setChan a.target ⟨.uncovered, none, (s.settings a.target).fallback.source, 0, false⟩ else s) (handTarget a before s) := by
  unfold handTarget entersPlan
  cases hs : a.slot with
  | none => exact relayUnassigned_alike ..
  | some k =>
    simp only
    by_cases same : (before.settings a.target).slot = some k
    · rw [if_pos same, if_neg (by simp [same])]
      rfl
    · rw [if_neg same]
      by_cases gap : a.gapHold = 0
      · rw [if_pos gap, if_pos ⟨by simp [Ne.symm same], gap⟩]
        refine .of_scene ?_
        rw [scene_uncover, scene_relayFollow, scene_setChan, (relayFollow_moves ..).settings]
      · rw [if_neg gap, if_neg fun e => gap e.2]
        exact .of_scene (scene_relayFollow ..)

/-- The live channels after an accepted CHAN_ASSIGN. -/
theorem applyAssign_chan (a : Assign) (s : State) (d : Chan) : (applyAssign a s).chan d =
    if a.target = d then targetAfter s a
    else if movedFrom s a = some d then ⟨.unassigned, none, .silent, 0, false⟩ else s.chan d := by
  have fallback : ((assigned a s).settings a.target).fallback = a.fallback := by
    rw [assigned_settings, assignWrites_settings, if_pos rfl]
  rw [applyAssign_eq, (handTarget_alike a s (assigned a s)).chan, fallback]
  have written : (assigned a s).chan d = _ := ((assigned_alike a s).chan d).trans (assignWrites_chan a s d)
  by_cases e : a.target = d
  · subst e
    rw [if_pos rfl] at written ⊢
    unfold targetAfter entersPlan at *
    unfold targetLive at written
    cases hs : a.slot with
    | none =>
      rw [hs] at written
      simp only [Option.isSome_none, Bool.false_and, Bool.false_eq_true, false_and, if_false, if_true, written]
    | some k =>
      rw [hs] at written
      by_cases same : (s.settings a.target).slot = some k
      · simp only [same, if_true] at written
        simp only [same, Option.isSome_some, bne_self_eq_false, Bool.and_false, Bool.false_eq_true, false_and, if_false, written,
          reduceCtorEq]
      · have ne : (some k != (s.settings a.target).slot) = true := by simp [Ne.symm same]
        simp only [if_neg same] at written
        simp only [ne, Option.isSome_some, Bool.and_true, true_and, if_true, reduceCtorEq, if_false]
        split
        · exact State.setChan_same ..
        · exact written
  · rw [if_neg e] at written ⊢
    rw [← written]
    split
    · exact (State.setChan_chan ..).trans (if_neg e)
    · rfl

theorem applyAssign_alike (a : Assign) (s : State) (b : Booth) (k : Seat) (c : Chan) :
    (applyAssign a s).seat b k = s.seat b k ∧ (applyAssign a s).offer c = s.offer c ∧
      ((applyAssign a s).booth b).selection = (s.booth b).selection := by
  have handed := handTarget_alike a s (assigned a s)
  have same := assigned_alike a s
  have hseat : (applyAssign a s).seat b k = (assigned a s).seat b k := by
    rw [applyAssign_eq, handed.seat]
    split <;> rfl
  have hoffer : (applyAssign a s).offer c = (assigned a s).offer c := by
    rw [applyAssign_eq, handed.offer]
    split <;> rfl
  have hsel : ((applyAssign a s).booth b).selection = ((assigned a s).booth b).selection := by
    rw [applyAssign_eq, handed.selection]
    split <;> rfl
  rw [hseat, hoffer, hsel, same.seat, same.offer, same.selection]
  have keeps := assignWrites_keeps a s
  generalize assignWrites a s = t at keeps
  rw [keeps]
  exact ⟨rfl, rfl, rfl⟩

theorem targetAfter_holder {a : Assign} (h : Placed s) (free : (s.chan a.target).coverage ≠ .covered) :
    (targetAfter s a).holder = none ∧ (targetAfter s a).coverage ≠ .covered ∧
      ((targetAfter s a).coverage = .unassigned ↔ a.slot = none) := by
  have held := h.holder_none free
  unfold targetAfter
  split
  · next none => exact ⟨rfl, nofun, iff_of_true rfl none⟩
  · next some =>
    split
    · split <;> exact ⟨rfl, nofun, iff_of_false nofun some⟩
    · next stays =>
      have slot : (s.settings a.target).slot ≠ none := by
        intro e
        unfold entersPlan at stays
        rw [e] at stays
        cases hs : a.slot with
        | none => exact some hs
        | some k => rw [hs] at stays; exact stays rfl
      have assigned : (s.chan a.target).coverage ≠ .unassigned := fun e => slot ((Scene.AgreesBut.unassigned h a.target).mp e)
      split <;> exact ⟨held, free, iff_of_false assigned some⟩

theorem Placed.applyAssign (h : Placed s) {a : Assign} (passes : assignFailure s a = none) : Placed (applyAssign a s) := by
  have checks := assignFailure_eq_none.mp passes
  have free : (s.chan a.target).coverage ≠ .covered := checks 3
  unfold Placed
  rw [applyAssign_boothSettings]
  refine Scene.AgreesBut.replan h (funext fun b => funext fun k => (applyAssign_alike a s b k 0).1)
    (funext fun c => (applyAssign_alike a s 0 0 c).2.1) (fun d => (applyAssign_alike a s d 0 0).2.2) fun c => ?_
  rw [applyAssign_settings, show (scene (Machine.applyAssign a s)).chan c = (Machine.applyAssign a s).chan c from rfl,
    applyAssign_chan]
  by_cases target : a.target = c
  · subst target
    rw [if_pos rfl, if_pos rfl]
    exact .inr ⟨h.holder_none free, targetAfter_holder h free⟩
  · rw [if_neg target, if_neg target]
    by_cases moved : movedFrom s a = some c
    · rw [if_pos moved]
      refine .inr ⟨h.holder_none fun covered => checks 4 ⟨c, movedFrom_iff.mp moved, covered⟩, rfl, nofun, ?_⟩
      exact iff_of_true rfl (if_pos moved)
    · rw [if_neg moved]
      refine .inl ⟨rfl, rfl, ?_, fun _ => rfl⟩
      rw [show (if movedFrom s a = some c then none else (s.settings c).slot) = _ from if_neg moved]

/-! ## Requests of the plan, resets and counts -/

/-- The part of the state that the agreement of the hall is read from. -/
def hallPart (s : State) := (s.gen.chans, s.gen.booths, s.gen.offers, s.ret.plan, s.ret.booths)

theorem HallAgrees.of_part (h : HallAgrees s) (ht : t = u) (same : hallPart u = hallPart s) : HallAgrees t := by
  subst ht
  simp only [hallPart, Prod.mk.injEq] at same
  obtain ⟨hc, hb, ho, hp, hs⟩ := same
  obtain ⟨placed, mutes⟩ := (hallAgrees_iff s).mp h
  have booth : ∀ b, t.booth b = s.booth b := fun b => by unfold State.booth; rw [hb]
  have settings : t.settings = s.settings := by unfold State.settings; rw [hp]
  have boothSettings : t.boothSettings = s.boothSettings := by unfold State.boothSettings; rw [hs]
  have chan : t.chan = s.chan := by unfold State.chan; rw [hc]
  refine (hallAgrees_iff t).mpr ⟨?_, fun b => (mutes b).of_booth (booth b)⟩
  rw [settings, boothSettings]
  refine placed.congr (fun c => ?_) (fun c => ?_) (funext fun b => funext fun k => ?_) ?_ fun b => ?_
  · exact congrArg ChanLive.coverage (congrFun chan c)
  · exact congrArg ChanLive.holder (congrFun chan c)
  · show t.seat b k = s.seat b k
    unfold State.seat; rw [booth]
  · show t.offer = s.offer
    unfold State.offer; rw [ho]
  · exact congrArg (fun l => (plain l).selection) (booth b)

/-- A hall at rest: no seat is live or waits, no channel is held, no offer stands, no booth is muted. -/
theorem hallAgrees_of_rest (seats : ∀ b k, s.seat b k = .off) (offers : ∀ c, s.offer c = none)
    (muted : ∀ b, (s.booth b).muted = false) (held : ∀ c, (s.chan c).holder = none ∧ (s.chan c).coverage ≠ .covered)
    (unassigned : ∀ c, (s.chan c).coverage = .unassigned ↔ (s.settings c).slot = none) : HallAgrees s where
  unassigned := unassigned
  covered c := iff_of_false (held c).2 (by rw [(held c).1]; exact nofun)
  holderLive c b k e := nomatch (held c).1.symm.trans e
  liveHolds b k e := by rw [seats] at e; cases e
  offerHeld c o e := nomatch (offers c).symm.trans e
  waitingOffered b k e := nomatch (seats b k).symm.trans e
  mutes b := iff_of_false (by rw [muted]; exact nofun) fun ⟨k, e⟩ => nomatch (seats b k).symm.trans e

/-- A general domain as a general reset leaves it is at rest. -/
theorem hallAgrees_of_quiet (hc : s.gen.chans = s.ret.plan.map chanAfterReset) (hb : s.gen.booths = s.ret.booths.map BoothLive.afterReset)
    (ho : s.gen.offers = Bank.fill 24 none) : HallAgrees s := by
  have booth : ∀ b, s.booth b = BoothLive.afterReset (s.boothSettings b) := fun b => by
    unfold State.booth
    rw [hb]
    exact Bank.get_map ..
  have chan : ∀ c, s.chan c = chanAfterReset (s.settings c) := fun c => by
    unfold State.chan
    rw [hc]
    exact Bank.get_map ..
  refine hallAgrees_of_rest (fun b k => ?_) (fun c => ?_) (fun b => ?_) (fun c => ?_) fun c => ?_
  · unfold State.seat
    rw [booth]
    exact Bank.get_fill ..
  · unfold State.offer
    rw [ho]
    exact Bank.get_fill ..
  · rw [booth]; rfl
  · rw [chan]
    unfold chanAfterReset
    split <;> exact ⟨rfl, nofun⟩
  · rw [chan]
    unfold chanAfterReset
    split
    · next e => exact iff_of_true rfl e
    · next e => exact iff_of_false nofun fun none => nomatch none.symm.trans e

/-- What a general reset leaves of the general domain but for its lines, its start record and its ports. -/
theorem generalReset_domain (kind : RestartKind) (cleared : Bool) (s : State) : (generalReset kind cleared s).gen =
    { General.quiet s.ret with
      dirSending := (generalReset kind cleared s).gen.dirSending
      routeSending := (generalReset kind cleared s).gen.routeSending
      routeList := (generalReset kind cleared s).gen.routeList, start := ⟨kind, cleared⟩
      ports := (resetBase kind cleared s).gen.ports } := by
  rw [generalReset_eq]
  generalize fullSet (resetBase kind cleared s) = os
  have routes := placeAll_routes os (resetBase kind cleared s)
  generalize placeAll os (resetBase kind cleared s) = t at routes
  rw [routes]
  cases cleared <;> rfl

theorem ResetOp.hallAgrees {drops : Prop} (op : ResetOp drops s t) (h : HallAgrees s) : HallAgrees t := by
  cases op with
  | off | cleared => exact hallAgrees_of_quiet rfl rfl rfl
  | stopped => exact h.of_part rfl rfl
  | general kind cleared =>
    have gen := generalReset_domain kind cleared s
    have keeps := generalReset_keeps kind cleared s
    have plan : (generalReset kind cleared s).ret.plan = s.ret.plan := by rw [keeps]
    have booths : (generalReset kind cleared s).ret.booths = s.ret.booths := by rw [keeps]
    refine hallAgrees_of_quiet ?_ ?_ ?_
    · rw [gen, plan]; rfl
    · rw [gen, booths]; rfl
    · rw [gen]; rfl
  | port p => exact h.of_part rfl rfl

/-- Agreement does not hang on the seconds that offers have left. -/
theorem Scene.AgreesBut.retime {plan : Chan → ChanSettings} {sets : Booth → Option BoothSettings} {x : Option Chan} {S T : Scene}
    (h : S.AgreesBut plan sets x) (hc : ∀ c, (T.chan c).coverage = (S.chan c).coverage)
    (hh : ∀ c, (T.chan c).holder = (S.chan c).holder) (hs : T.seat = S.seat)
    (ho : ∀ c, T.offer c = (S.offer c).map fun o => { o with remaining := o.remaining - 1 })
    (hb : ∀ b, (T.booth b).selection = (S.booth b).selection) : T.AgreesBut plan sets x := by
  have faces : ∀ b c, T.Faces sets b c ↔ S.Faces sets b c := fun b c => Faces.congr (hb b)
  have rest : ({ T with offer := S.offer } : Scene).AgreesBut plan sets x := h.congr hc hh hs rfl hb
  refine ⟨rest.unassigned, rest.covered, fun c e => ?_, rest.holderLive, rest.liveHolds, fun c o e => ?_, fun b k e => ?_⟩
  · obtain ⟨covered, free⟩ := rest.vacant c e
    exact ⟨covered, by rw [ho, show S.offer c = none from free]; rfl⟩
  · rw [ho] at e
    obtain ⟨o', e, rfl⟩ := Option.map_eq_some_iff.mp e
    obtain ⟨held, waits, faced, within, across⟩ := rest.stands c o' ‹S.offer c = some o'›
    exact ⟨held, waits, faced, within, across⟩
  · obtain ⟨c, o, e, hw⟩ := rest.waitingOffered b k e
    exact ⟨c, { o with remaining := o.remaining - 1 }, by rw [ho, show S.offer c = some o from e, Option.map_some], hw⟩

theorem countBlocks_hallAgrees (h : HallAgrees s) : HallAgrees (countBlocks s) := by
  obtain ⟨placed, mutes⟩ := (hallAgrees_iff s).mp h
  have keeps := countBlocks_keeps s
  have booth : ∀ b, (countBlocks s).booth b = s.booth b := fun b => by unfold State.booth; rw [keeps]
  refine (hallAgrees_iff _).mpr ⟨?_, fun b => (mutes b).of_booth (booth b)⟩
  have settings : (countBlocks s).settings = s.settings := by unfold State.settings; rw [keeps]
  have boothSettings : (countBlocks s).boothSettings = s.boothSettings := by unfold State.boothSettings; rw [keeps]
  rw [settings, boothSettings]
  refine placed.retime (countBlocks_coverage s) (fun c => ?_) (funext fun b => funext fun k => ?_) (fun c => ?_) fun b => ?_
  · show ((countBlocks s).chan c).holder = (s.chan c).holder
    rw [countBlocks_chan, countHold]
  · show (countBlocks s).seat b k = s.seat b k
    unfold State.seat; rw [booth]
  · show (countBlocks s).offer c = (s.offer c).map _
    unfold State.offer
    rw [keeps]
    exact Bank.get_map ..
  · exact congrArg (fun l => (plain l).selection) (booth b)

/-- An OVERRIDE writes its flag, and orders for the routes that it changes. -/
theorem setOverride_routes (on : Bool) (s : State) : setOverride on s = { s with
    gen.override := on, gen.routeSending := (setOverride on s).gen.routeSending
    gen.routeList := (setOverride on s).gen.routeList } := by
  have run : ∀ (cs : List Chan) (u : State), SameRoutes u (cs.foldl (fun t c => routeAfter s c t) u) := fun cs => by
    induction cs with
    | nil => exact fun u => .refl u
    | cons c cs ih => exact fun u => (routeAfter_routes s c u).trans (ih _)
  unfold setOverride
  split
  · next e => rw [← e]
  · have routes := run (List.finRange 24) { s with gen.override := on }
    generalize (List.finRange 24).foldl _ _ = t at routes
    rw [routes]

theorem PlanOp.hallAgrees (op : PlanOp s t) (h : HallAgrees s) : HallAgrees t := by
  cases op with
  | define slot tag label =>
    unfold defineLanguage
    (repeat' split) <;> exact h.of_part rfl rfl
  | remove slot =>
    unfold removeLanguage
    (repeat' split) <;> exact h.of_part rfl rfl
  | assign target args a ha passes =>
    obtain ⟨placed, mutes⟩ := (hallAgrees_iff s).mp h
    exact (hallAgrees_iff _).mpr ⟨Placed.applyAssign placed passes, fun b => applyAssign_mutes a b s (mutes b)⟩
  | override on => exact h.of_part (setOverride_routes on s) rfl

theorem Act.hallAgrees {drops : Prop} (act : Act drops s t) (h : HallAgrees s) : HallAgrees t := by
  obtain ⟨placed, mutes⟩ := (hallAgrees_iff s).mp h
  cases act with
  | aside a => exact h.of_part a rfl
  | ports op => exact h.of_part op.ports rfl
  | hall op => exact (hallAgrees_iff t).mpr ⟨op.placed placed, fun b => op.deeds.mutes (mutes b)⟩
  | booths op => exact (hallAgrees_iff t).mpr ⟨op.placed placed, fun b => op.mutes placed b (mutes b)⟩
  | plan op => exact op.hallAgrees h
  | books op => exact h.of_part op.sameButBooks rfl
  | jobs op => exact h.of_part op.keeps rfl
  | reset op => exact op.hallAgrees h
  | directory before => exact h.of_part (dirAfter_directory before s) rfl
  | refresh =>
    generalize fullSet s = os
    exact h.of_part (placeAll_routes os s) rfl
  | orderSent => exact h.of_part (SameRoutes.trans (t := { s with gen.routeSending := none }) rfl (routeBegin_routes _)) rfl
  | count => exact countBlocks_hallAgrees h
  | session => exact h.of_part (openSession_keeps s) rfl
  | _ => exact h.of_part rfl rfl

theorem HireOp.hallAgrees (op : HireOp s t) (h : HallAgrees s) : HallAgrees t := h.of_part op.keeps rfl

end

/-- Settles O48: each event of the hall moves seats, holders, coverage and offers together, through the changes of a scene's
agreement. -/
theorem hallIsKept : Obligations.HallIsKept := fun _ _ h _ =>
  step_keeps (P := HallAgrees) h (fun _ hs => hs.of_part rfl rfl) (fun _ _ _ act => act.hallAgrees) (fun _ _ change => change.hallAgrees)

end Sys2Proof.Machine
end

section
/-! PROOF. The directory's sequence follows its content (O53). -/

namespace Sys2Proof.Machine
open Sys2Proof

/-- What the directory's content is read from, with the sequence. -/
def dirSource (s : State) := (s.gen.chans, s.ret.plan, s.ret.slots, s.gen.override, s.ret.dirSeq)
/-- The directory's sequence and its line. -/
def dirLine (s : State) := (s.ret.dirSeq, s.gen.dirSending, s.gen.dirPending, s.gen.dirCount)

/-- The content and the sequence of the directory stand. -/
def DirStands (s t : State) : Prop := dirContent t = dirContent s ∧ t.ret.dirSeq = s.ret.dirSeq

/-- The content, the sequence and the line of the directory stand. -/
def DirIdle (s t : State) : Prop := dirSource t = dirSource s ∧ dirLine t = dirLine s

/-- The sequence advances with the content, and then a send begins or is pending. -/
structure DirFollows (s t : State) : Prop where
  stands : dirContent t = dirContent s → t.ret.dirSeq = s.ret.dirSeq
  advances : dirContent t ≠ dirContent s →
    t.ret.dirSeq = (if s.ret.dirSeq < 65535 then s.ret.dirSeq + 1 else 0) ∧
    ((s.gen.dirSending = none ∧ t.gen.dirSending = some ⟨dirContent t, t.ret.dirSeq⟩ ∧ t.gen.dirCount = 0) ∨
      (s.gen.dirSending ≠ none ∧ t.gen.dirSending = s.gen.dirSending ∧ t.gen.dirPending = true))

section
variable {s t u : State}

theorem dirContent_of_source (h : dirSource t = dirSource s) : DirStands s t := by
  simp only [dirSource, Prod.mk.injEq] at h
  obtain ⟨hc, hp, hs, ho, hq⟩ := h
  exact ⟨dirContent_congr hc hp hs ho, hq⟩

theorem DirStands.of_part (ht : t = u) (h : dirSource u = dirSource s) : DirStands s t := dirContent_of_source (ht ▸ h)
theorem DirStands.refl (s : State) : DirStands s s := ⟨rfl, rfl⟩
theorem DirStands.trans (h : DirStands s t) (k : DirStands t u) : DirStands s u := ⟨k.1.trans h.1, k.2.trans h.2⟩
theorem DirStands.follows (h : DirStands s t) : DirFollows s t := ⟨fun _ => h.2, fun ne => absurd h.1 ne⟩

theorem DirIdle.stands (h : DirIdle s t) : DirStands s t := dirContent_of_source h.1
theorem DirIdle.refl (s : State) : DirIdle s s := ⟨rfl, rfl⟩
theorem DirIdle.trans (h : DirIdle s t) (k : DirIdle t u) : DirIdle s u := ⟨k.1.trans h.1, k.2.trans h.2⟩
theorem DirIdle.of_part (ht : t = u) (hs : dirSource u = dirSource s) (hl : dirLine u = dirLine s) : DirIdle s t :=
  ht ▸ ⟨hs, hl⟩
theorem SamePorts.dirIdle (h : SamePorts s t) : DirIdle s t := .of_part h rfl rfl

theorem DirFollows.after (h : DirIdle s t) (k : DirFollows t u) : DirFollows s u := by
  obtain ⟨content, _⟩ := h.stands
  obtain ⟨_, line⟩ := h
  simp only [dirLine, Prod.mk.injEq] at line
  obtain ⟨seq, sending, _, _⟩ := line
  obtain ⟨stands, advances⟩ := k
  rw [content, seq] at stands
  rw [content, seq, sending] at advances
  exact ⟨stands, advances⟩

theorem DirFollows.before (h : DirFollows s t) (k : DirIdle t u) : DirFollows s u := by
  obtain ⟨content, _⟩ := k.stands
  obtain ⟨_, line⟩ := k
  simp only [dirLine, Prod.mk.injEq] at line
  obtain ⟨seq, sending, pending, count⟩ := line
  refine ⟨?_, ?_⟩
  · rw [content, seq]; exact h.stands
  · rw [content, seq, sending, pending, count]; exact h.advances

/-- One event of the blocks: the directory is looked at when the blocks are done, and its line not before. -/
theorem DirFollows.ended (h : dirLine t = dirLine s) : DirFollows s (dirAfter s t) := by
  simp only [dirLine, Prod.mk.injEq] at h
  obtain ⟨seq, sending, _, _⟩ := h
  rcases dirAfter_cases s t with ⟨same, e⟩ | ⟨new, e⟩ <;> rw [e]
  · exact DirStands.follows ⟨same, seq⟩
  · have advanced : (wrapNext Config.smallMax t.ret.dirSeq) = if s.ret.dirSeq < 65535 then s.ret.dirSeq + 1 else 0 := by
      rw [seq]; rfl
    generalize hv : ({ t with ret.dirSeq := wrapNext Config.smallMax t.ret.dirSeq } : State) = v
    have content : dirContent v = dirContent t := by rw [← hv]; rfl
    rcases dirDue_cases v with ⟨idle, e⟩ | ⟨busy, e⟩ <;> rw [e]
    · refine ⟨fun same => absurd (content ▸ same) new, fun _ => ⟨?_, .inl ⟨?_, rfl, rfl⟩⟩⟩
      · rw [← hv]; exact advanced
      · rw [← hv] at idle; exact sending ▸ idle
    · refine ⟨fun same => absurd (content ▸ same) new, fun _ => ⟨?_, .inr ⟨?_, ?_, rfl⟩⟩⟩
      · rw [← hv]; exact advanced
      · rw [← hv] at busy; exact sending ▸ busy
      · rw [← hv]; exact sending

/-! ## The ways in -/

/-- A command of a running part with no expiry to be taken. -/
def Brings (o : Out) (s : State) : Prop := Awake s → ∀ t, o = .next t → DirFollows s t

theorem taking_brings {f : State → State} (h : DirFollows s (f s)) : Brings (taking f s) s := fun awake t e => by
  rw [taking_awake awake] at e
  cases e
  exact h

theorem event_brings {f : State → State} (h : dirLine (f s) = dirLine s) : Brings (taking (event f) s) s :=
  taking_brings (.ended h)

theorem frameArrives_brings {p : Port} {f : State → State} (h : ∀ u, DirFollows u (f u)) :
    Brings (frameArrives p f s) s := by
  refine taking_brings ?_
  split
  · exact (DirStands.refl s).follows
  · have framed : SamePorts s (s.setPort p { s.port p with framing := .between }) := rfl
    exact .after (framed.dirIdle.trans (endWait_ports p .cancelled _).dirIdle) (h _)

theorem request_brings {p : Port} {tag : Byte} {code : ReqCode} {f : State → State}
    (h : ∀ u, (u.port p).inProgress = none → DirFollows u (f u)) : Brings (request p tag code f s) s := by
  refine frameArrives_brings fun u => ?_
  unfold admitted
  split
  · exact (answer_ports ..).dirIdle.stands.follows
  · next free =>
    split
    · exact (answer_ports ..).dirIdle.stands.follows
    · exact h u (by simpa using free)

theorem respond_brings {p : Port} {tag : Byte} {code : ReqCode} {f : State → Result} (h : ∀ u, DirFollows u (f u).2.2) :
    Brings (request p tag code (respond p tag f) s) s :=
  request_brings fun u _ => (h u).before (answer_ports ..).dirIdle

theorem planned_brings {p : Port} {tag : Byte} {code : ReqCode} {f : State → Result}
    (h : ∀ u, dirLine (f u).2.2 = dirLine u) : Brings (request p tag code (respond p tag (planned f)) s) s :=
  respond_brings fun u => .ended (h u)

/-- A request that leaves what the directory tells. -/
theorem quiet_brings {p : Port} {tag : Byte} {code : ReqCode} {f : State → Result}
    (h : ∀ u, ∃ v, (f u).2.2 = v ∧ dirSource v = dirSource u) : Brings (request p tag code (respond p tag f) s) s :=
  respond_brings fun u => by
    obtain ⟨v, e, same⟩ := h u
    exact (DirStands.of_part e same).follows

/-! ## The blocks leave the directory's line alone -/

theorem dirLine_of_part (ht : t = u) (h : dirLine u = dirLine s) : dirLine t = dirLine s := ht ▸ h

theorem Moves.dirLine (h : Moves s t) : dirLine t = dirLine s := dirLine_of_part h.keeps rfl
theorem Books.dirStands (h : Books s t) : DirStands s t := .of_part h.keeps rfl
theorem SameButBooths.dirLine (h : SameButBooths s t) : dirLine t = dirLine s := dirLine_of_part h rfl
theorem HallOp.dirLine (op : HallOp s t) : dirLine t = dirLine s := dirLine_of_part op.deeds.moves.keeps rfl
theorem BoothOp.dirLine (op : BoothOp s t) : dirLine t = dirLine s := dirLine_of_part op.sameButBooths rfl
theorem PlanOp.dirLine (op : PlanOp s t) : dirLine t = dirLine s := dirLine_of_part op.sameButPlan rfl

theorem closeWindow_dirLine {f : Booth → State → State} (h : ∀ b u, dirLine (f b u) = dirLine u) (s : State) :
    dirLine (closeWindow f s) = dirLine s := by
  unfold closeWindow
  split
  · simp only
    split
    · rfl
    · exact h _ _
  · rfl

theorem handEvent_dirLine {b : Booth} {e : ReplyEvent} {f : BoothSettings → State → State}
    (h : ∀ m u, u.boothSettings b = some m → dirLine (f m u) = dirLine u) (s : State) :
    dirLine (handEvent b e f s) = dirLine s := by
  unfold handEvent
  split
  · next rest _ =>
    split
    · split
      · simp only
        split
        · next m hm => exact h m _ hm
        · rfl
      · rfl
    · rfl
  · rfl

theorem seatEvent_brings {b : Booth} {seat : Byte} {e : ReplyEvent} {f : Booth → BoothSettings → Seat → State → State}
    (h : ∀ m k u, u.boothSettings b = some m → HallOp u (f b m k u)) (s : State) : Brings (seatEvent b seat e f s) s := by
  refine event_brings (handEvent_dirLine (fun m v hm => ?_) s)
  split
  · exact (h m _ v hm).dirLine
  · rfl

theorem goodReply_dirLine (b : Booth) (events : List ReplyEvent) (s : State) : dirLine (goodReply b events s) = dirLine s := by
  unfold goodReply
  simp only
  split
  · split <;> rfl
  · exact dirLine_of_part (notify_ports _ _) rfl

theorem relaySelectEvent_dirLine {b : Booth} {m : BoothSettings} (x : Option Listen) (s : State) :
    dirLine (relaySelectEvent b m x s) = dirLine s := by
  unfold relaySelectEvent
  split
  · rfl
  · split
    · rfl
    · exact dirLine_of_part (chooseListen_moves ..).keeps rfl

theorem assignChannel_dirLine (target : Byte) (args : AssignArgs) (s : State) :
    dirLine (assignChannel target args s).2.2 = dirLine s := by
  unfold assignChannel
  split
  · rfl
  · next a ha =>
    split
    · rfl
    · next hf => exact (PlanOp.assign target args a ha hf).dirLine

theorem setBoothRequest_dirLine (booth : Byte) (args : BoothArgs) (s : State) :
    dirLine (setBoothRequest booth args s).2.2 = dirLine s := by
  unfold setBoothRequest
  split
  · split
    · rfl
    · split
      · dsimp only
        exact (configureBooth_booths ..).dirLine
      · rfl
  · rfl

theorem clearBoothRequest_dirLine (booth : Byte) (s : State) : dirLine (clearBoothRequest booth s).2 = dirLine s := by
  unfold clearBoothRequest
  split
  · rfl
  · split
    · rfl
    · dsimp only
      exact (clearBooth_booths ..).dirLine

theorem cutBoothRequest_dirLine (booth : Byte) (s : State) : dirLine (cutBoothRequest booth s).2 = dirLine s := by
  unfold cutBoothRequest
  split
  · rfl
  · split
    · rfl
    · split
      · rfl
      · exact dirLine_of_part (cutTurn_deeds ..).moves.keeps rfl

/-! ## What the directory tells nothing of -/

/-- The content is read from coverage, the slots that channels carry, the names of slots, and the override. -/
theorem dirContent_of_reads (hc : ∀ c, (t.chan c).coverage = (s.chan c).coverage)
    (hp : ∀ c, (t.settings c).slot = (s.settings c).slot) (hn : ∀ k, (t.slot k).name = (s.slot k).name)
    (ho : t.gen.override = s.gen.override) : dirContent t = dirContent s := by
  unfold dirContent
  rw [ho]
  refine congrArg (fun x => DirContent.mk x _) (Bank.ext_get fun c => ?_)
  simp only [Bank.get_build, dirEntry, hc, hp, hn]

theorem chooseListen_dirSource (b : Booth) (x : Listen) (s : State) : dirSource (chooseListen b x s) = dirSource s := by
  have chans : (chooseListen b x s).gen.chans = s.gen.chans := Bank.ext_get (chooseListen_chan b x s)
  have keeps := (chooseListen_moves b x s).keeps
  unfold dirSource
  rw [chans, keeps]

theorem setRelayRequest_dirSource (booth : Byte) (source : SourceBytes) (s : State) :
    dirSource (setRelayRequest booth source s).2.2 = dirSource s := by
  unfold setRelayRequest
  split
  · rfl
  · split
    · rfl
    · split
      · rfl
      · split
        · rfl
        · exact chooseListen_dirSource ..

theorem openSession_dirStands (s : State) : DirStands s (openSession s).2.2 := by
  unfold openSession
  split
  · exact .refl s
  · refine ⟨dirContent_of_reads (fun _ => rfl) (fun _ => rfl) (fun k => ?_) rfl, rfl⟩
    simp only [State.slot, Bank.get_map]

theorem countBlocks_dirStands (s : State) : DirStands s (countBlocks s) := by
  have keeps := countBlocks_keeps s
  refine ⟨dirContent_of_reads (countBlocks_coverage s) (fun c => ?_) (fun k => ?_) ?_, ?_⟩
  · unfold State.settings; rw [keeps]
  · show ((countSlots s).slot k).name = _
    unfold countSlots
    split
    · rfl
    · simp only [State.slot, Bank.get_map]
      unfold countSlot
      (repeat' split) <;> rfl
  · rw [keeps]
  · rw [keeps]

theorem tick_dirStands (awake : Awake s) : DirStands s (tick s) := by
  unfold tick
  split
  · exact .refl s
  · simp only [awake.running, if_true, takeDue_settled awake.settled]
    split
    · exact DirStands.trans (t := { s with clock := s.clock + 1 }) ⟨rfl, rfl⟩ (.trans (countBlocks_dirStands _) ⟨rfl, rfl⟩)
    · exact ⟨rfl, rfl⟩

/-! ## The commands -/

theorem job_brings (p : Port) (tag : Byte) {code : ReqCode} (r : JobRequest) (s : State) :
    Brings (request p tag code (acceptJob p tag code r) s) s :=
  request_brings fun _ _ => DirStands.follows ⟨rfl, rfl⟩

/-- The requests but DEVICE_RESET. -/
theorem request_command_brings (i : Instr) (s : State) (o : Out) (h : runRequest i s = some o)
    (hi : ∀ p tag, i ≠ .deviceReset p tag) : Brings o s := by
  have books : ∀ {u v : State}, BookOp u v → dirSource v = dirSource u := fun op => by
    rw [op.sameButBooks]; rfl
  have hires : ∀ {u v : State}, HireOp u v → dirSource v = dirSource u := fun op => by
    rw [op.keeps]; rfl
  have ports : ∀ {u v : State}, PortOp u v → DirFollows u v := fun op => op.ports.dirIdle.stands.follows
  cases i <;> cases h
  case deviceReset p tag => exact absurd rfl (hi p tag)
  case status | readTable | snapshotRead => exact quiet_brings fun u => ⟨u, rfl, rfl⟩
  case subscribe p tag kinds => exact respond_brings fun u => ports (.subscribed p kinds)
  case noticeFetch p tag => exact request_brings fun u _ => ports (.fetched p tag)
  case noticeWait p tag t => exact request_brings fun u free => ports (.waited p tag t free)
  case clockSet p tag v =>
    refine quiet_brings fun u => ⟨_, rfl, ?_⟩
    unfold setClock
    split <;> rfl
  case langDefine p tag slot lt label => exact planned_brings fun u => (PlanOp.define slot lt label).dirLine
  case langRemove p tag slot => exact planned_brings fun u => (PlanOp.remove slot).dirLine
  case chanAssign p tag target args => exact planned_brings fun u => assignChannel_dirLine target args u
  case override p tag on => exact planned_brings fun u => (PlanOp.override on).dirLine
  case routeRefresh =>
    refine quiet_brings fun u => ⟨_, rfl, ?_⟩
    dsimp only
    generalize fullSet u = os
    rw [placeAll_routes os u]
    rfl
  case boothSet p tag booth args => exact planned_brings fun u => setBoothRequest_dirLine booth args u
  case boothClear p tag booth => exact planned_brings fun u => clearBoothRequest_dirLine booth u
  case boothCut p tag booth => exact planned_brings fun u => cutBoothRequest_dirLine booth u
  case relaySet p tag booth source => exact quiet_brings fun u => ⟨_, rfl, setRelayRequest_dirSource booth source u⟩
  case receiverEnrol p tag n x => exact quiet_brings fun u => ⟨_, rfl, books (.enrol n x)⟩
  case receiverWithdraw p tag n => exact quiet_brings fun u => ⟨_, rfl, books (.withdraw n)⟩
  case receiverReinstate p tag n => exact quiet_brings fun u => ⟨_, rfl, books (.reinstate n)⟩
  case receiverClearFlags p tag n => exact quiet_brings fun u => ⟨_, rfl, books (.clearFlags n)⟩
  case hallSet p tag code => exact quiet_brings fun u => ⟨_, rfl, rfl⟩
  case hireOpen p tag k d due => exact quiet_brings fun u => ⟨_, rfl, books (.openHire p k d due)⟩
  case issue p tag t n => exact quiet_brings fun u => ⟨_, rfl, hires (.issue t n)⟩
  case returnReceiver p tag n => exact quiet_brings fun u => ⟨_, rfl, hires (.back p n)⟩
  case lost p tag n => exact quiet_brings fun u => ⟨_, rfl, hires (.lose n)⟩
  case depositAdjust p tag t minus x => exact quiet_brings fun u => ⟨_, rfl, hires (.deposit t minus x)⟩
  case hireDue p tag t d => exact quiet_brings fun u => ⟨_, rfl, books (.due t d)⟩
  case tariffSet p tag k a =>
    refine quiet_brings fun u => ⟨_, rfl, ?_⟩
    unfold setTariff
    split
    · rfl
    · simp only
      split
      · rfl
      · rw [notify_ports]; rfl
  case quote p tag t f => exact job_brings p tag _ s
  case close p tag a => exact job_brings p tag _ s
  case snapshot p tag => exact job_brings p tag _ s
  case sessionClose p tag => exact job_brings p tag _ s
  case sessionOpen => exact respond_brings fun u => (openSession_dirStands u).follows
  case accountsClear => exact quiet_brings fun u => ⟨_, rfl, rfl⟩

/-- The expiry that a command names. -/
theorem runDue_follows (d : Due) (s : State) : DirFollows s (runDue d s) := by
  rcases runDue_cases d s with e | ⟨c, e⟩ | ⟨c, o, ho, e⟩ | e | e | ⟨p, e⟩ <;> rw [e]
  · exact (DirStands.refl s).follows
  · exact .ended (uncover_moves c s).dirLine
  · exact .ended (expireOffer_moves c o s).dirLine
  · rcases dirDue_cases { s with gen.dirCount := 0 } with ⟨_, e⟩ | ⟨_, e⟩ <;> rw [e] <;>
      exact DirStands.follows ⟨rfl, rfl⟩
  · exact (dueAlarm_books s).dirStands.follows
  · exact (endWait_ports ..).dirIdle.stands.follows

theorem takeOne_follows {d : Due} (h : takeOne d s = .next t) : DirFollows s t := by
  unfold takeOne at h
  split at h <;> cases h
  · exact .after (t := { s with gen.due := s.gen.due.erase d }) ⟨rfl, rfl⟩ (runDue_follows d _)
  · exact (DirStands.refl s).follows

/-- Settles O53: one look at the content at the end of each event that may change it; every other command leaves it. -/
theorem directoryFollowsItsContent : Obligations.DirectoryFollowsItsContent := by
  intro i s t running due h running' supply reset unknown
  suffices follows : DirFollows s t from ⟨follows.stands, follows.advances⟩
  by_cases stops : i = .powerOn ∨ i = .mainSupplyFail ∨ i = .backupDomainPowerLoss ∨ i = .resetLineAssert
  · rw [exec_stopping running running' h stops]
    exact (DirStands.refl s).follows
  by_cases expiry : isExpiry i = true
  · cases i <;> first | exact takeOne_follows h | cases expiry
  have awake : Awake s := ⟨running, due.resolve_right expiry⟩
  revert t
  suffices brings : Brings (exec i s) s from fun t h _ _ => brings awake t h
  cases hr : runRequest i s with
  | some o =>
    rw [exec_of_runRequest hr]
    exact request_command_brings i s o hr reset
  | none =>
    cases i <;> first | cases hr; done | exact absurd rfl expiry | clear hr
    case powerOn | mainSupplyFail | backupDomainPowerLoss | resetLineAssert => simp at stops
    case resetLineRelease =>
      intro _ t h
      simp only [exec, execResetLineRelease, (running_iff.mp running).2, Bool.false_eq_true, if_false] at h
      cases h
      exact (DirStands.refl s).follows
    case secondEvent =>
      intro _ t h
      cases h
      exact (tick_dirStands awake).follows
    case directorySendEnd =>
      dsimp only [exec, execDirectorySendEnd]
      refine taking_brings ?_
      split
      · split <;> exact DirStands.follows ⟨rfl, rfl⟩
      · exact (DirStands.refl s).follows
    case routeOrderSent =>
      dsimp only [exec, execRouteOrderSent]
      refine taking_brings ?_
      split
      · exact (DirStands.follows (s := s) (.of_part (SameRoutes.trans (t := { s with gen.routeSending := none }) rfl (routeBegin_routes _)) rfl))
      · exact (DirStands.refl s).follows
    case pollStart =>
      refine taking_brings (DirStands.follows ?_)
      unfold startPoll
      split
      · split
        · exact .refl s
        · split
          · exact .refl s
          · exact .of_part rfl rfl
      · exact .refl s
    case pollSent =>
      dsimp only [exec, execPollSent]
      refine taking_brings (DirStands.follows ?_)
      split
      · exact .of_part rfl rfl
      · exact .refl s
    case boothReply bytes =>
      dsimp only [exec, execBoothReply]
      refine event_brings (closeWindow_dirLine (fun b v => ?_) s)
      split
      · exact goodReply_dirLine ..
      · exact (HallOp.miss ..).dirLine
    case replyWindowExpiry => exact event_brings (closeWindow_dirLine (fun b v => (HallOp.miss b .noReply).dirLine) s)
    case seatOn b seat => exact seatEvent_brings (fun m k u hm => .seatOn b m k hm) s
    case seatOff b seat => exact seatEvent_brings (fun m k u hm => .seatOff b m k hm) s
    case coughDown b seat => exact seatEvent_brings (fun m k u hm => .coughDown b m k) s
    case coughUp b seat => exact seatEvent_brings (fun m k u hm => .coughUp b m k) s
    case give b seat => exact seatEvent_brings (fun m k u hm => .give b m k hm) s
    case outputSelect b y => exact event_brings (handEvent_dirLine (fun m v hm => (HallOp.output b m y hm).dirLine) s)
    case relaySelect b channel => exact event_brings (handEvent_dirLine (fun m v hm => relaySelectEvent_dirLine _ v) s)
    case collectorReport r =>
      refine taking_brings (DirStands.follows ?_)
      unfold intakeReport
      simp only
      split <;> exact .of_part rfl rfl
    case reportTaken =>
      dsimp only [exec, execReportTaken]
      refine taking_brings (DirStands.follows ?_)
      split
      · exact .refl s
      · exact .trans (t := { s with gen.intake := _ }) (.of_part rfl rfl) (.of_part (takeReport_books ..).keeps rfl)
    case portBreak p =>
      intro awake t h
      simp only [exec, execPortBreak, running, if_true, takeDue_settled awake.settled] at h
      split at h <;> cases h
      · exact (DirStands.refl s).follows
      · exact DirStands.follows ⟨rfl, rfl⟩
    case breakEnd p =>
      intro awake t h
      simp only [exec, execBreakEnd, running, if_true, takeDue_settled awake.settled] at h
      split at h <;> cases h
      · exact DirStands.follows ⟨rfl, rfl⟩
      · exact (DirStands.refl s).follows
    case badCrcFrame p content =>
      dsimp only [exec, execBadCrcFrame]
      refine taking_brings (DirStands.follows ?_)
      split
      · exact .refl s
      · exact .of_part rfl rfl
    case unknownRequest p content => exact absurd rfl (unknown p content)
    case jobStart => exact taking_brings (DirStands.follows (s := s) (.of_part JobOp.start.keeps rfl))
    case quoteCompletion => exact taking_brings (DirStands.follows (s := s) (.of_part JobOp.quoted.keeps rfl))
    case closeCompletion => exact taking_brings (DirStands.follows (s := s) (.of_part HireOp.close.keeps rfl))
    case responseFrameSent p =>
      dsimp only [exec, execResponseFrameSent]
      exact taking_brings (DirStands.follows ⟨rfl, rfl⟩)

end

end Sys2Proof.Machine
end

section
/-! PROOF. The clock, the counters, the buffers and the deposits keep their ranges (O58). -/

namespace Sys2Proof.Machine
open Sys2Proof

/-- The counters of a slot keep their range, and no mark stands above its counter. -/
def SlotKept (k : LangSlot) : Prop := k.u ≤ 4294967295 ∧ k.v ≤ 4294967295 ∧ k.uMark ≤ k.u ∧ k.vMark ≤ k.v
def AccKept (a : SeatAcc) : Prop := a.onAir ≤ 4294967295 ∧ a.turns ≤ 65535
def DepositsKept (t : Table Hire) : Prop := ∀ e ∈ t, e.2.deposit ≤ 4294967295

theorem rangesKept_iff (s : State) : RangesKept s ↔ s.clock ≤ 4294967295 ∧ (∀ k, SlotKept (s.slot k)) ∧
    (∀ b k, AccKept (s.acc b k)) ∧ s.ret.dirSeq ≤ 65535 ∧ s.gen.intake.length ≤ 64 ∧ DepositsKept s.ret.hires := by
  constructor
  · intro h
    exact ⟨h.clock, fun k => ⟨(h.counters k).1, (h.counters k).2, (h.marks k).1, (h.marks k).2⟩, h.seats, h.sequence, h.intake,
      h.deposits⟩
  · rintro ⟨clock, slots, seats, sequence, intake, deposits⟩
    exact ⟨clock, fun k => ⟨(slots k).1, (slots k).2.1⟩, fun k => (slots k).2.2, seats, sequence, intake, deposits⟩

section
variable {s t u : State}

/-- What the ranges are read from. -/
def rangePart (s : State) := (s.clock, s.ret.slots, s.ret.seatAcc, s.ret.dirSeq, s.gen.intake, s.ret.hires)

theorem RangesKept.of_part (h : RangesKept s) (ht : t = u) (same : rangePart u = rangePart s) : RangesKept t := by
  subst ht
  simp only [rangePart, Prod.mk.injEq] at same
  obtain ⟨hc, hs, ha, hd, hi, hh⟩ := same
  obtain ⟨clock, slots, seats, sequence, intake, deposits⟩ := (rangesKept_iff s).mp h
  refine (rangesKept_iff t).mpr ⟨hc ▸ clock, fun k => ?_, fun b k => ?_, hd ▸ sequence, hi ▸ intake, hh ▸ deposits⟩
  · unfold State.slot; rw [hs]; exact slots k
  · unfold State.acc; rw [ha]; exact seats b k

/-! ## Deposits -/

theorem DepositsKept.setHire (h : DepositsKept s.ret.hires) (n : Nat) {x : Hire} (hx : x.deposit ≤ 4294967295) :
    DepositsKept (s.setHire n x).ret.hires := fun e he => by
  rcases Table.mem_put he with e | e
  · rw [e]; exact hx
  · exact h _ e

theorem DepositsKept.of_hire (h : DepositsKept s.ret.hires) {n : Nat} {x : Hire} (hx : s.hire? n = some x) :
    x.deposit ≤ 4294967295 := h _ (Table.mem_of_find? hx)

theorem updateLine_deposit (h : Hire) (i : Nat) (f : Line → Line) : (updateLine h i f).deposit = h.deposit := by
  unfold updateLine
  split <;> rfl

theorem addCredit_deposits (link : HireLink) (secs : Nat) (h : DepositsKept s.ret.hires) :
    DepositsKept (addCredit link secs s).ret.hires := by
  unfold addCredit
  split
  · next x hx => exact h.setHire _ (by rw [updateLine_deposit]; exact h.of_hire hx)
  · exact h

theorem closeCredit_deposits (n : Nat) (h : DepositsKept s.ret.hires) : DepositsKept (closeCredit n s).ret.hires := by
  unfold closeCredit
  simp only
  split
  · exact h
  · split
    · exact addCredit_deposits _ _ h
    · exact h

theorem notify_hires (n : NoticeBody) (s : State) : (notify n s).ret.hires = s.ret.hires := by rw [notify_ports n s]

theorem retune_deposits (n : Nat) (l : Option Slot) (h : DepositsKept s.ret.hires) :
    DepositsKept (retune n l s).ret.hires := by
  unfold retune
  split
  · exact h
  · simp only
    split
    · exact closeCredit_deposits n h
    · exact closeCredit_deposits n h

theorem takeReport_deposits (p : Report) (h : DepositsKept s.ret.hires) : DepositsKept (takeReport p s).ret.hires := by
  unfold takeReport
  simp only
  split
  · split
    · refine retune_deposits _ _ ?_
      split
      · rw [notify_hires]; exact h
      · exact h
    · split
      · exact h
      · rw [notify_hires]; exact h
    · split
      · exact h
      · rw [notify_hires]; exact h
    · exact h
  · exact h

theorem slotLeaves_deposits (k : Slot) (h : DepositsKept s.ret.hires) : DepositsKept (slotLeaves k s).ret.hires := by
  unfold slotLeaves
  show DepositsKept (List.foldl _ s _).ret.hires
  generalize s.ret.receivers = l
  induction l generalizing s with
  | nil => exact h
  | cons e l ih =>
    refine ih ?_
    dsimp only
    split
    · exact closeCredit_deposits _ h
    · exact h

theorem endLine_deposits (n : Nat) (link : HireLink) (x : LineState) (h : DepositsKept s.ret.hires) :
    DepositsKept (endLine n link x s).ret.hires := by
  have closed := closeCredit_deposits n h
  unfold endLine
  simp only
  split
  · exact closed
  · next y hy =>
    exact closed.setHire _ ((updateLine_deposit y link.line _).trans_le (closed.of_hire hy))

theorem becomeOverdue_deposits (n : Nat) {x : Hire} (hx : x.deposit ≤ 4294967295) (h : DepositsKept s.ret.hires) :
    DepositsKept (becomeOverdue n x s).ret.hires := by
  unfold becomeOverdue
  rw [notify_hires]
  exact h.setHire n hx

theorem dueAlarm_deposits (h : DepositsKept s.ret.hires) : DepositsKept (dueAlarm s).ret.hires := by
  unfold dueAlarm
  have members : ∀ e ∈ s.ret.hires, e.2.deposit ≤ 4294967295 := h
  generalize s.ret.hires = l at members
  induction l generalizing s with
  | nil => exact h
  | cons e l ih =>
    refine ih ?_ fun e' he' => members e' (List.mem_cons_of_mem _ he')
    dsimp only
    split
    · exact becomeOverdue_deposits _ (members e List.mem_cons_self) h
    · exact h

theorem word_le (x : Word) : x.toNat ≤ 4294967295 := Nat.le_of_lt_succ x.isLt

theorem openHire_deposits (p : Port) (k : Byte) (d : Word) (due : Option Word) (h : DepositsKept s.ret.hires) :
    DepositsKept (openHire p k d due s).2.2.ret.hires := by
  unfold openHire
  split
  · exact h
  · split
    · exact h
    · split
      · exact h
      · dsimp only
        split <;> exact h.setHire _ (word_le d)

theorem setDue_deposits (n : Half) (d : Option Word) (h : DepositsKept s.ret.hires) :
    DepositsKept (setDue n d s).2.2.ret.hires := by
  unfold setDue
  split
  · exact h
  · split
    · exact h
    · next x hx =>
      have kept := h.of_hire hx
      simp only
      split
      · exact becomeOverdue_deposits _ kept (h.setHire _ kept)
      · exact h.setHire _ kept

theorem BookOp.deposits (op : BookOp s t) (h : DepositsKept s.ret.hires) : DepositsKept t.ret.hires := by
  cases op with
  | enrol n x => unfold Machine.enrol; (repeat' split) <;> exact h
  | withdraw n => unfold Machine.withdraw; dsimp only; (repeat' split) <;> exact h
  | reinstate n => unfold Machine.reinstate; dsimp only; (repeat' split) <;> exact h
  | clearFlags n => unfold Machine.clearFlags; dsimp only; (repeat' split) <;> exact h
  | take p => exact takeReport_deposits p h
  | openHire p k d due => exact openHire_deposits p k d due h
  | due n d => exact setDue_deposits n d h
  | alarm => exact dueAlarm_deposits h

theorem issueReceiver_deposits (n m : Half) (h : DepositsKept s.ret.hires) :
    DepositsKept (issueReceiver n m s).2.2.ret.hires := by
  unfold issueReceiver
  split
  · split
    · exact h
    · next x hx =>
      simp only
      split
      case h_5 =>
        split
        · exact h
        · have kept := h.of_hire hx
          exact h.setHire _ kept
      all_goals exact h
  · exact h

theorem reverseLoss_deposits (n : Nat) (link : HireLink) (h : DepositsKept s.ret.hires) :
    DepositsKept (reverseLoss n link s).2.2.ret.hires := by
  unfold reverseLoss
  simp only
  split
  · exact h
  · next x hx =>
    exact h.setHire _ ((updateLine_deposit x link.line _).trans_le (h.of_hire hx))

theorem returnOf_deposits (p : Port) (n : Half) (h : DepositsKept s.ret.hires) :
    DepositsKept (returnOf p n s).2.2.ret.hires := by
  unfold returnOf
  split
  · exact h
  · simp only
    split
    case h_4 => exact endLine_deposits _ _ _ h
    case h_6 => exact reverseLoss_deposits _ _ h
    case h_7 =>
      unfold foundAfterClose
      dsimp only
      rw [notify_hires]
      exact h
    all_goals exact h

theorem loseReceiver_deposits (n : Half) (h : DepositsKept s.ret.hires) : DepositsKept (loseReceiver n s).2.2.ret.hires := by
  unfold loseReceiver
  split
  · exact h
  · split
    · exact endLine_deposits _ _ _ h
    · exact h

theorem adjustDeposit_deposits (n : Half) (minus : Bool) (x : Word) (h : DepositsKept s.ret.hires) :
    DepositsKept (adjustDeposit n minus x s).2.2.ret.hires := by
  unfold adjustDeposit
  split
  · exact h
  · split
    · exact h
    · next y hy =>
      have kept := h.of_hire hy
      simp only
      split
      · exact h
      · next passes =>
        refine h.setHire _ ?_
        simp only [not_or, not_and, not_lt, Config.amountLimit] at passes
        show (if minus = true then y.deposit - x.toNat else y.deposit + x.toNat) ≤ 4294967295
        split
        · omega
        · next plus => exact passes.2 (by simpa using plus)

theorem HireOp.deposits (op : HireOp s t) (h : DepositsKept s.ret.hires) : DepositsKept t.ret.hires := by
  cases op with
  | issue n m => exact issueReceiver_deposits n m h
  | back p n => exact returnOf_deposits p n h
  | lose n => exact loseReceiver_deposits n h
  | deposit n minus x => exact adjustDeposit_deposits n minus x h
  | close =>
    rcases completeClose_cases s with e | ⟨p, a, w, _, ⟨x, d, e⟩ | ⟨_, d, e⟩⟩ <;> rw [e]
    · exact h
    · rw [finish_ports p x d _]; exact h
    · rw [finish_ports p .done d _, commitClose, notifyExcept_ports _ _ _]
      refine fun e he => h e ?_
      have kept : ∀ v : State, e ∈ (removeHire w.ticket v).ret.hires → e ∈ v.ret.hires := fun v hv => (List.mem_filter.mp hv).1
      simp only at he
      split at he <;> exact kept _ he

/-! ## Turns -/

/-- Every seat's accumulator is as it was, or within its range. -/
theorem Deeds.accs (deeds : Deeds s t) (h : ∀ b k, AccKept (s.acc b k)) : ∀ b k, AccKept (t.acc b k) := by
  have same : ∀ {u v : State}, (scene v).acc = (scene u).acc → (∀ b k, AccKept (u.acc b k)) → ∀ b k, AccKept (v.acc b k) :=
    fun e hu b k => Eq.subst (motive := AccKept) (congrFun (congrFun e b) k).symm (hu b k)
  induction deeds with
  | refl => exact h
  | @cover t c x f hf _ ih => exact same (by rw [scene_coverageChange c x hf]; rfl) ih
  | hold c x _ ih => exact same (by rw [scene_holderChange]; rfl) ih
  | seats b l _ _ ih => exact same (by rw [scene_syncMute]; rfl) ih
  | booth b l _ _ _ ih => exact same rfl ih
  | @acc t b k turns hx _ ih =>
    intro d j
    rw [State.setAcc_acc]
    split
    · next e =>
      obtain ⟨rfl, rfl⟩ := e
      exact ⟨(ih b k).1, hx⟩
    · exact ih d j
  | offer c x _ ih => exact same rfl ih
  | notice n _ _ ih => exact same (by rw [scene_notify]) ih

theorem Alike.accs (h : Alike s t) (hs : ∀ b k, AccKept (s.acc b k)) (b : Booth) (k : Seat) : AccKept (t.acc b k) :=
  (h.acc b k).symm ▸ hs b k

theorem reseated_alike (b : Booth) (x : Option BoothSettings) (s : State) : Alike s (reseated b x s) :=
  (setListen_alike b .floor .floor false s).trans
    (voidCycle_alike b ((setListen b .floor .floor false s).setBoothSettings b x))

theorem BoothOp.accs (op : BoothOp s t) (h : ∀ b k, AccKept (s.acc b k)) : ∀ b k, AccKept (t.acc b k) := by
  cases op with
  | choose b m x hm ht => exact (chooseListen_alike b x s).accs h
  | configure b m args hm hl hr =>
    have withdrawn := (withdrawAll_deeds b s).accs h
    unfold configureBooth
    dsimp only
    generalize withdrawAll b s = u at withdrawn ⊢
    exact (relayUnproduced_alike _).accs ((reseated_alike b (some m) _).accs withdrawn)
  | clear b =>
    have lost := (seatLoss_deeds b s).accs h
    unfold clearBooth
    dsimp only
    generalize seatLoss b s = u at lost ⊢
    exact (relayUnproduced_alike _).accs ((reseated_alike b none _).accs lost)

theorem applyAssign_accs (a : Assign) (h : ∀ b k, AccKept (s.acc b k)) : ∀ b k, AccKept ((applyAssign a s).acc b k) := by
  have written : ∀ b k, AccKept ((assignWrites a s).acc b k) := by
    rw [assignWrites_keeps]; exact h
  rw [applyAssign_eq]
  refine (handTarget_alike a s (assigned a s)).accs ?_
  split
  · exact (assigned_alike a s).accs written
  · exact (assigned_alike a s).accs written

/-! ## Counters -/

theorem holdAdd_le (top x d : Nat) : holdAdd top x d ≤ top := Nat.min_le_left ..
theorem le_holdAdd {top x : Nat} (h : x ≤ top) (d : Nat) : x ≤ holdAdd top x d := Nat.le_min.mpr ⟨h, Nat.le_add_right ..⟩

theorem countSlot_kept (s : State) {k : LangSlot} (h : SlotKept k) : SlotKept (countSlot s k) := by
  obtain ⟨hu, hv, hum, hvm⟩ := h
  unfold countSlot
  split
  · exact ⟨hu, hv, hum, hvm⟩
  · split
    · exact ⟨holdAdd_le .., hv, hum.trans (le_holdAdd hu 1), hvm⟩
    · exact ⟨hu, holdAdd_le .., hum, hvm.trans (le_holdAdd hv 1)⟩
    · exact ⟨hu, hv, hum, hvm⟩

theorem countOnAir_kept (s : State) (h : ∀ b k, AccKept (s.acc b k)) (b : Booth) (k : Seat) :
    AccKept ((countOnAir s b).get k) := by
  unfold countOnAir
  rw [Bank.get_build]
  simp only
  split
  · exact ⟨holdAdd_le .., (h b k).2⟩
  · exact h b k

theorem countBlocks_slot (s : State) (k : Slot) : (countBlocks s).slot k = (countSlots s).slot k := rfl

theorem countSlots_kept (h : ∀ k, SlotKept (s.slot k)) (k : Slot) : SlotKept ((countSlots s).slot k) := by
  unfold countSlots
  split
  · exact h k
  · show SlotKept ((s.ret.slots.map (countSlot s)).get k)
    rw [Bank.get_map]
    exact countSlot_kept s (h k)

theorem countBlocks_kept (h : RangesKept s) : RangesKept (countBlocks s) := by
  obtain ⟨clock, slots, seats, sequence, intake, deposits⟩ := (rangesKept_iff s).mp h
  have keeps := countBlocks_keeps s
  refine (rangesKept_iff _).mpr ⟨by rw [keeps]; exact clock, countSlots_kept slots, fun b k => ?_, by rw [keeps]; exact sequence,
    by rw [keeps]; exact intake, by rw [keeps]; exact deposits⟩
  unfold State.acc
  rw [keeps, Bank.get_build]
  exact countOnAir_kept s seats b k

theorem openSession_kept (h : RangesKept s) : RangesKept (openSession s).2.2 := by
  obtain ⟨clock, slots, seats, sequence, intake, deposits⟩ := (rangesKept_iff s).mp h
  unfold openSession
  split
  · exact h
  · refine (rangesKept_iff _).mpr ⟨clock, fun k => ?_, fun b k => ?_, sequence, intake, deposits⟩
    · obtain ⟨hu, hv, _, _⟩ := slots k
      show SlotKept ((s.ret.slots.map _).get k)
      rw [Bank.get_map]
      exact ⟨hu, hv, le_refl _, le_refl _⟩
    · show AccKept (((Bank.fill 32 (Bank.fill 3 SeatAcc.zero)).get b).get k)
      rw [Bank.get_fill, Bank.get_fill]
      exact ⟨Nat.zero_le _, Nat.zero_le _⟩

/-! ## Every act -/

theorem PlanOp.kept (op : PlanOp s t) (h : RangesKept s) : RangesKept t := by
  have written : ∀ (k : Slot) (n : Option LangName), RangesKept (s.setSlot k { s.slot k with name := n }) := fun k n => by
    obtain ⟨clock, slots, seats, sequence, intake, deposits⟩ := (rangesKept_iff s).mp h
    refine (rangesKept_iff _).mpr ⟨clock, fun j => ?_, seats, sequence, intake, deposits⟩
    rw [State.setSlot_slot]
    split
    · exact slots k
    · exact slots j
  cases op with
  | define slot tag label =>
    unfold defineLanguage
    split
    · exact h
    · (repeat' split) <;> first | exact h | exact written _ _
  | remove slot =>
    unfold removeLanguage
    split
    · exact h
    · (repeat' split) <;> first | exact h | exact written _ _
  | assign target args a ha hf =>
    obtain ⟨clock, slots, seats, sequence, intake, deposits⟩ := (rangesKept_iff s).mp h
    have op : PlanOp s (applyAssign a s) := .assign target args a ha hf
    have keeps := op.sameButPlan
    refine (rangesKept_iff _).mpr ⟨by rw [keeps]; exact clock, fun k => ?_, applyAssign_accs a seats, by rw [keeps]; exact sequence,
      by rw [keeps]; exact intake, ?_⟩
    · have same : (applyAssign a s).ret.slots = (assignWrites a s).ret.slots := by
        rw [applyAssign_eq, (handTarget_moves a s _).keeps, assigned, (closeLeft_books ..).keeps, (routeAfter_moves ..).keeps,
          (settleLeft_moves ..).keeps]
      unfold State.slot
      rw [same]
      exact Eq.subst (motive := SlotKept) (assignWrites_slot a s k).symm (slots k)
    · have written : DepositsKept (assignWrites a s).ret.hires := by rw [assignWrites_keeps]; exact deposits
      have closed : DepositsKept (assigned a s).ret.hires := by
        unfold assigned closeLeft
        have routed : DepositsKept (routeAfter s a.target (settleLeft a s (assignWrites a s))).ret.hires := by
          rw [(routeAfter_moves ..).keeps, (settleLeft_moves ..).keeps]; exact written
        split
        · split
          · exact routed
          · exact slotLeaves_deposits _ routed
        · exact routed
      rw [applyAssign_eq, (handTarget_moves a s _).keeps]
      exact closed
  | override on => exact h.of_part (setOverride_routes on s) rfl

theorem cleared_kept {g : General} (hi : g.intake = []) (supply : Supply) (mark : Mark) (held : Option Bool) : RangesKept { s with
    supply := supply, heldStart := held, clock := 0, mark := mark, ret := Retained.cleared, gen := g } := by
  refine (rangesKept_iff _).mpr ⟨Nat.zero_le _, fun k => ?_, fun b k => ?_, Nat.zero_le _, by rw [hi]; exact Nat.zero_le _, nofun⟩
  · show SlotKept (Retained.cleared.slots.get k)
    exact (Bank.get_fill k _).symm ▸ ⟨Nat.zero_le _, Nat.zero_le _, Nat.zero_le _, Nat.zero_le _⟩
  · show AccKept ((Retained.cleared.seatAcc.get b).get k)
    unfold Retained.cleared
    rw [Bank.get_fill, Bank.get_fill]
    exact ⟨Nat.zero_le _, Nat.zero_le _⟩

theorem ResetOp.kept {drops : Prop} (op : ResetOp drops s t) (h : RangesKept s) : RangesKept t := by
  obtain ⟨clock, slots, seats, sequence, intake, deposits⟩ := (rangesKept_iff s).mp h
  cases op with
  | off => exact (rangesKept_iff _).mpr ⟨clock, slots, seats, sequence, Nat.zero_le _, deposits⟩
  | cleared supply mark held => exact cleared_kept rfl supply mark held
  | stopped => exact h.of_part rfl rfl
  | general kind cleared =>
    have keeps := generalReset_keeps kind cleared s
    have domain := generalReset_domain kind cleared s
    refine (rangesKept_iff _).mpr ⟨by rw [keeps]; exact clock, by rw [keeps]; exact slots, by rw [keeps]; exact seats, ?_, ?_,
      by rw [keeps]; exact deposits⟩
    · rw [keeps]
      show (if cleared = true then _ else wrapNext Config.smallMax s.ret.dirSeq) ≤ 65535
      split
      · exact sequence
      · unfold wrapNext Config.smallMax
        split <;> omega
    · rw [domain]; exact Nat.zero_le _
  | port p => exact h.of_part rfl rfl

theorem Act.kept {drops : Prop} (act : Act drops s t) (h : RangesKept s) : RangesKept t := by
  obtain ⟨clock, slots, seats, sequence, intake, deposits⟩ := (rangesKept_iff s).mp h
  cases act with
  | aside a => exact h.of_part a rfl
  | ports op => exact h.of_part op.ports rfl
  | hall op =>
    have keeps := op.deeds.moves.keeps
    exact (rangesKept_iff t).mpr ⟨by rw [keeps]; exact clock, by rw [keeps]; exact slots, op.deeds.accs seats,
      by rw [keeps]; exact sequence, by rw [keeps]; exact intake, by rw [keeps]; exact deposits⟩
  | booths op =>
    have keeps := op.sameButBooths
    exact (rangesKept_iff t).mpr ⟨by rw [keeps]; exact clock, by rw [keeps]; exact slots, op.accs seats,
      by rw [keeps]; exact sequence, by rw [keeps]; exact intake, by rw [keeps]; exact deposits⟩
  | plan op => exact op.kept h
  | books op =>
    have keeps := op.sameButBooks
    exact (rangesKept_iff t).mpr ⟨by rw [keeps]; exact clock, by rw [keeps]; exact slots, by rw [keeps]; exact seats,
      by rw [keeps]; exact sequence, by rw [keeps]; exact intake, op.deposits deposits⟩
  | jobs op => exact h.of_part op.keeps rfl
  | reset op => exact op.kept h
  | directory before =>
    have keeps := dirAfter_directory before s
    refine (rangesKept_iff _).mpr ⟨by rw [keeps]; exact clock, by rw [keeps]; exact slots, by rw [keeps]; exact seats, ?_,
      by rw [keeps]; exact intake, by rw [keeps]; exact deposits⟩
    rcases dirAfter_cases before s with ⟨_, e⟩ | ⟨_, e⟩ <;> rw [e]
    · exact sequence
    · have next : wrapNext Config.smallMax s.ret.dirSeq ≤ 65535 := by unfold wrapNext Config.smallMax; split <;> omega
      rcases dirDue_cases { s with ret.dirSeq := wrapNext Config.smallMax s.ret.dirSeq } with ⟨_, e⟩ | ⟨_, e⟩ <;> rw [e] <;>
        exact next
  | refresh =>
    generalize fullSet s = os
    exact h.of_part (placeAll_routes os s) rfl
  | orderSent => exact h.of_part (SameRoutes.trans (t := { s with gen.routeSending := none }) rfl (routeBegin_routes _)) rfl
  | intake l hl => exact (rangesKept_iff _).mpr ⟨clock, slots, seats, sequence, hl.elim id fun short => short.trans intake, deposits⟩
  | clock v hv top => exact (rangesKept_iff _).mpr ⟨top, slots, seats, sequence, intake, deposits⟩
  | count => exact countBlocks_kept h
  | session => exact openSession_kept h
  | accounts => exact h.of_part rfl rfl

theorem HireOp.kept (op : HireOp s t) (h : RangesKept s) : RangesKept t := by
  obtain ⟨clock, slots, seats, sequence, intake, deposits⟩ := (rangesKept_iff s).mp h
  have keeps := op.keeps
  exact (rangesKept_iff t).mpr ⟨by rw [keeps]; exact clock, by rw [keeps]; exact slots, by rw [keeps]; exact seats,
    by rw [keeps]; exact sequence, by rw [keeps]; exact intake, op.deposits deposits⟩

end

/-- Settles O58: every addition is held at its top, every deposit is a word or stays below the amount limit. -/
theorem rangesAreKept : Obligations.RangesAreKept := fun _ _ h =>
  step_keeps (P := RangesKept) h (fun _ hs => hs.of_part rfl rfl) (fun _ _ _ act => act.kept) (fun _ _ change => change.kept)

end Sys2Proof.Machine
end

section
/-! PROOF. O56 fails: its premises leave U without a top, and a second event puts a U above the top back to it, below the
mark of a receiver that listens. -/

namespace Sys2Proof.Machine
open Sys2Proof

/-- Receiver 7, hired on line 0 of ticket 1, listens to slot 0 with a mark above the top of U. -/
def overMarked : Receiver := ⟨some 700, .hired, some ⟨1, 0⟩, some ⟨0, 4294967296⟩, none, none, false, false, 1⟩
def outLine : Line := ⟨7, 0, none, .out, 0⟩

/-- Slot 0 is on the air of channel 1, which is UNCOVERED, and its U stands above the top. -/
def overCounted : State :=
  let s := ((State.reset.setHire 1 ⟨0, 5000, .desk1, 0, none, false, 4, [outLine]⟩).setReceiver 7 overMarked).setSlot 0
    { LangSlot.blank with channel := some 0, u := 4294967296 }
  { s.setChan 0 { s.chan 0 with coverage := .uncovered } with
    pending := [.secondEvent], ret.listeners := (Bank.fill 32 0).set 0 1, ret.peaks := (Bank.fill 32 0).set 0 1 }

theorem overCounted_receiver (n : Nat) :
    overCounted.receiver n = if 7 = n then overMarked else Receiver.unenrolled :=
  State.setReceiver_receiver ..

theorem overCounted_line {link : HireLink} {l : Line} (hl : overCounted.ret.line? link = some l) :
    link = ⟨1, 0⟩ ∧ l = outLine := by
  obtain ⟨ticket, i⟩ := link
  have hires : overCounted.ret.hires = [(1, ⟨0, 5000, .desk1, 0, none, false, 4, [outLine]⟩)] := rfl
  unfold Retained.line? at hl
  rw [hires, Table.find?_cons] at hl
  split at hl
  · next e =>
    cases i with
    | zero => exact ⟨congrArg (HireLink.mk · 0) e.symm, by simpa using hl.symm⟩
    | succ i => simp at hl
  · simp at hl

/-- A record that shows anything but a free one's fields is record 7. -/
theorem overCounted_seven {α : Type} (f : Receiver → α) {n : Nat} {x : α} (hn : f (overCounted.receiver n) = x)
    (other : f Receiver.unenrolled ≠ x) : n = 7 := by
  rw [overCounted_receiver] at hn
  split at hn
  · next e => exact e.symm
  · exact absurd hn other

theorem overCounted_lawful : HiresLawful overCounted.ret :=
  ⟨List.pairwise_singleton .., by decide, fun e he => by rw [List.mem_singleton.mp he]; decide, by decide⟩

theorem overCounted_links : LinksAgree overCounted.ret := by
  refine ⟨List.pairwise_singleton .., fun e he => by rw [List.mem_singleton.mp he]; decide, fun n hn => ?_, fun n link hn _ => ?_,
    fun n hn => ?_, fun link l hl _ => ?_, fun link l hl lost => ?_⟩
  · obtain rfl := overCounted_seven Receiver.state hn (by decide)
    exact ⟨⟨1, 0⟩, outLine, rfl, rfl, rfl, rfl⟩
  · obtain rfl := overCounted_seven Receiver.state hn (by decide)
    cases hn
  · obtain rfl := overCounted_seven (fun r => r.link.isSome) hn (by decide)
    exact .inl rfl
  · obtain ⟨rfl, rfl⟩ := overCounted_line hl
    exact ⟨rfl, rfl⟩
  · obtain ⟨rfl, rfl⟩ := overCounted_line hl
    cases lost

theorem overCounted_credit : CreditAgrees overCounted := by
  refine ⟨fun link l hl => ?_, fun link l hl => ?_, fun n m hm => ?_, by decide +kernel, by decide +kernel⟩
  · rw [(overCounted_line hl).2]; decide
  · rw [(overCounted_line hl).2]; decide
  · obtain rfl := overCounted_seven Receiver.tuned hm nofun
    cases hm
    exact ⟨rfl, by decide +kernel⟩

/-- Refutes O56: in `overCounted` the mark of receiver 7 and the counter U of its slot both stand above the value at which U is
held, 4,294,967,295, which no premise rules out (R29 does, in `RangesKept`); the second event holds U at that value, below the
mark. -/
theorem not_hiresAndLinksAreKept : ¬ Obligations.HiresAndLinksAreKept := by
  intro h
  have step : step overCounted = .next (tick { overCounted with pending := [] }) := rfl
  obtain ⟨_, _, _, credit⟩ := h _ _ step overCounted_lawful overCounted_links nofun
  obtain ⟨_, mark⟩ := (credit overCounted_credit).tuned 7 ⟨0, 4294967296⟩ (by decide +kernel)
  exact absurd mark (by decide +kernel)

end Sys2Proof.Machine
end

section
/-! PROOF. The state after reset meets the invariants (O59): every bank holds one value, every list but that of the route orders is
empty. -/

namespace Sys2Proof.Machine
open Sys2Proof

theorem reset_chan (c : Chan) : State.reset.chan c = ⟨.unassigned, none, .silent, 0, false⟩ := Bank.get_fill ..
theorem reset_settings (c : Chan) : State.reset.settings c = ChanSettings.blank := Bank.get_fill ..
theorem reset_booth (b : Booth) : State.reset.booth b = BoothLive.afterReset none := Bank.get_fill ..

theorem reset_hall : HallAgrees State.reset := by
  refine hallAgrees_of_rest (fun b k => ?_) (fun c => Bank.get_fill ..) (fun b => ?_) (fun c => ?_) fun c => ?_
  · unfold State.seat
    rw [reset_booth]
    exact Bank.get_fill ..
  · rw [reset_booth]; rfl
  · rw [reset_chan]; exact ⟨rfl, nofun⟩
  · rw [reset_chan, reset_settings]; exact iff_of_true rfl rfl

theorem reset_floor (b : Booth) : (State.reset.booth b).chosen = .floor ∧ (State.reset.booth b).effective = .floor ∧
    (State.reset.booth b).autoHold = false := by
  rw [reset_booth]; exact ⟨rfl, rfl, rfl⟩

/-- The orders listed are the rest of the full set. -/
theorem reset_line : RouteListed State.reset ∧ MatrixAgrees State.reset := by
  have orders : routeOrders State.reset = fullSet State.reset := by decide +kernel
  have current : ∀ o ∈ routeOrders State.reset, Current State.reset o := fun o ho => mem_fullSet.mp (orders ▸ ho)
  have once : (routeOrders State.reset).Pairwise (fun a b => sameSubject a b = false) := orders ▸ fullSet_once _
  exact ⟨⟨(List.pairwise_append.mp once).2.1, nofun⟩, fun o ho => current o (List.mem_append_right _ ho),
    fun o ho => .inl (current o (List.mem_append_left _ (Option.mem_toList.mpr ho)))⟩

theorem reset_port (p : Port) : State.reset.port p = PortState.restarted p 0 .power true := by cases p <;> rfl

theorem reset_jobs : JobsAgree State.reset := by
  refine ⟨List.nodup_nil, fun p => ?_, fun p r hr => ?_, nofun⟩
  · rw [reset_port]
    exact iff_of_false List.not_mem_nil nofun
  · rw [reset_port] at hr
    cases hr

theorem reset_links : LinksAgree State.reset.ret :=
  ⟨List.Pairwise.nil, nofun, nofun, nofun, nofun, nofun, nofun⟩

theorem reset_credit : CreditAgrees State.reset := by
  have listeners : ∀ k, State.reset.ret.listeners.get k = 0 := fun k => Bank.get_fill ..
  exact ⟨nofun, nofun, nofun, listeners, fun k => (listeners k).trans_le (Nat.zero_le _)⟩

/-- Settles O59. -/
theorem resetMeetsTheInvariants : Obligations.ResetMeetsTheInvariants := by
  obtain ⟨listed, matrix⟩ := reset_line
  have relays : RelayOk State.reset := .of_floor fun b => (reset_floor b).1
  refine ⟨.cleared, reset_hall, listens_of_floor reset_floor, ?_, listed, matrix, fun p => ?_, reset_jobs,
    ⟨.nil, Nat.zero_le _, nofun, by decide⟩, reset_links, nofun, reset_credit, rfl,
    by unfold Accounts.below; decide, ?_, ⟨rfl, rfl⟩⟩
  · exact relays
  · rw [reset_port]
    exact restarted_bounded ..
  · exact cleared_kept (s := State.reset) rfl .main .valid none

end Sys2Proof.Machine
end

section
/-! PROOF. The expiries of a second event are taken before the next event; nothing but the inputs acts while the general domain is
off or held in reset (O3). -/

namespace Sys2Proof.Machine
open Sys2Proof

theorem taking_taking (f : State → State) : ∃ g, ∀ s, taking f s = taking g s := ⟨f, fun _ => rfl⟩

theorem request_taking (p : Port) (tag : Byte) (code : ReqCode) (body : State → State) :
    ∃ g, ∀ s, request p tag code body s = taking g s := by
  unfold request frameArrives
  exact taking_taking _

/-- A request is an event that the general domain alone takes. -/
theorem runRequest_taking (i : Instr) : (∀ s, runRequest i s = none) ∨ ∃ f, ∀ s, runRequest i s = some (taking f s) := by
  have taken : ∀ p tag code body, ∃ f, ∀ s, some (request p tag code body s) = some (taking f s) := fun p tag code body => by
    obtain ⟨g, hg⟩ := request_taking p tag code body
    exact ⟨g, fun s => congrArg some (hg s)⟩
  cases i <;> first | exact .inl fun _ => rfl | exact .inr (taken ..)

theorem execUnknownRequest_taking (p : Port) (content : List Byte) : ∃ f, ∀ s, execUnknownRequest p content s = taking f s := by
  unfold execUnknownRequest
  cases parseContent p content with
  | none =>
    simp only [Option.bind_none]
    unfold frameArrives
    exact taking_taking _
  | some i =>
    simp only [Option.bind_some]
    rcases runRequest_taking i with idle | ⟨f, hf⟩
    · simp only [idle]
      unfold frameArrives
      exact taking_taking _
    · simp only [hf]
      exact taking_taking f

/-- A command that is neither an input nor an expiry is an event that the general domain alone takes. -/
theorem exec_taking (i : Instr) (input : isInput i = false) (expiry : isExpiry i = false) : ∃ f, ∀ s, exec i s = taking f s := by
  cases i with
  | directorySendEnd => dsimp only [exec, execDirectorySendEnd]; exact taking_taking _
  | routeOrderSent => dsimp only [exec, execRouteOrderSent]; exact taking_taking _
  | pollSent => dsimp only [exec, execPollSent]; exact taking_taking _
  | reportTaken => dsimp only [exec, execReportTaken]; exact taking_taking _
  | badCrcFrame p content => dsimp only [exec, execBadCrcFrame]; exact taking_taking _
  | responseFrameSent p => dsimp only [exec, execResponseFrameSent]; exact taking_taking _
  | unknownRequest p content => exact execUnknownRequest_taking p content
  | _ =>
    first
    | exact absurd input Bool.noConfusion
    | exact absurd expiry Bool.noConfusion
    | exact request_taking ..
    | exact taking_taking _

theorem takeOne_asleep {s : State} (h : s.running = false) (d : Due) : takeOne d s = .next s :=
  if_neg (by simp [h])

/-- Nothing but the inputs acts while the general domain is off or held in reset. -/
theorem exec_asleep (i : Instr) {s : State} (h : s.running = false) (input : isInput i = false) : exec i s = .next s := by
  cases expiry : isExpiry i with
  | false =>
    obtain ⟨f, hf⟩ := exec_taking i input expiry
    rw [hf, taking_asleep h]
  | true => cases i <;> first | exact takeOne_asleep h _ | exact Bool.noConfusion expiry

theorem takeDue_due (s : State) : (takeDue s).gen.due = [] := by
  have sent : ∀ u : State, (dirDue u).gen.due = u.gen.due := fun u => by unfold dirDue; split <;> rfl
  have after : ∀ b u : State, (dirAfter b u).gen.due = u.gen.due := fun b u => by rw [dirAfter_directory b u]
  unfold takeDue
  have emptied : (expireHolds (s.gen.due.filterMap Due.hold?) { s with gen.due := [] }).gen.due = [] :=
    expireHolds_keeps (fun u => u.gen.due = []) (fun c u e => by rw [(uncover_moves c u).keeps]; exact e)
      (fun b u e => (after b u).trans e) _ _ rfl
  generalize expireHolds (s.gen.due.filterMap Due.hold?) { s with gen.due := [] } = t at emptied
  generalize s.gen.due.filter (fun d => d.hold?.isNone) = ds
  induction ds generalizing t with
  | nil => exact emptied
  | cons d ds ih =>
    refine ih _ ?_
    dsimp only
    rcases runDue_cases d t with e | ⟨c, e⟩ | ⟨c, o, _, e⟩ | e | e | ⟨p, e⟩ <;> rw [e]
    · exact emptied
    · rw [after, (uncover_moves c t).keeps]; exact emptied
    · rw [after, (expireOffer_moves c o t).keeps]; exact emptied
    · exact (sent _).trans emptied
    · rw [(dueAlarm_books t).keeps]; exact emptied
    · rw [endWait_ports p .empty t]; exact emptied

theorem takeDue_inputs (s : State) : ((takeDue s).supply, (takeDue s).lineAsserted, (takeDue s).breaks) =
    (s.supply, s.lineAsserted, s.breaks) :=
  takeDue_unchanged (fun u => (u.supply, u.lineAsserted, u.breaks)) (fun _ _ => rfl) (fun _ _ h => by rw [h.keeps])
    (fun _ _ h => by rw [h.keeps]) (fun _ _ h => by rw [h]) (fun _ _ h => by rw [h]) s

/-- The second event that an advance of the clock brings to a general domain that has taken what was due. -/
def secondEvent (s : State) : State :=
  { countBlocks { s with clock := s.clock + 1 } with gen.due := dueNow (countBlocks { s with clock := s.clock + 1 }) }

theorem tick_running {s : State} (running : s.running = true) (low : s.clock < 4294967295) :
    tick s = secondEvent (takeDue s) := by
  have awake : ¬ (s.supply = .none ∨ Config.countMax ≤ s.clock) := fun stands => by
    rcases stands with none | top
    · unfold State.running at running
      rw [none] at running
      cases running
    · exact absurd low (Nat.not_lt.mpr top)
  have later : ({ takeDue s with clock := (takeDue s).clock + 1 } : State).running = true := (takeDue_running s).trans running
  unfold tick
  rw [if_neg awake]
  dsimp only
  rw [if_pos running, if_pos later]
  rfl

/-- Settles O3: every command but the inputs and the expiries is `taking` of some work, and each input takes the expiries first. -/
theorem eventsAreTakenInTheirTurn : Obligations.EventsAreTakenInTheirTurn := by
  refine ⟨fun c s running input expiry => ⟨takeDue_due s, ?_⟩, fun s running => ?_, fun c s h input => exec_asleep c h input⟩
  · obtain ⟨f, hf⟩ := exec_taking c input expiry
    rw [hf, hf]
    unfold taking
    rw [takeDue_running, takeDue_settled (takeDue_due s), if_pos running, if_pos running]
  · have inputs := takeDue_inputs s
    simp only [Prod.mk.injEq] at inputs
    obtain ⟨supply, line, breaks⟩ := inputs
    have again : takeDue (takeDue s) = takeDue s := takeDue_settled (takeDue_due s)
    obtain ⟨powered, released⟩ := running_iff.mp running
    have running' : (takeDue s).running = true := (takeDue_running s).trans running
    refine ⟨fun low => ?_, ?_, ?_, fun p => ⟨fun whole => ?_, fun broken => ?_⟩⟩
    · show (Host.Outcome.next (tick s) : Out) = .next (tick (takeDue s))
      rw [tick_running running low, tick_running running' (by rw [takeDue_clock]; exact low), again]
    · show execMainSupplyFail s = execMainSupplyFail (takeDue s)
      unfold execMainSupplyFail
      simp only [supply, powered, running, running', again, if_true]
    · show execResetLineAssert s = execResetLineAssert (takeDue s)
      unfold execResetLineAssert
      simp only [line, released, running, running', again, if_true, Bool.false_eq_true, if_false]
    · show execPortBreak p s = execPortBreak p (takeDue s)
      unfold execPortBreak
      simp only [breaks, whole, running, running', again, if_true, Bool.false_eq_true, if_false]
    · show execBreakEnd p s = execBreakEnd p (takeDue s)
      unfold execBreakEnd
      simp only [breaks, broken, running, running', again, if_true]

end Sys2Proof.Machine
end

section
/-! PROOF. The supplies and the resets: what a general reset, a full reset and a loss of the general domain leave (O4, O5), and what a
break does to its port (O6). -/

namespace Sys2Proof.Machine
open Sys2Proof

variable {s t : State}

/-! ## A general domain that does nothing -/

theorem silent_of_quiet {r : Retained} (hg : t.gen = General.quiet r) (stopped : t.running = false) : Silent t where
  attention p := by unfold State.attention; rw [stopped]; rfl
  responses p := by unfold State.port; rw [hg]; cases p <;> exact ⟨rfl, rfl⟩
  orders := by rw [hg]; exact ⟨rfl, rfl⟩
  directory := by rw [hg]; exact ⟨rfl, rfl⟩
  boothLine := by rw [hg]; rfl
  jobs := by rw [hg]; exact ⟨rfl, rfl⟩

theorem silent_of_stopped (s : State) {u : State} (hg : u.gen = s.gen.stopped) (stopped : u.running = false) : Silent u where
  attention p := by unfold State.attention; rw [stopped]; rfl
  responses p := by unfold State.port; rw [hg]; cases p <;> exact ⟨rfl, rfl⟩
  orders := by rw [hg]; exact ⟨rfl, rfl⟩
  directory := by rw [hg]; exact ⟨rfl, rfl⟩
  boothLine := by rw [hg]; rfl
  jobs := by rw [hg]; exact ⟨rfl, rfl⟩

theorem stopped_of_line (held : t.lineAsserted = true) : t.running = false := by
  unfold State.running
  rw [held]
  exact Bool.and_false _

/-! ## A general reset -/

theorem generalReset_directory (kind : RestartKind) (cleared : Bool) (s : State) :
    (generalReset kind cleared s).gen.dirSending =
      some ⟨dirContent (generalReset kind cleared s), (generalReset kind cleared s).ret.dirSeq⟩ := by
  rw [generalReset_eq]
  generalize placeAll (fullSet (resetBase kind cleared s)) (resetBase kind cleared s) = t
  cases cleared <;> rfl

theorem generalReset_running (kind : RestartKind) (cleared : Bool) (s : State) :
    (generalReset kind cleared s).running = s.running := by
  rw [generalReset_keeps]
  rfl

theorem wrapNext_small (x : Nat) : wrapNext Config.smallMax x = if x < 65535 then x + 1 else 0 := rfl

/-- A general reset that is no part of a full reset. -/
theorem generalReset_after (kind : RestartKind) (s : State) : AfterGeneralReset kind s (generalReset kind false s) := by
  have keeps := generalReset_keeps kind false s
  have domain := generalReset_domain kind false s
  obtain ⟨orders, _⟩ := generalReset_line kind false s
  constructor
  case retained => rw [keeps, ← wrapNext_small]; rfl
  case clock => rw [keeps]
  case mark => rw [keeps]
  case breaks => rw [keeps]
  case chans =>
    intro c
    unfold State.chan
    rw [domain]
    exact Bank.get_map ..
  case override => rw [domain]; rfl
  case booths => exact fun b => generalReset_booth kind false s b
  case offers =>
    intro c
    unfold State.offer
    rw [domain]
    exact Bank.get_fill ..
  case boothLine => rw [domain]; exact ⟨rfl, rfl⟩
  case intake => rw [domain]; exact ⟨rfl, rfl⟩
  case jobs => rw [domain]; exact ⟨rfl, rfl⟩
  case snapshot => rw [domain]; rfl
  case start => rw [domain]
  case ports =>
    intro p
    rw [generalReset_port]
    unfold portAtCompletion
    split <;> rfl
  case orders => exact orders
  case directory => exact ⟨generalReset_directory kind false s, by rw [domain]; rfl, by rw [domain]; rfl⟩
  case due => rw [domain]; rfl

/-- What a general reset leaves hangs on the store, the clock, the mark and the breaks that it found. -/
theorem AfterGeneralReset.of_same {kind : RestartKind} {u : State} (h : AfterGeneralReset kind u t) (ret : u.ret = s.ret)
    (clock : u.clock = s.clock) (mark : u.mark = s.mark) (breaks : u.breaks = s.breaks) : AfterGeneralReset kind s t := by
  have settings : u.settings = s.settings := by unfold State.settings; rw [ret]
  have booths : u.boothSettings = s.boothSettings := by unfold State.boothSettings; rw [ret]
  exact { h with
    retained := by rw [← ret]; exact h.retained
    clock := h.clock.trans clock
    mark := h.mark.trans mark
    breaks := h.breaks.trans breaks
    chans := by rw [← settings]; exact h.chans
    booths := by rw [← booths]; exact h.booths
    ports := by rw [← clock, ← breaks]; exact h.ports }

/-! ## A full reset -/

theorem cleared_chans : Retained.cleared.plan.map chanAfterReset = Bank.fill 24 ⟨.unassigned, none, .silent, 0, false⟩ :=
  Bank.ext_get fun c => by
    rw [Bank.get_map, Bank.get_fill]
    exact congrArg chanAfterReset (Bank.get_fill c _)

theorem cleared_booths : Retained.cleared.booths.map BoothLive.afterReset = Bank.fill 32 (BoothLive.afterReset none) :=
  Bank.ext_get fun b => by
    rw [Bank.get_map, Bank.get_fill]
    exact congrArg BoothLive.afterReset (Bank.get_fill b _)

/-- The general reset that completes a full reset leaves the general domain of `State.reset`. -/
theorem generalReset_full (store : s.ret = Retained.cleared) : (generalReset .power true s).gen =
    { State.reset.gen with ports := (generalReset .power true s).gen.ports } := by
  have keeps := generalReset_keeps .power true s
  have domain := generalReset_domain .power true s
  have send := generalReset_directory .power true s
  obtain ⟨orders, idle⟩ := generalReset_line .power true s
  generalize generalReset .power true s = t at keeps domain send orders idle ⊢
  have ret : t.ret = Retained.cleared := by rw [keeps]; exact store
  have chans : t.gen.chans = State.reset.gen.chans := by rw [domain, store]; exact cleared_chans
  have booths : t.gen.booths = State.reset.gen.booths := by rw [domain, store]; exact cleared_booths
  have override : t.gen.override = false := by rw [domain]; rfl
  have content : dirContent t = dirContent State.reset := by
    refine dirContent_of_reads (fun c => ?_) (fun c => ?_) (fun k => ?_) override
    · unfold State.chan; rw [chans]
    · unfold State.settings; rw [ret]; rfl
    · unfold State.slot; rw [ret]; rfl
  have set : fullSet t = routeOrders State.reset := by
    have same : fullSet t = fullSet State.reset := by
      unfold fullSet effectiveRoute State.settings State.chan State.booth
      rw [ret, chans, booths, override]
      rfl
    rw [same]
    decide +kernel
  rw [set] at orders
  obtain ⟨o, ho⟩ : ∃ o, t.gen.routeSending = some o := by
    cases hs : t.gen.routeSending with
    | some o => exact ⟨o, rfl⟩
    | none =>
      unfold routeOrders at orders
      rw [hs, idle hs] at orders
      cases orders
  unfold routeOrders at orders
  rw [ho] at orders
  obtain ⟨first, rest⟩ := List.cons.inj orders
  have listed : t.gen.routeList = resetOrders := rest
  have sequence : t.ret.dirSeq = 0 := by rw [ret]; rfl
  have empty : dirContent State.reset = emptyDirectory := by decide +kernel
  rw [content, sequence, empty] at send
  rw [domain, store]
  unfold General.quiet
  rw [ho, listed, send, cleared_chans, cleared_booths, first]
  rfl

/-- What a full reset leaves, whatever stood before. -/
theorem fullReset_after {u : State} (powered : u.supply = .main) (released : u.lineAsserted = false)
    (store : u.ret = Retained.cleared) (clock : u.clock = 0) (mark : u.mark = .valid) (pending : u.pending = s.pending)
    (breaks : u.breaks = s.breaks) (draws : u.draws = s.draws) : AfterFullReset u.heldStart s (generalReset .power true u) := by
  refine ⟨fun p => ?_, ?_⟩
  · rw [generalReset_port]
    unfold portAtCompletion
    rw [clock, breaks]
    cases s.breaks.get p <;> rfl
  · have gen := generalReset_full store
    have keeps := generalReset_keeps .power true u
    generalize generalReset .power true u = t at gen keeps ⊢
    rw [gen] at keeps
    rw [keeps, store, clock, mark, powered, released, pending, breaks, draws]
    rfl

/-! ## The supplies and the reset line -/

theorem execPowerOn_invalid (off : s.supply ≠ .main) (mark : s.mark = .invalid) : exec .powerOn s =
    if s.lineAsserted then .next { fullClear { s with supply := .main } with
      heldStart := some true, gen := General.quiet Retained.cleared }
    else .next (generalReset .power true (fullClear { s with supply := .main })) := by
  show execPowerOn s = _
  unfold execPowerOn
  rw [if_neg off, mark]
  rfl

theorem execPowerOn_valid (off : s.supply ≠ .main) (mark : s.mark = .valid) : exec .powerOn s =
    if s.lineAsserted then .next { s with supply := .main, heldStart := some false, gen := General.quiet s.ret }
    else .next (generalReset .power false { s with supply := .main }) := by
  show execPowerOn s = _
  unfold execPowerOn
  rw [if_neg off, mark]
  rfl

theorem execResetLineRelease_main (powered : s.supply = .main) (held : s.lineAsserted = true) : exec .resetLineRelease s =
    .next (match s.heldStart with
      | some cleared => generalReset .power cleared { s with lineAsserted := false, heldStart := none }
      | none => generalReset .line false { s with lineAsserted := false, heldStart := none }) := by
  show execResetLineRelease s = _
  unfold execResetLineRelease
  rw [if_pos held]
  dsimp only
  rw [if_pos powered]
  cases s.heldStart <;> rfl

theorem execResetLineAssert_settled (released : s.lineAsserted = false) (settled : s.gen.due = []) :
    exec .resetLineAssert s = .next { s with lineAsserted := true, gen := s.gen.stopped } := by
  show execResetLineAssert s = _
  unfold execResetLineAssert
  rw [if_neg (by rw [released]; exact nofun), takeDue_settled settled, ite_self]

theorem execMainSupplyFail_settled (powered : s.supply = .main) (settled : s.gen.due = []) :
    exec .mainSupplyFail s = .next { s with supply := .backup, heldStart := none, gen := General.quiet s.ret } := by
  show execMainSupplyFail s = _
  unfold execMainSupplyFail
  rw [if_pos powered, takeDue_settled settled, ite_self]

/-- Settles O4. -/
theorem suppliesFailAndReturn : Obligations.SuppliesFailAndReturn := by
  refine ⟨fun s => ⟨_, rfl, rfl, rfl, rfl, silent_of_quiet rfl rfl, rfl, rfl⟩, fun s off mark released => ?_,
    fun s off mark held => ?_, fun s powered settled => ?_, fun s released settled => ?_⟩
  · refine ⟨_, (execPowerOn_invalid off mark).trans (if_neg (by rw [released]; exact nofun)), ?_⟩
    exact fullReset_after (u := fullClear { s with supply := .main }) rfl released rfl rfl rfl rfl rfl rfl
  · have stopped : ({ fullClear { s with supply := .main } with
        heldStart := some true, gen := General.quiet Retained.cleared } : State).running = false :=
      stopped_of_line held
    refine ⟨_, (execPowerOn_invalid off mark).trans (if_pos held), stopped, silent_of_quiet rfl stopped, rfl, rfl, rfl,
      _, execResetLineRelease_main rfl held, ?_⟩
    exact fullReset_after (u := { fullClear { s with supply := .main } with
      lineAsserted := false, heldStart := none, gen := General.quiet Retained.cleared }) rfl rfl rfl rfl rfl rfl rfl rfl
  · exact ⟨_, execMainSupplyFail_settled powered settled, rfl, rfl, silent_of_quiet rfl rfl, rfl, rfl, rfl⟩
  · have stopped : ({ s with lineAsserted := true, gen := s.gen.stopped } : State).running = false := stopped_of_line rfl
    have silent := silent_of_stopped s (u := { s with lineAsserted := true, gen := s.gen.stopped }) rfl stopped
    exact ⟨_, execResetLineAssert_settled released settled, rfl, rfl, stopped, silent, rfl, rfl, rfl, silent.attention,
      fun _ => rfl⟩

/-- Settles O5. -/
theorem generalResetValues : Obligations.GeneralResetValues := by
  have running : ∀ {kind} {u : State}, u.supply = .main → u.lineAsserted = false → (generalReset kind false u).running = true :=
    fun powered released => (generalReset_running ..).trans (running_iff.mpr ⟨powered, released⟩)
  refine ⟨fun s off mark released => ?_, fun s powered held none => ?_, fun s powered held waits => ?_, fun s off mark held => ?_,
    fun s tag ready => ?_⟩
  · refine ⟨_, (execPowerOn_valid off mark).trans (if_neg (by rw [released]; exact nofun)), running rfl released, ?_⟩
    exact (generalReset_after .power { s with supply := .main }).of_same rfl rfl rfl rfl
  · have release := execResetLineRelease_main powered held
    rw [none] at release
    exact ⟨_, release, running powered rfl,
      (generalReset_after .line { s with lineAsserted := false, heldStart := .none }).of_same rfl rfl rfl rfl⟩
  · have release := execResetLineRelease_main powered held
    rw [waits] at release
    exact ⟨_, release, running powered rfl,
      (generalReset_after .power { s with lineAsserted := false, heldStart := .none }).of_same rfl rfl rfl rfl⟩
  · exact ⟨_, (execPowerOn_valid off mark).trans (if_pos held), rfl, held, rfl, rfl, rfl, rfl, rfl⟩
  · obtain ⟨powered, released⟩ := running_iff.mp ready.running
    exact ⟨_, request_ready ready tag .deviceReset _ fun _ => rfl, running powered released, generalReset_after .command s⟩

end Sys2Proof.Machine
end

section
/-! PROOF. Breaks (O6), the second event (O7) and the clock (O8). -/

namespace Sys2Proof.Machine
open Sys2Proof

/-! ## Breaks -/

/-- Settles O6. -/
theorem breakResetsOnePort : Obligations.BreakResetsOnePort := by
  refine ⟨fun s p awake whole => ?_, fun s p awake broken => ⟨if_pos broken, ?_⟩⟩
  · have settled : takeDue s = s := takeDue_settled awake.settled
    have taken : exec (.portBreak p) s = .next (portReset p { s with breaks := s.breaks.set p true }) := by
      show execPortBreak p s = _
      unfold execPortBreak
      rw [settled, if_neg (by rw [whole]; exact nofun), if_pos awake.running]
    refine ⟨_, taken, PerPort.get_set_same .., PerPort.get_set_same .., fun q hq => ⟨?_, PerPort.get_set_ne _ _ hq.symm⟩, rfl, ?_,
      rfl⟩
    · exact PerPort.get_set_ne _ _ hq.symm
    · show s.gen.flight.filter (fun f => f.port != p) = _
      cases s.gen.flight with
      | none => rfl
      | some f =>
        rw [Option.filter_some, Option.map_some]
        by_cases e : f.port = p
        · rw [if_neg (by simp [e]), if_pos (by rw [e])]
        · rw [if_pos (by simp [e]), if_neg fun same => e (Option.some.inj same)]
  · have settled : takeDue s = s := takeDue_settled awake.settled
    have taken : exec (.breakEnd p) s = .next { s.setPort p { s.port p with framing := .between } with
        breaks := s.breaks.set p false } := by
      show execBreakEnd p s = _
      unfold execBreakEnd
      rw [if_pos broken, settled, ite_self]
      rfl
    exact ⟨_, taken, PerPort.get_set_same .., PerPort.get_set_same .., fun q hq => ⟨PerPort.get_set_ne _ _ hq.symm,
      PerPort.get_set_ne _ _ hq.symm⟩, rfl⟩

/-! ## The second event -/

section
variable {s : State}

theorem isLive_iff {x : SeatState} : isLive x = true ↔ x = .live ∨ x = .cough := by
  unfold isLive
  rw [Bool.or_eq_true, beq_iff_eq, beq_iff_eq]

/-- What a second event makes of a slot's counters (R29). -/
theorem countBlocks_slot_eq (s : State) (k : Slot) : (countBlocks s).slot k = { s.slot k with
    u := if s.gen.override = false ∧ (s.slot k).channel.map (fun c => (s.chan c).coverage) = some .uncovered
      then min 4294967295 ((s.slot k).u + 1) else (s.slot k).u
    v := if s.gen.override = false ∧ (s.slot k).channel.map (fun c => (s.chan c).coverage) = some .covered
      then min 4294967295 ((s.slot k).v + 1) else (s.slot k).v } := by
  rw [countBlocks_slot]
  unfold countSlots
  cases ho : s.gen.override with
  | true => simp
  | false =>
    show (s.ret.slots.map (countSlot s)).get k = _
    rw [Bank.get_map]
    show countSlot s (s.slot k) = _
    obtain ⟨name, channel, u, v, uMark, vMark⟩ := s.slot k
    unfold countSlot
    cases channel with
    | none => simp
    | some c => cases hv : (s.chan c).coverage <;> simp [hv, holdAdd, Config.countMax]

theorem countBlocks_acc (s : State) (b : Booth) (i : Seat) : (countBlocks s).acc b i = { s.acc b i with
    onAir := if s.seat b i = .live ∨ s.seat b i = .cough then min 4294967295 ((s.acc b i).onAir + 1)
      else (s.acc b i).onAir } := by
  unfold State.acc
  rw [countBlocks_keeps, Bank.get_build]
  unfold countOnAir
  rw [Bank.get_build]
  dsimp only
  by_cases h : s.seat b i = .live ∨ s.seat b i = .cough
  · rw [if_pos (isLive_iff.mpr h), if_pos h]; rfl
  · rw [if_neg (mt isLive_iff.mp h), if_neg h]; rfl

theorem countBlocks_offer (s : State) (c : Chan) : (countBlocks s).offer c = (s.offer c).map (fun o =>
    { o with remaining := o.remaining - 1 }) := by
  unfold State.offer
  rw [countBlocks_keeps, Bank.get_map]
  rfl

theorem countWait_eq (k : PortState) : countWait k = { k with
    inProgress := k.inProgress.map (fun r => { r with wait := r.wait.map (fun w => { w with remaining := w.remaining - 1 }) }) } := by
  unfold countWait
  obtain ⟨inProgress, _⟩ := k
  rcases inProgress with _ | ⟨code, tag, _ | w⟩ <;> rfl

/-! ## What has run out -/

theorem gapHold_due {c : Chan} : Due.gapHold c ∈ dueNow s ↔ (s.chan c).coverage = .holding ∧ (s.chan c).remaining = 0 := by
  simp [dueNow]

theorem offer_due {c : Chan} : Due.offer c ∈ dueNow s ↔ ∃ o, s.offer c = some o ∧ o.remaining = 0 := by
  cases h : s.offer c <;> simp [dueNow, h]

theorem directory_due : Due.directory ∈ dueNow s ↔ 2 ≤ s.gen.dirCount := by
  have listed : Due.directory ∈ dueNow s ↔ Due.directory ∈ if Config.directoryRepeat ≤ s.gen.dirCount then [Due.directory] else [] := by
    simp [dueNow]
  rw [listed]
  by_cases due : Config.directoryRepeat ≤ s.gen.dirCount
  · exact iff_of_true (by rw [if_pos due]; exact List.mem_singleton_self _) due
  · exact iff_of_false (by rw [if_neg due]; exact List.not_mem_nil) due

theorem alarmReady_iff {now : Nat} {h : Hire} : alarmReady now h = true ↔
    h.overdue = false ∧ (∃ d, h.due = some d ∧ d ≤ now) ∧ ∃ l ∈ h.lines, l.state = .out := by
  unfold alarmReady outLines
  rw [Bool.and_eq_true, Bool.and_eq_true, decide_eq_true_iff, List.countP_pos_iff]
  cases h.due <;> simp [and_assoc]

theorem alarm_due : Due.alarm ∈ dueNow s ↔ ∃ e ∈ s.ret.hires, e.2.overdue = false ∧ (∃ d, e.2.due = some d ∧ d ≤ s.clock) ∧
    ∃ l ∈ e.2.lines, l.state = .out := by
  have listed : Due.alarm ∈ dueNow s ↔ ∃ e ∈ s.ret.hires, alarmReady s.clock e.2 = true := by simp [dueNow]
  simp only [listed, alarmReady_iff]

theorem wait_due {p : Port} : Due.wait p ∈ dueNow s ↔
    ∃ r w, (s.port p).inProgress = some r ∧ r.wait = some w ∧ w.remaining = 0 := by
  have listed : Due.wait p ∈ dueNow s ↔ waitOver s p = true := by cases p <;> simp [dueNow]
  rw [listed]
  unfold waitOver
  rcases (s.port p).inProgress with _ | ⟨code, tag, _ | w⟩ <;> simp

theorem exec_secondEvent (awake : Awake s) (low : s.clock < 4294967295) : exec .secondEvent s = .next (secondEvent s) := by
  show (Host.Outcome.next (tick s) : Out) = _
  rw [tick_running awake.running low, takeDue_settled awake.settled]

/-- Settles O7. -/
theorem secondEventCounts : Obligations.SecondEventCounts := by
  intro s awake low
  have keeps := countBlocks_keeps { s with clock := s.clock + 1 }
  refine ⟨_, exec_secondEvent awake low, ?_, fun k => ?_, fun b i => ?_, fun c => ?_, ?_, fun c => ?_, ?_, fun p => ?_,
    fun c => ?_, fun c => ?_, ?_, ?_, fun p => ?_, ?_⟩
  · show (countBlocks { s with clock := s.clock + 1 }).clock = _
    rw [keeps]
  · exact countBlocks_slot_eq { s with clock := s.clock + 1 } k
  · exact countBlocks_acc { s with clock := s.clock + 1 } b i
  · refine (countBlocks_chan { s with clock := s.clock + 1 } c).trans ?_
    rw [← countHold_remaining]
    rfl
  · show (countBlocks { s with clock := s.clock + 1 }).draws = _
    rw [keeps]
  · exact countBlocks_offer { s with clock := s.clock + 1 } c
  · show (countBlocks { s with clock := s.clock + 1 }).gen.dirCount = _
    rw [keeps]
  · exact (countBlocks_port { s with clock := s.clock + 1 } p).trans (countWait_eq _)
  · exact gapHold_due
  · exact offer_due
  · exact directory_due
  · refine alarm_due.trans ?_
    have hires : (countBlocks { s with clock := s.clock + 1 }).ret.hires = s.ret.hires := by rw [keeps]
    rw [hires]
    rfl
  · exact wait_due
  · unfold secondEvent
    rw [keeps]

/-! ## The clock -/

/-- Settles O8. -/
theorem clockRunsAndIsSet : Obligations.ClockRunsAndIsSet := by
  refine ⟨fun s top => ?_, fun s powered asleep low => ?_, fun s tag value ready => ⟨fun inUse => ?_, fun none closed => ?_⟩⟩
  · show (Host.Outcome.next (tick s) : Out) = _
    unfold tick
    rw [if_pos (.inr (by rw [top]; exact Nat.le_refl _))]
  · have later : ({ s with clock := s.clock + 1 } : State).running = false := asleep
    have runs : ¬ (s.supply = .none ∨ Config.countMax ≤ s.clock) := not_or.mpr ⟨powered, Nat.not_le.mpr low⟩
    show (Host.Outcome.next (tick s) : Out) = _
    unfold tick
    rw [if_neg runs]
    simp only [asleep, later, Bool.false_eq_true, if_false]
  · refine (ready.request_respond tag .clockSet (setClock value)).trans ?_
    unfold setClock
    rw [if_pos inUse]
  · refine (ready.request_respond tag .clockSet (setClock value)).trans ?_
    unfold setClock
    rw [if_neg (not_or.mpr ⟨not_not.mpr none, closed⟩)]
    rfl

end

end Sys2Proof.Machine
end

section
/-! PROOF. LANG_DEFINE and LANG_REMOVE (O9), and the checks of CHAN_ASSIGN (O10). -/

namespace Sys2Proof.Machine
open Sys2Proof

variable {s t : State}

/-! ## Requests of the plan unit -/

/-- A request whose result ends with the directory's update. -/
theorem Ready.request_planned (h : Ready .console s) (tag : Byte) (code : ReqCode) (f : State → Result) :
    request .console tag code (respond .console tag (planned f)) s =
      .next (responds .console tag (f s).1 (f s).2.1 (dirAfter s (f s).2.2)) :=
  h.request_respond tag code (planned f)

theorem Ready.planned_refused (h : Ready .console s) (tag : Byte) (code : ReqCode) {f : State → Result} {a : Answer}
    (hf : f s = (a, [], s)) :
    request .console tag code (respond .console tag (planned f)) s = .next (responds .console tag a [] s) := by
  rw [h.request_planned, hf, dirAfter_self]

theorem Ready.respond_to (h : Ready .console s) (tag : Byte) (code : ReqCode) {f : State → Result} {a : Answer} {d : List Byte}
    (hf : f s = (a, d, t)) :
    request .console tag code (respond .console tag f) s = .next (responds .console tag a d t) := by
  rw [h.request_respond, hf]

/-! ## LANG_DEFINE and LANG_REMOVE -/

theorem slotOf_eq_some {b : Byte} {k : Slot} : slotOf b = some k ↔ b.toNat = k.val := fromZero_eq_some.trans eq_comm
theorem slotOf_eq_none {b : Byte} : slotOf b = none ↔ 32 ≤ b.toNat := fromZero_eq_none

/-- A slot that is defined or renamed. -/
def named (k : Slot) (n : LangName) (s : State) : State := s.setSlot k { s.slot k with name := some n }

theorem defineLanguage_badArg {slot : Byte} {langTag : Half} {label : List Byte}
    (h : slotOf slot = none ∨ langTag = 0 ∨ labelAllowed label = false) :
    defineLanguage slot langTag label s = (.badArg, s) := by
  unfold defineLanguage
  cases hk : slotOf slot with
  | none => rfl
  | some k => exact if_pos (h.resolve_left (by rw [hk]; exact nofun))

/-- A label of an accepted length and alphabet, for a slot and a tag. -/
theorem defineLanguage_eq {slot : Byte} {langTag : Half} {label : List Byte} {k : Slot} (hk : slotOf slot = some k)
    (tag : langTag ≠ 0) (allowed : labelAllowed label = true) : defineLanguage slot langTag label s =
      if tagHeld s k langTag.toNat = true ∨ ((s.slot k).channel.isSome = true ∧ (s.slot k).name.map LangName.tag ≠ some langTag.toNat)
      then (.inUse, s) else (.done, named k ⟨langTag.toNat, label⟩ s) := by
  unfold defineLanguage
  rw [hk]
  dsimp only
  rw [if_neg (by rw [allowed]; exact not_or.mpr ⟨tag, nofun⟩)]
  by_cases held : tagHeld s k langTag.toNat = true
  · rw [if_pos held, if_pos (.inl held)]
  · rw [if_neg held]
    by_cases other : (s.slot k).channel.isSome = true ∧ (s.slot k).name.map LangName.tag ≠ some langTag.toNat
    · rw [if_pos other, if_pos (.inr other)]
    · rw [if_neg other, if_neg (not_or.mpr ⟨held, other⟩)]
      rfl

theorem dirAfter_slot (b : State) (k : Slot) : (dirAfter b s).slot k = s.slot k := by
  unfold State.slot
  rw [dirAfter_directory b s]

/-- The directory shows no slot that no channel carries. -/
theorem dirContent_renamed {k : Slot} {x : LangSlot} (unseen : ∀ c, (s.settings c).slot ≠ some k) :
    dirContent (s.setSlot k x) = dirContent s := by
  unfold dirContent
  refine congrArg (fun b => DirContent.mk b _) (Bank.ext_get fun c => ?_)
  rw [Bank.get_build, Bank.get_build]
  unfold dirEntry
  show (match (s.settings c).slot with
    | none => _
    | some j => _) = _
  cases hc : (s.settings c).slot with
  | none => rfl
  | some j =>
    dsimp only
    rw [State.setSlot_slot, if_neg fun e => unseen c (hc.trans (congrArg some e.symm))]
    rfl

/-- Settles O9. -/
theorem languagesDefinedAndRemoved : Obligations.LanguagesDefinedAndRemoved := by
  refine ⟨fun s tag slot langTag label ready => ⟨fun fails => ?_, fun k hk tagged long short printable => ?_⟩,
    fun s tag slot ready plan => ⟨fun range => ?_, fun k hk => ⟨fun free => ?_, fun defined carried => ?_, fun defined free => ?_⟩⟩⟩
  · refine ready.planned_refused tag .langDefine (congrArg (fun x => (x.1, [], x.2)) (defineLanguage_badArg ?_))
    rcases fails with range | zero | short | long | ⟨b, hb, out⟩
    · exact .inl (slotOf_eq_none.mpr range)
    · exact .inr (.inl zero)
    all_goals
      refine .inr (.inr (Bool.eq_false_iff.mpr fun allowed => ?_))
      obtain ⟨least, most, all⟩ := labelAllowed_iff.mp allowed
    · omega
    · omega
    · have := all b hb
      omega
  · have result := defineLanguage_eq (s := s) (slotOf_eq_some.mpr hk) tagged (labelAllowed_iff.mpr ⟨long, short, printable⟩)
    refine ⟨fun clash => ?_, fun apart same => ?_⟩
    · rw [if_pos] at result
      · exact ready.planned_refused tag .langDefine (congrArg (fun x => (x.1, [], x.2)) result)
      · exact clash.imp tagHeld_iff.mpr fun ⟨carried, other⟩ => ⟨Option.isSome_iff_ne_none.mpr carried, other⟩
    · rw [if_neg] at result
      · refine ⟨dirAfter s (named k ⟨langTag.toNat, label⟩ s), ?_, ?_, fun j hj => ?_, ?_⟩
        · refine (ready.request_planned tag .langDefine _).trans ?_
          rw [bare, result]
        · rw [dirAfter_slot]
          exact (State.setSlot_slot ..).trans (if_pos rfl)
        · rw [dirAfter_slot]
          exact (State.setSlot_slot ..).trans (if_neg hj.symm)
        · have directory := dirAfter_directory s (named k ⟨langTag.toNat, label⟩ s)
          generalize dirAfter s (named k ⟨langTag.toNat, label⟩ s) = t at directory
          rw [directory]
          rfl
      · rintro (held | ⟨carried, other⟩)
        · obtain ⟨j, m, hj, hm, e⟩ := tagHeld_iff.mp held
          exact apart j m hj hm e
        · exact other (same (Option.isSome_iff_ne_none.mp carried))
  · have result : removeLanguage slot s = (.badArg, s) := by
      unfold removeLanguage
      rw [slotOf_eq_none.mpr range]
    exact ready.planned_refused tag .langRemove (congrArg (fun x => (x.1, [], x.2)) result)
  · have result : removeLanguage slot s = (.notFound, s) := by
      unfold removeLanguage
      rw [slotOf_eq_some.mpr hk]
      exact if_pos (Option.isNone_iff_eq_none.mpr free)
    exact ready.planned_refused tag .langRemove (congrArg (fun x => (x.1, [], x.2)) result)
  · have result : removeLanguage slot s = (.inUse, s) := by
      unfold removeLanguage
      rw [slotOf_eq_some.mpr hk]
      exact (if_neg (mt Option.isNone_iff_eq_none.mp defined)).trans (if_pos (Option.isSome_iff_ne_none.mpr carried))
    exact ready.planned_refused tag .langRemove (congrArg (fun x => (x.1, [], x.2)) result)
  · have result : removeLanguage slot s = (.done, s.setSlot k { s.slot k with name := none }) := by
      unfold removeLanguage
      rw [slotOf_eq_some.mpr hk]
      exact (if_neg (mt Option.isNone_iff_eq_none.mp defined)).trans (if_neg (by rw [free]; exact nofun))
    refine (ready.request_planned tag .langRemove _).trans ?_
    rw [bare, result]
    have unseen : ∀ c, (s.settings c).slot ≠ some k := fun c hc => nomatch free.symm.trans ((plan.named k c).mpr hc)
    unfold dirAfter
    rw [if_pos (dirContent_renamed unseen)]

/-! ## The parameters and the checks of CHAN_ASSIGN -/

theorem chanOf_eq_some {b : Byte} {c : Chan} : chanOf b = some c ↔ c.val + 1 = b.toNat := fromOne_eq_some
theorem chanOf_eq_none {b : Byte} : chanOf b = none ↔ b.toNat < 1 ∨ 24 < b.toNat := fromOne_eq_none

theorem slotOrNone_eq_some {b : Byte} {x : Option Slot} : slotOrNone b = some x ↔
    (match x with | none => b = 0xFF | some k => b.toNat = k.val) := by
  unfold slotOrNone
  by_cases all : b = 0xFF
  · rw [if_pos all]
    cases x with
    | none => exact iff_of_true rfl all
    | some k => exact iff_of_false nofun fun e => by have := k.isLt; rw [all] at e; simp at e; omega
  · rw [if_neg all]
    cases x with
    | none => exact iff_of_false (by simp) all
    | some k => simp [slotOf_eq_some]

theorem slotOrNone_eq_none {b : Byte} : slotOrNone b = none ↔ b ≠ 0xFF ∧ 32 ≤ b.toNat := by
  unfold slotOrNone
  by_cases all : b = 0xFF
  · rw [if_pos all]
    exact iff_of_false nofun fun e => e.1 all
  · rw [if_neg all, Option.map_eq_none_iff, slotOf_eq_none]
    exact (and_iff_right all).symm

theorem policyOf_eq_some {b : Byte} {x : ClaimPolicy} : policyOf b = some x ↔
    b.toNat = (match x with | .first => 0 | .last => 1 | .offer => 2) := by
  unfold policyOf
  split <;> cases x <;> simp_all

theorem byte_cases (b : Byte) : b = 0#8 ∨ b = 1#8 ∨ b = 2#8 ∨ 2 < b.toNat := by bv_omega

theorem policyOf_far {b : Byte} (far : 2 < b.toNat) : policyOf b = none := by
  unfold policyOf
  split
  case h_4 => rfl
  all_goals omega

theorem policyOf_eq_none {b : Byte} : policyOf b = none ↔ 2 < b.toNat := by
  rcases byte_cases b with rfl | rfl | rfl | far
  · simp [policyOf]
  · simp [policyOf]
  · simp [policyOf]
  · exact iff_of_true (policyOf_far far) far

theorem fallbackOf_far {x : SourceBytes} (far : 2 < x.kind.toNat) : fallbackOf x = none := by
  unfold fallbackOf
  split
  case h_4 => rfl
  all_goals omega

theorem fallbackOf_eq_none {x : SourceBytes} : fallbackOf x = none ↔
    2 < x.kind.toNat ∨ (x.kind ≠ 2 ∧ x.number ≠ 0) ∨ (x.kind = 2 ∧ (x.number.toNat < 1 ∨ 24 < x.number.toNat)) := by
  obtain ⟨kind, number⟩ := x
  rcases byte_cases kind with rfl | rfl | rfl | far
  · simp [fallbackOf]
  · simp [fallbackOf]
  · simp [fallbackOf, chanOf_eq_none]
  · exact iff_of_true (fallbackOf_far far) (.inl far)

theorem fallbackOf_eq_some {x : SourceBytes} {f : Fallback} : fallbackOf x = some f ↔
    (match f with
      | .floor => x = ⟨0, 0⟩
      | .silent => x = ⟨1, 0⟩
      | .channel c => x.kind = 2 ∧ x.number.toNat = c.val + 1) := by
  obtain ⟨kind, number⟩ := x
  rcases byte_cases kind with rfl | rfl | rfl | far
  · cases f <;> simp [fallbackOf]
  · cases f <;> simp [fallbackOf]
  · cases f <;> simp [fallbackOf, chanOf_eq_some, @eq_comm _ (BitVec.toNat number)]
  · refine iff_of_false (by rw [fallbackOf_far far]; exact nofun) ?_
    cases f with
    | floor => rintro ⟨⟩; exact absurd far (by decide)
    | silent => rintro ⟨⟩; exact absurd far (by decide)
    | channel c => rintro ⟨rfl, _⟩; exact absurd far (by decide)

theorem assignOf_eq_none {target : Byte} {args : AssignArgs} : assignOf target args = none ↔
    (target.toNat < 1 ∨ 24 < target.toNat ∨ (args.slot ≠ 0xFF ∧ 32 ≤ args.slot.toNat) ∨ 2 < args.policy.toNat ∨
      2 < args.fallback.kind.toNat ∨ (args.fallback.kind ≠ 2 ∧ args.fallback.number ≠ 0) ∨
      (args.fallback.kind = 2 ∧ (args.fallback.number.toNat < 1 ∨ 24 < args.fallback.number.toNat))) := by
  rw [← or_assoc, ← chanOf_eq_none, ← slotOrNone_eq_none, ← policyOf_eq_none, ← fallbackOf_eq_none]
  unfold assignOf
  cases chanOf target <;> cases slotOrNone args.slot <;> cases policyOf args.policy <;> cases fallbackOf args.fallback <;> simp

theorem assignOf_reads {target : Byte} {args : AssignArgs} {a : Assign} (h : assignOf target args = some a) :
    AssignReads target args a := by
  unfold assignOf at h
  split at h
  · next c k policy fallback hc hk hp hf =>
    cases h
    exact ⟨chanOf_eq_some.mp hc, slotOrNone_eq_some.mp hk, policyOf_eq_some.mp hp, fallbackOf_eq_some.mp hf, rfl, rfl⟩
  · cases h

/-- Settles O10: the first check that fails gives the outcome (`assignFailure_of_first`). -/
theorem assignRefused : Obligations.AssignRefused := by
  refine fun s tag target args ready => ⟨assignOf_eq_none.symm, fun none => ?_, fun a ha => ⟨assignOf_reads ha, fun n fails first => ?_⟩⟩
  · refine ready.planned_refused tag .chanAssign ?_
    unfold assignChannel
    rw [none]
  · refine ready.planned_refused tag .chanAssign ?_
    unfold assignChannel
    rw [ha]
    dsimp only
    rw [assignFailure_of_first fails first]

end Sys2Proof.Machine
end

section
/-! SUPPORT. What the operations of the hall say: the notices of each, in their order; and what the booths that listen to a channel
make of its new coverage. -/

namespace Sys2Proof.Machine
open Sys2Proof

section
variable {s t u : State} {l l' : List NoticeBody}

/-- The notices sent between two states, in their order and at one time. -/
structure Says (l : List NoticeBody) (s t : State) : Prop where
  port : Notified l s t
  clock : t.clock = s.clock

theorem Says.trans (h : Says l s t) (k : Says l' t u) : Says (l ++ l') s u where
  port p := by rw [k.port, h.port, h.clock, List.foldl_append]
  clock := k.clock.trans h.clock

theorem Says.of_ports (ports : t.gen.ports = s.gen.ports) (clock : t.clock = s.clock) : Says [] s t where
  port p := by unfold State.port; rw [ports]; rfl
  clock := clock

theorem Says.refl (s : State) : Says [] s s := .of_ports rfl rfl

theorem notify_says (n : NoticeBody) (s : State) : Says [n] s (notify n s) where
  port p := notify_port n s p
  clock := (notify_ports n s).clock

/-- No port hears of it, and nothing but the live hall and the route line changes. -/
def Hush (s t : State) : Prop := t = { s with
  ret.seatAcc := t.ret.seatAcc, gen.chans := t.gen.chans, gen.booths := t.gen.booths, gen.offers := t.gen.offers
  gen.routeSending := t.gen.routeSending, gen.routeList := t.gen.routeList }

theorem Hush.trans (h : Hush s t) (k : Hush t u) : Hush s u := by
  unfold Hush at *
  rw [k, h]

theorem Hush.of_routes (h : SameRoutes s t) : Hush s t := by
  rw [h]
  rfl

theorem Hush.says (h : Hush s t) : Says [] s t := .of_ports (by rw [h]) (by rw [h])

theorem placeOrder_hush (o : RouteOrder) (s : State) : Hush s (placeOrder o s) := .of_routes (placeOrder_routes o s)
theorem routeAfter_hush (before : State) (c : Chan) (s : State) : Hush s (routeAfter before c s) :=
  .of_routes (routeAfter_routes before c s)

theorem syncMute_hush (b : Booth) (s : State) : Hush s (syncMute b s) := by
  unfold syncMute
  dsimp only
  split
  · rfl
  · exact Hush.trans (t := s.setBooth b { s.booth b with muted := _ }) rfl (placeOrder_hush ..)

theorem putSeat_hush (b : Booth) (k : Seat) (x : SeatState) (s : State) : Hush s (putSeat b k x s) :=
  Hush.trans (t := s.setSeat b k x) rfl (syncMute_hush ..)

theorem indicate_hush (b : Booth) (i : Option Indication) (s : State) : Hush s (indicate b i s) := rfl
theorem select_hush (b : Booth) (y : Side) (s : State) : Hush s (select b y s) := rfl
theorem setOffer_hush (c : Chan) (x : Option Offer) (s : State) : Hush s (s.setOffer c x) := rfl

theorem goLive_hush (b : Booth) (k : Seat) (s : State) : Hush s (goLive b k s) :=
  Hush.trans (t := s.setAcc b k { s.acc b k with turns := holdAdd Config.smallMax (s.acc b k).turns 1 }) rfl (putSeat_hush ..)

theorem holderChange_hush (c : Chan) (h : Holder) (s : State) : Hush s (holderChange c h s) :=
  Hush.trans (t := s.setChan c { s.chan c with holder := some h, source := .booth h.booth }) rfl (routeAfter_hush ..)

theorem withdrawOffer_hush (c : Chan) (s : State) : Hush s (withdrawOffer c s) := by
  unfold withdrawOffer
  split
  · exact (setOffer_hush c none s).trans (putSeat_hush ..)
  · rfl

theorem withdrawAll_hush (b : Booth) (s : State) : Hush s (withdrawAll b s) := by
  unfold withdrawAll
  generalize waitingChans s b = cs
  induction cs generalizing s with
  | nil => rfl
  | cons c cs ih => exact (withdrawOffer_hush c s).trans (ih _)

theorem setListen_hush (b : Booth) (x y : Listen) (hold : Bool) (s : State) : Hush s (setListen b x y hold s) := by
  unfold setListen
  dsimp only
  split
  · rfl
  · exact Hush.trans (t := s.setBooth b { s.booth b with chosen := x, effective := y, autoHold := hold }) rfl (placeOrder_hush ..)

theorem chooseListen_hush (b : Booth) (x : Listen) (s : State) : Hush s (chooseListen b x s) := by
  unfold chooseListen
  split <;> exact setListen_hush ..

/-! ## What the notices name -/

/-- The settings, the slots and the clock stand, so every notice names the same. -/
theorem chanTag_of_ret (hp : t.settings = s.settings) (hs : t.ret.slots = s.ret.slots) (c : Chan) : chanTag t c = chanTag s c := by
  unfold chanTag State.slot
  rw [hp, hs]

theorem Moves.chanTag (h : Moves s t) (c : Chan) : chanTag t c = chanTag s c := by
  refine chanTag_of_ret ?_ ?_ c
  · funext d
    exact h.settings d
  · rw [h.keeps]

/-! ## The booths that listen to a channel (R75, R82) -/

section
variable {c : Chan} {b d : Booth} {bs : List Booth}

/-- The auto-floor hold of booth `b` begins with the new coverage of `c`. -/
def falls (s : State) (c : Chan) (b : Booth) : Bool :=
  (s.boothSettings b).any BoothSettings.autoFloor && (s.booth b).chosen == .channel c && (s.chan c).coverage == .uncovered &&
    !(s.booth b).autoHold

def fallNotices (s : State) (c : Chan) (bs : List Booth) : List NoticeBody :=
  (bs.filter (falls s c)).map (fun b => .relayFallback b c (chanTag s c) (s.settings c).fallback)

/-- What booth `b` listens to once it has been handed the coverage of `c`. -/
def followed (s : State) (c : Chan) (b : Booth) : BoothLive :=
  match s.boothSettings b with
  | none => s.booth b
  | some m =>
    if (s.booth b).chosen = .channel c then
      { s.booth b with effective := (derivedListen m (.channel c) s).1, autoHold := (derivedListen m (.channel c) s).2 }
    else s.booth b

theorem followOne_booth (c : Chan) (s : State) (b d : Booth) :
    (followOne c s b).booth d = if d = b then followed s c b else s.booth d := by
  have told : ∀ (x : Bool) (n : NoticeBody) (v : State), (if x = true then notify n v else v).booth d = v.booth d := fun x n v => by
    split
    · exact notify_booth ..
    · rfl
  unfold followOne followed
  cases hm : s.boothSettings b with
  | none =>
    rw [if_neg (by exact nofun)]
    split
    · next e => rw [e]
    · rfl
  | some m =>
    by_cases chosen : (s.booth b).chosen = .channel c
    · rw [if_pos (by simp [chosen])]
      dsimp only
      rw [told, if_pos chosen]
      unfold chooseListen
      rw [hm]
      dsimp only
      rw [setListen_booth, ← chosen]
      by_cases e : d = b
      · rw [if_pos e, if_pos e.symm]
      · rw [if_neg e, if_neg (Ne.symm e)]
    · rw [if_neg (by simp [chosen])]
      dsimp only
      rw [if_neg chosen]
      split
      · next e => rw [e]
      · rfl

theorem chooseListen_channel {m : BoothSettings} (hm : s.boothSettings b = some m) :
    (chooseListen b (.channel c) s).booth b = { s.booth b with
      chosen := .channel c, effective := (derivedListen m (.channel c) s).1, autoHold := (derivedListen m (.channel c) s).2 } := by
  unfold chooseListen
  rw [hm]
  exact (setListen_booth ..).trans (if_pos rfl)

theorem derivedListen_hold (m : BoothSettings) (c : Chan) (s : State) :
    (derivedListen m (.channel c) s).2 = (m.autoFloor && (s.chan c).coverage == .uncovered) := by
  unfold derivedListen
  dsimp only
  cases (m.autoFloor && (s.chan c).coverage == .uncovered) <;> rfl

/-- One booth is handed the coverage: it listens elsewhere, it follows in silence, or its hold begins. -/
theorem followOne_cases (c : Chan) (s : State) (b : Booth) :
    (falls s c b = false ∧ (followOne c s b = s ∨ followOne c s b = chooseListen b (.channel c) s)) ∨
    (falls s c b = true ∧ followOne c s b =
      notify (.relayFallback b c (chanTag s c) (s.settings c).fallback) (chooseListen b (.channel c) s)) := by
  have moves := chooseListen_moves b (.channel c) s
  unfold followOne falls
  cases hm : s.boothSettings b with
  | none => exact .inl ⟨rfl, .inl rfl⟩
  | some m =>
    by_cases chosen : (s.booth b).chosen = .channel c
    · have new := congrArg BoothLive.autoHold (chooseListen_channel (c := c) hm)
      simp only [derivedListen_hold] at new
      simp only [chosen, Option.isSome_some, beq_self_eq_true, Bool.and_true, if_true, Option.any_some, new, moves.chanTag,
        moves.settings]
      cases (m.autoFloor && (s.chan c).coverage == .uncovered && !(s.booth b).autoHold) with
      | true => exact .inr ⟨rfl, rfl⟩
      | false => exact .inl ⟨rfl, .inr rfl⟩
    · refine .inl ⟨by simp [chosen], .inl (if_neg (by simp [chosen]))⟩

theorem followOne_says (c : Chan) (s : State) (b : Booth) : Says (fallNotices s c [b]) s (followOne c s b) := by
  unfold fallNotices
  rcases followOne_cases c s b with ⟨stays, e | e⟩ | ⟨holds, e⟩ <;> rw [e]
  · rw [List.filter_singleton, stays]
    exact .refl s
  · rw [List.filter_singleton, stays]
    exact (chooseListen_hush ..).says
  · rw [List.filter_singleton, holds]
    exact (chooseListen_hush b (.channel c) s).says.trans (notify_says _ _)

/-- What one booth is handed leaves what another one makes of the coverage. -/
theorem followOne_other (c : Chan) (s : State) {b d : Booth} (h : d ≠ b) :
    falls (followOne c s b) c d = falls s c d ∧ followed (followOne c s b) c d = followed s c d := by
  have moves := followOne_moves c s b
  have chan : (followOne c s b).chan = s.chan := congrArg Scene.chan (scene_followOne c s b)
  have booth : (followOne c s b).booth d = s.booth d := (followOne_booth c s b d).trans (if_neg h)
  unfold falls followed derivedListen
  simp only [moves.boothSettings, booth, chan, and_self]

theorem follow_says (c : Chan) (bs : List Booth) (once : bs.Nodup) (s : State) :
    Says (fallNotices s c bs) s (bs.foldl (followOne c) s) := by
  induction bs generalizing s with
  | nil => exact .refl s
  | cons b bs ih =>
    obtain ⟨fresh, rest⟩ := List.nodup_cons.mp once
    have moves := followOne_moves c s b
    have later : fallNotices (followOne c s b) c bs = fallNotices s c bs := by
      unfold fallNotices
      rw [moves.chanTag, moves.settings]
      refine congrArg _ (List.filter_congr fun d hd => (followOne_other c s ?_).1)
      rintro rfl
      exact fresh hd
    have split : fallNotices s c (b :: bs) = fallNotices s c [b] ++ fallNotices s c bs := by
      unfold fallNotices
      rw [← List.map_append, ← List.filter_append]
      rfl
    rw [split, ← later]
    exact (followOne_says c s b).trans (ih rest _)

theorem follow_booth (c : Chan) (bs : List Booth) (once : bs.Nodup) (s : State) (d : Booth) :
    (bs.foldl (followOne c) s).booth d = if d ∈ bs then followed s c d else s.booth d := by
  induction bs generalizing s with
  | nil => rfl
  | cons b bs ih =>
    obtain ⟨fresh, rest⟩ := List.nodup_cons.mp once
    rw [List.foldl_cons, ih rest]
    by_cases e : d = b
    · subst e
      rw [if_neg fresh, if_pos List.mem_cons_self, followOne_booth, if_pos rfl]
    · rw [(followOne_other c s e).2, followOne_booth, if_neg e]
      simp only [List.mem_cons, e, false_or]

theorem relayFollow_says (c : Chan) (s : State) : Says (fallNotices s c (List.finRange 32)) s (relayFollow c s) :=
  follow_says c _ (List.nodup_finRange 32) s

theorem relayFollow_booth (c : Chan) (s : State) (d : Booth) : (relayFollow c s).booth d = followed s c d := by
  unfold relayFollow
  rw [follow_booth c _ (List.nodup_finRange 32), if_pos (List.mem_finRange d)]

/-- A coverage other than UNCOVERED begins no hold, and ends every one. -/
theorem relayFollow_silent {c : Chan} (h : (s.chan c).coverage ≠ .uncovered) : Says [] s (relayFollow c s) := by
  have none : fallNotices s c (List.finRange 32) = [] := by
    unfold fallNotices falls
    simp [h]
  rw [← none]
  exact relayFollow_says c s

theorem followed_hold {c : Chan} (h : (s.chan c).coverage ≠ .uncovered) {m : BoothSettings} (hm : s.boothSettings b = some m)
    (chosen : (s.booth b).chosen = .channel c) : (followed s c b).autoHold = false := by
  unfold followed
  rw [hm]
  dsimp only
  rw [if_pos chosen, derivedListen_hold]
  simp [h]

end

/-! ## Coverage events -/

section
variable {c : Chan}

/-- No booth with auto-floor that listens to `c` has its hold. -/
def NoHolds (s : State) (c : Chan) : Prop :=
  ∀ b m, s.boothSettings b = some m → (s.booth b).chosen = .channel c → (s.booth b).autoHold = false

/-- A channel that becomes UNCOVERED while no booth has its hold. -/
theorem uncover_says (h : NoHolds s c) : Says (uncoverNotices s c) s (uncover c s) := by
  unfold uncover coverageChange
  dsimp only
  generalize hx : (⟨.uncovered, none, (s.settings c).fallback.source, 0, false⟩ : ChanLive) = x
  have routed : Hush s (routeAfter s c (s.setChan c x)) := Hush.trans (t := s.setChan c x) rfl (routeAfter_hush ..)
  have scene := scene_routeAfter s c (s.setChan c x)
  have moves : Moves s (routeAfter s c (s.setChan c x)) := (Moves.chan c x .refl).trans (routeAfter_moves ..)
  have booths : ∀ b, (routeAfter s c (s.setChan c x)).booth b = s.booth b := fun b => routeAfter_booth ..
  have chan : (routeAfter s c (s.setChan c x)).chan c = x := by
    rw [show (routeAfter s c (s.setChan c x)).chan = (s.setChan c x).chan from congrArg Scene.chan scene, State.setChan_same]
  generalize routeAfter s c (s.setChan c x) = t at routed moves booths chan
  have told := routed.says.trans (notify_says (.channelUncovered c (chanTag t c) (s.settings c).fallback) t)
  have followed := relayFollow_says c (notify (.channelUncovered c (chanTag t c) (s.settings c).fallback) t)
  have all := told.trans followed
  have fallen : fallNotices (notify (.channelUncovered c (chanTag t c) (s.settings c).fallback) t) c (List.finRange 32) =
      (fallenBooths s c).map (fun b => .relayFallback b c (chanTag s c) (s.settings c).fallback) := by
    have moves' := moves.trans (notify_moves (.channelUncovered c (chanTag t c) (s.settings c).fallback) t)
    unfold fallNotices fallenBooths
    rw [moves'.chanTag, moves'.settings]
    refine congrArg _ (List.filter_congr fun b _ => ?_)
    unfold falls
    rw [notify_boothSettings, notify_booth, moves.boothSettings, booths,
      show (notify (.channelUncovered c (chanTag t c) (s.settings c).fallback) t).chan c = x from by
        rw [notify_ports _ t]; exact chan, ← hx]
    cases hm : s.boothSettings b with
    | none => rfl
    | some m =>
      by_cases chosen : (s.booth b).chosen = .channel c
      · simp [h b m hm chosen]
      · simp [chosen]
  rw [fallen, moves.chanTag] at all
  rw [moves.chanTag]
  exact all

/-- A channel that a coverage other than UNCOVERED takes leaves no hold. -/
theorem coverageChange_silent {x : ChanLive} (h : x.coverage ≠ .uncovered) :
    Says [] s (coverageChange c x id s) ∧ NoHolds (coverageChange c x id s) c := by
  have routed : Hush s (routeAfter s c (s.setChan c x)) := Hush.trans (t := s.setChan c x) rfl (routeAfter_hush ..)
  have scene := scene_routeAfter s c (s.setChan c x)
  have chan : (routeAfter s c (s.setChan c x)).chan c = x := by
    rw [show (routeAfter s c (s.setChan c x)).chan = (s.setChan c x).chan from congrArg Scene.chan scene, State.setChan_same]
  unfold coverageChange
  generalize routeAfter s c (s.setChan c x) = t at routed chan
  have covers : (t.chan c).coverage ≠ .uncovered := by rw [chan]; exact h
  refine ⟨routed.says.trans (relayFollow_silent covers), fun b m hm chosen => ?_⟩
  have moves := relayFollow_moves c t
  show ((relayFollow c t).booth b).autoHold = false
  rw [relayFollow_booth]
  refine followed_hold covers (m := m) ((moves.boothSettings b).symm.trans hm) ?_
  rw [← relayFollow_chosen c b t]
  exact chosen

theorem uncoverNotices_of_moves (moves : Moves s t) (chosen : ∀ b, (t.booth b).chosen = (s.booth b).chosen) (c : Chan) :
    uncoverNotices t c = uncoverNotices s c := by
  unfold uncoverNotices fallenBooths
  simp only [moves.chanTag, moves.settings, moves.boothSettings, chosen]

theorem releaseNotices_of_moves (moves : Moves s t) (chosen : ∀ b, (t.booth b).chosen = (s.booth b).chosen) (c : Chan) :
    releaseNotices t c = releaseNotices s c := by
  unfold releaseNotices
  rw [moves.settings, uncoverNotices_of_moves moves chosen]

theorem turnEnd_says (c : Chan) (s : State) : Says (releaseNotices s c) s (turnEnd c s) := by
  unfold turnEnd enterHolding releaseNotices
  dsimp only
  generalize hx : (⟨.holding, none, (s.chan c).source, (s.settings c).gapHold, true⟩ : ChanLive) = x
  obtain ⟨silent, noHolds⟩ := coverageChange_silent (s := s) (c := c) (x := x) (by rw [← hx]; exact nofun)
  have moves := coverageChange_moves c x id (fun _ => .refl) s
  have deeds : Deeds s (coverageChange c x id s) := .cover c x id tells_id .refl
  generalize coverageChange c x id s = t at silent noHolds moves deeds
  split
  · rw [← uncoverNotices_of_moves moves deeds.chosen c]
    exact silent.trans (uncover_says noHolds)
  · exact silent

theorem turnStart_says (c : Chan) (h : Holder) (s : State) :
    Says (if (s.chan c).coverage = .uncovered then [.channelCovered c (chanTag s c) h.booth h.seat] else []) s
      (turnStart c h s) := by
  unfold turnStart coverageChange
  dsimp only
  generalize hx : (⟨.covered, some h, .booth h.booth, 0, false⟩ : ChanLive) = x
  have routed : Hush s (routeAfter s c (s.setChan c x)) := Hush.trans (t := s.setChan c x) rfl (routeAfter_hush ..)
  have scene := scene_routeAfter s c (s.setChan c x)
  have moves : Moves s (routeAfter s c (s.setChan c x)) := (Moves.chan c x .refl).trans (routeAfter_moves ..)
  have chan : (routeAfter s c (s.setChan c x)).chan c = x := by
    rw [show (routeAfter s c (s.setChan c x)).chan = (s.setChan c x).chan from congrArg Scene.chan scene, State.setChan_same]
  generalize routeAfter s c (s.setChan c x) = t at routed moves chan
  have covers : (t.chan c).coverage ≠ .uncovered := by rw [chan, ← hx]; exact nofun
  split
  · rw [← moves.chanTag]
    refine (routed.says.trans (notify_says _ t)).trans (relayFollow_silent ?_)
    rw [notify_ports _ t]
    exact covers
  · exact routed.says.trans (relayFollow_silent covers)

/-! ## Offers and turns -/

theorem passOffer_says (c : Chan) (o : Offer) (m : Manner) (s : State) : Says [passNotice s c o m] s (passOffer c o m s) := by
  unfold passOffer
  dsimp only
  have hush := ((setOffer_hush c none s).trans (goLive_hush o.waitBooth o.waitSeat _)).trans
    (holderChange_hush c ⟨o.waitBooth, o.waitSeat⟩ _)
  have moves : Moves s (holderChange c ⟨o.waitBooth, o.waitSeat⟩ (goLive o.waitBooth o.waitSeat (s.setOffer c none))) :=
    (((Moves.refl.offer c none).trans (goLive_moves ..)).trans (holderChange_moves ..))
  generalize holderChange c ⟨o.waitBooth, o.waitSeat⟩ (goLive o.waitBooth o.waitSeat (s.setOffer c none)) = t at hush moves
  rw [moves.chanTag]
  exact hush.says.trans (notify_says _ t)

theorem settleChan_says (c : Chan) (m : Manner) (s : State) : Says (match s.offer c with
    | some o => [passNotice s c o m]
    | none => releaseNotices s c) s (settleChan c m s) := by
  unfold settleChan
  cases s.offer c with
  | some o => exact passOffer_says ..
  | none => exact turnEnd_says ..

end

end

end Sys2Proof.Machine
end

section
/-! PROOF. OVERRIDE (O13), and the lines at a repeat, at the end of what they send, and at ROUTE_REFRESH (O15). -/

namespace Sys2Proof.Machine
open Sys2Proof

variable {s t : State}

/-! ## OVERRIDE -/

theorem setOverride_same {on : Bool} (h : s.gen.override = on) : setOverride on s = s := if_pos h

theorem SameDirectory.routeOrders (h : SameDirectory s t) : routeOrders t = routeOrders s := by
  rw [h]
  rfl

theorem SameDirectory.effectiveRoute (h : SameDirectory s t) (c : Chan) : effectiveRoute t c = effectiveRoute s c := by
  rw [h]
  rfl

/-- A content that differs advances the sequence by 1. -/
theorem dirAfter_advances (h : dirContent t ≠ dirContent s) :
    (dirAfter s t).ret.dirSeq = if t.ret.dirSeq < 65535 then t.ret.dirSeq + 1 else 0 := by
  rcases dirAfter_cases s t with ⟨same, _⟩ | ⟨_, e⟩
  · exact absurd same h
  · rw [e]
    rcases dirDue_cases { t with ret.dirSeq := wrapNext Config.smallMax t.ret.dirSeq } with ⟨_, e⟩ | ⟨_, e⟩ <;> rw [e] <;> rfl

/-- Settles O13. -/
theorem overrideSwitches : Obligations.OverrideSwitches := by
  refine fun s tag on ready => ⟨fun same => ?_, fun other => ⟨dirAfter s (setOverride on s), ?_, ?_⟩⟩
  · refine (ready.request_planned tag .override _).trans ?_
    rw [setOverride_same same, dirAfter_self]
    rfl
  · exact ready.request_planned tag .override _
  · have routes := setOverride_routes on s
    obtain ⟨ordered, _⟩ := (setOverride_abreast on s).changes
    generalize setOverride on s = u at routes ordered
    have directory := dirAfter_directory s u
    have switched : u.gen.override = on := by rw [routes]
    have advance : (dirAfter s u).ret.dirSeq = _ := dirAfter_advances fun e =>
      other (by rw [← switched]; exact (congrArg DirContent.override e).symm)
    generalize dirAfter s u = t at directory advance
    refine ⟨?_, fun c => ?_, fun c => ?_, ?_, ?_⟩
    · rw [directory]
      exact switched
    · rw [directory.effectiveRoute, routes]
      unfold effectiveRoute
      show (match (s.settings c).slot with
        | none => Source.silent
        | some _ => _) = _
      cases (s.settings c).slot <;> rfl
    · rw [directory.effectiveRoute, directory.routeOrders]
      exact ordered c
    · rw [advance, routes]
    · rw [directory, routes]

/-! ## The full set on a busy line (R34) -/

theorem sameSubject_nowOrder (o : RouteOrder) : sameSubject o (nowOrder s o) = true := by
  cases o <;> simp [sameSubject, nowOrder]

theorem nowOrder_mem (o : RouteOrder) : nowOrder s o ∈ fullSet s := by
  rw [mem_fullSet]
  cases o <;> rfl

theorem Current.eq_nowOrder {o x : RouteOrder} (h : Current s o) (same : sameSubject x o = true) : o = nowOrder s x := by
  cases o <;> cases x <;> simp_all [Current, sameSubject, nowOrder]

/-- An order whose subject is waiting takes its place. -/
theorem placeUnsent_taken {o y : RouteOrder} {l : List RouteOrder} (once : l.Pairwise (fun a b => sameSubject a b = false))
    (hy : y ∈ l) (same : sameSubject y o = true) :
    placeUnsent o l = l.map (fun x => if sameSubject x o = true then o else x) := by
  induction l with
  | nil => cases hy
  | cons z l ih =>
    obtain ⟨first, rest⟩ := List.pairwise_cons.mp once
    unfold placeUnsent
    rw [List.map_cons]
    split
    · next e =>
      have others : l.map (fun x => if sameSubject x o = true then o else x) = l.map id := List.map_congr_left fun x hx => by
        rw [sameSubject_symm x o, ← sameSubject_trans e, first x hx]
        exact if_neg Bool.false_ne_true
      rw [others, List.map_id]
    · next e =>
      rcases List.mem_cons.mp hy with rfl | hy
      · exact absurd same e
      · rw [ih rest hy]

/-- The waiting order once the orders `os` have been placed. -/
def renewed (s : State) (os : List RouteOrder) (y : RouteOrder) : RouteOrder :=
  if os.any (sameSubject y) = true then nowOrder s y else y

/-- No waiting order has the subject of `x`. -/
def freshIn (l : List RouteOrder) (x : RouteOrder) : Bool := l.all (fun y => !sameSubject y x)

theorem renewed_first {o y : RouteOrder} {os : List RouteOrder} (current : Current s o) (same : sameSubject y o = true)
    (first : ∀ x ∈ os, sameSubject o x = false) : renewed s os o = renewed s (o :: os) y := by
  have none : os.any (sameSubject o) = false := by
    simpa using first
  unfold renewed
  rw [none, List.any_cons, same]
  exact current.eq_nowOrder same

theorem renewed_other {o y : RouteOrder} {os : List RouteOrder} (other : sameSubject y o = false) :
    renewed s os y = renewed s (o :: os) y := by
  unfold renewed
  rw [List.any_cons, other, Bool.false_or]

/-- Orders that name what holds, placed one after another among the waiting ones. -/
theorem placeUnsent_foldl (os l : List RouteOrder) (current : ∀ o ∈ os, Current s o)
    (each : os.Pairwise (fun a b => sameSubject a b = false)) (once : l.Pairwise (fun a b => sameSubject a b = false)) :
    os.foldl (fun l o => placeUnsent o l) l = l.map (renewed s os) ++ os.filter (freshIn l) := by
  induction os generalizing l with
  | nil =>
    rw [List.filter_nil, List.append_nil, List.foldl_nil]
    exact (List.map_id l).symm
  | cons o os ih =>
    obtain ⟨first, rest⟩ := List.pairwise_cons.mp each
    have holds : Current s o := current o List.mem_cons_self
    rw [List.foldl_cons, ih _ (fun x hx => current x (List.mem_cons_of_mem _ hx)) rest (placeUnsent_once o l once)]
    by_cases waits : ∃ y ∈ l, sameSubject y o = true
    · obtain ⟨y, hy, same⟩ := waits
      have stale : freshIn l o = false := by
        unfold freshIn
        exact List.all_eq_false.mpr ⟨y, hy, by simp [same]⟩
      rw [placeUnsent_taken once hy same, List.map_map, List.filter_cons_of_neg (by simp [stale])]
      refine congr (congrArg _ (List.map_congr_left fun x _ => ?_)) (List.filter_congr fun x _ => ?_)
      · by_cases e : sameSubject x o = true
        · rw [Function.comp_apply, if_pos e]
          exact renewed_first holds e first
        · rw [Function.comp_apply, if_neg e]
          exact renewed_other (by simpa using e)
      · unfold freshIn
        rw [List.all_map]
        refine congrArg (l.all ·) (funext fun z => ?_)
        rw [Function.comp_apply]
        split
        · next e => rw [sameSubject_trans e]
        · rfl
    · have fresh : ∀ x ∈ l, sameSubject x o = false := fun x hx => by
        simpa using fun e => waits ⟨x, hx, e⟩
      have joins : freshIn l o = true := by
        unfold freshIn
        exact List.all_eq_true.mpr fun x hx => by rw [fresh x hx]; rfl
      rw [placeUnsent_fresh o l fresh, List.map_append, List.filter_cons_of_pos joins]
      have last : [o].map (renewed s os) = [o] := by
        rw [List.map_singleton, renewed_first holds (sameSubject_refl o) first]
        unfold renewed
        rw [List.any_cons, sameSubject_refl]
        exact congrArg (fun x => [x]) (holds.eq_nowOrder (sameSubject_refl o)).symm
      have others : os.filter (freshIn (l ++ [o])) = os.filter (freshIn l) := List.filter_congr fun x hx => by
        unfold freshIn
        rw [List.all_append, List.all_cons, first x hx]
        simp
      rw [last, others, List.append_assoc, List.map_congr_left fun x hx => renewed_other (fresh x hx)]
      rfl

/-- A busy line leaves what it is sending. -/
theorem placeAll_busy {o : RouteOrder} (os : List RouteOrder) (s : State) (busy : s.gen.routeSending = some o) :
    placeAll os s = { s with gen.routeList := os.foldl (fun l o => placeUnsent o l) s.gen.routeList } := by
  unfold placeAll
  induction os generalizing s with
  | nil => rfl
  | cons x os ih =>
    have placed : placeOrder x s = { s with gen.routeList := placeUnsent x s.gen.routeList } := by
      unfold placeOrder routeBegin
      dsimp only
      rw [busy]
    rw [List.foldl_cons, placed]
    exact ih _ busy

theorem placeAll_fullSet_busy {o : RouteOrder} (listed : RouteListed s) (busy : s.gen.routeSending = some o) :
    (placeAll (fullSet s) s).gen.routeSending = some o ∧ (placeAll (fullSet s) s).gen.routeList =
      s.gen.routeList.map (nowOrder s) ++ (fullSet s).filter (fun x => s.gen.routeList.all (fun y => !sameSubject y x)) := by
  have current : ∀ o ∈ fullSet s, Current s o := fun o ho => mem_fullSet.mp ho
  have each := fullSet_once s
  have all : ∀ y, nowOrder s y ∈ fullSet s := nowOrder_mem
  generalize fullSet s = os at current each all
  rw [placeAll_busy os s busy]
  refine ⟨busy, (placeUnsent_foldl os _ current each listed.once).trans ?_⟩
  refine congrArg (· ++ _) (List.map_congr_left fun y _ => ?_)
  unfold renewed
  exact if_pos (List.any_eq_true.mpr ⟨nowOrder s y, all y, sameSubject_nowOrder y⟩)

/-! ## The lines -/

theorem runDue_directory (full : 2 ≤ s.gen.dirCount) : runDue .directory s = dirDue { s with gen.dirCount := 0 } :=
  if_pos full

theorem routeBegin_sent (s : State) : routeBegin { s with gen.routeSending := none } =
    { s with gen.routeSending := s.gen.routeList.head?, gen.routeList := s.gen.routeList.tail } := by
  unfold routeBegin
  dsimp only
  cases h : s.gen.routeList with
  | nil => dsimp only [List.head?, List.tail]
  | cons o rest => rfl

/-- Settles O15. -/
theorem linesSendOnAndRefresh : Obligations.LinesSendOnAndRefresh := by
  refine ⟨fun s running due full => ?_, fun s d awake sending => ?_, fun s o awake sending => ?_,
    fun s p awake => ?_, fun s tag ready listed => ⟨placeAll (fullSet s) s, ?_, ?_, fun idle => ?_, fun o busy => ?_⟩⟩
  · refine (takeOne_due running due).trans (congrArg _ ?_)
    rw [runDue_directory (by exact full)]
    by_cases idle : s.gen.dirSending = none
    · rw [if_pos idle]
      exact if_pos (Option.isNone_iff_eq_none.mpr idle)
    · rw [if_neg idle]
      exact if_neg (mt Option.isNone_iff_eq_none.mp idle)
  · dsimp only [exec, execDirectorySendEnd]
    rw [taking_awake awake, if_pos (by rw [sending]; rfl)]
    rfl
  · dsimp only [exec, execRouteOrderSent]
    rw [taking_awake awake, if_pos (by rw [sending]; rfl), routeBegin_sent]
  · dsimp only [exec, execResponseFrameSent]
    exact taking_awake awake _
  · exact ready.respond_to tag .routeRefresh rfl
  · exact placeAll_routes _ s
  · have empty := listed.busy idle
    rw [(placeAll_orders (fullSet s) s listed.busy (fullSet_once s) (by rw [empty]; exact nofun)).1]
    unfold routeOrders
    rw [idle, empty]
    rfl
  · exact placeAll_fullSet_busy listed busy

end Sys2Proof.Machine
end

section
/-! PROOF. The outcome of an event of the hall, read from its deeds, its notices and its scene; the expiry of a gap hold (O14) and
SEAT_ON on a channel with no holder (O16). -/

namespace Sys2Proof.Machine
open Sys2Proof

variable {s t u : State} {b : Booth} {k : Seat} {m : BoothSettings} {c : Chan} {l : List NoticeBody} {S : Scene}

/-! ## Outcomes -/

/-- An event of the hall from `s` to `t`: the notices sent, and the scene that it leaves. -/
structure Played (l : List NoticeBody) (S : Scene) (s t : State) : Prop where
  heard : Notified l s t
  scene : scene t = S
  mutes : ∀ b, MuteAgrees s b → MuteAgrees t b
  only : HallOnly s t

theorem Moves.hallOnly (h : Moves s t) : HallOnly s t := by
  unfold HallOnly
  rw [h.keeps]

theorem Played.of_deeds (deeds : Deeds s t) (told : Says l s t) (e : Machine.scene t = S) : Played l S s t :=
  ⟨told.port, e, fun _ => deeds.mutes, deeds.moves.hallOnly⟩

/-- The directory's update shows in nothing of this. -/
theorem Played.after (h : Played l S s t) (before : State) : Played l S s (dirAfter before t) := by
  have directory := dirAfter_directory before t
  generalize dirAfter before t = u at directory
  have booth : u.booth = t.booth := by rw [directory]; rfl
  refine ⟨fun p => ?_, (scene_of_part directory rfl).trans h.scene, fun b hb => .of_booth (by rw [booth]) (h.mutes b hb), ?_⟩
  · rw [← h.heard p, directory]
    rfl
  · unfold HallOnly
    rw [directory, h.only]

/-- A booth shows nothing else than its scene. -/
theorem booth_of_plain {x y : BoothLive} {i : Option Indication} (h : plain y = { plain x with indication := i }) : y = { x with
    seats := y.seats, muted := y.muted, indication := i, effective := y.effective, autoHold := y.autoHold } := by
  cases x
  cases y
  simp only [plain, BoothLive.mk.injEq] at h
  simp [h]

theorem Played.seatsMoved (h : Played l S s t) {seats : Booth → Seat → SeatState} {indication : Booth → Option Indication}
    (hk : ∀ b k, S.seat b k = seats b k) (hb : ∀ b, S.booth b = { plain (s.booth b) with indication := indication b }) :
    SeatsMoved seats indication s t := by
  refine ⟨fun b k => ?_, h.mutes, fun b => booth_of_plain ?_⟩
  · rw [← hk, ← h.scene]
    rfl
  · rw [← hb, ← h.scene]
    rfl

theorem Played.turnsRaised (h : Played l S s t) {risen : List (Booth × Seat)} (ha : ∀ b k, S.acc b k = { s.acc b k with
    turns := if (b, k) ∈ risen then min 65535 ((s.acc b k).turns + 1) else (s.acc b k).turns }) : TurnsRaised risen s t := by
  intro b k
  rw [← ha, ← h.scene]
  rfl

theorem Played.chanMoved (h : Played l S s t) {x : ChanLive} (hc : S.chan c = x) (hd : ∀ d, d ≠ c → S.chan d = s.chan d) :
    ChanMoved c x s t := by
  have read : t.chan = S.chan := by rw [← h.scene]; rfl
  rw [ChanMoved, read]
  exact ⟨hc, hd⟩

theorem Played.offerMoved (h : Played l S s t) {x : Option Offer} (hc : S.offer c = x) (hd : ∀ d, d ≠ c → S.offer d = s.offer d) :
    OfferMoved c x s t := by
  have read : t.offer = S.offer := by rw [← h.scene]; rfl
  rw [OfferMoved, read]
  exact ⟨hc, hd⟩

theorem Played.offers (h : Played l S s t) (same : S.offer = s.offer) : t.gen.offers = s.gen.offers :=
  Bank.ext_get fun c => congrFun ((congrArg Scene.offer h.scene).trans same) c

theorem Played.chans (h : Played l S s t) (same : S.chan = s.chan) : t.gen.chans = s.gen.chans :=
  Bank.ext_get fun c => congrFun ((congrArg Scene.chan h.scene).trans same) c

theorem Played.seatAcc (h : Played l S s t) (same : S.acc = s.acc) : t.ret.seatAcc = s.ret.seatAcc :=
  Bank.ext_get fun b => Bank.ext_get fun k => congrFun (congrFun ((congrArg Scene.acc h.scene).trans same) b) k

theorem booth_unlit (x : BoothLive) : plain x = { plain x with indication := x.indication } := rfl

/-! ## Events handed on -/

/-- An event that leaves the channels as they were leaves the directory. -/
theorem dirAfter_still (hc : t.gen.chans = s.gen.chans) (hp : t.ret.plan = s.ret.plan) (hs : t.ret.slots = s.ret.slots)
    (ho : t.gen.override = s.gen.override) : dirAfter s t = t := if_pos (dirContent_congr hc hp hs ho)

theorem handEvent_eq {e : ReplyEvent} {rest : List ReplyEvent} (h : Handing s b m e rest) (f : BoothSettings → State → State) :
    handEvent b e f s = f m (handed s b rest) := by
  unfold handEvent
  rw [h.cycle]
  dsimp only
  rw [if_pos ⟨rfl, rfl⟩, if_pos h.present]
  show (match s.boothSettings b with
    | some k => f k (handed s b rest)
    | none => handed s b rest) = _
  rw [h.settings]

theorem seatOf_names {seat : Byte} (h : Names m seat k) : seatOf m.seats seat = some k :=
  (if_pos h.2).trans (fromOne_eq_some.mpr h.1.symm)

/-- An event of a seat that the booth has. -/
theorem Handing.seat {seat : Byte} {e : ReplyEvent} {rest : List ReplyEvent} (h : Handing s b m e rest)
    (names : Names m seat k) (f : Booth → BoothSettings → Seat → State → State) :
    seatEvent b seat e f s = .next (dirAfter s (f b m k (handed s b rest))) := by
  unfold seatEvent event
  rw [taking_awake h.toAwake, handEvent_eq h, seatOf_names names]

/-! ## The expiry of a gap hold (R24, R82) -/

theorem followed_congr (hb : t.booth b = s.booth b) (hm : t.boothSettings b = s.boothSettings b) (hc : t.chan c = s.chan c) :
    followed t c b = followed s c b := by
  unfold followed derivedListen
  simp only [hb, hm, hc]

/-- What the booths listen to once the coverage of `c` has changed. -/
theorem coverageChange_booth (c : Chan) (x : ChanLive) {f : State → State} (hf : Tells f) (s : State) (b : Booth) :
    (coverageChange c x f s).booth b = followed (s.setChan c x) c b := by
  unfold coverageChange
  rw [relayFollow_booth]
  have moves : Moves s (routeAfter s c (s.setChan c x)) := (Moves.chan c x .refl).trans (routeAfter_moves ..)
  have booth : (routeAfter s c (s.setChan c x)).booth b = s.booth b := routeAfter_booth ..
  have chan : (routeAfter s c (s.setChan c x)).chan c = (s.setChan c x).chan c :=
    scene_chan (congrArg Scene.chan (scene_routeAfter s c (s.setChan c x))) c
  generalize routeAfter s c (s.setChan c x) = t at moves booth chan
  rcases hf t with e | ⟨n, _, e⟩ <;> rw [e]
  · exact followed_congr booth (moves.boothSettings b) chan
  · exact followed_congr ((notify_booth n t b).trans booth) ((congrFun (notify_boothSettings n t) b).trans (moves.boothSettings b))
      (by rw [notify_ports n t]; exact chan)

theorem uncover_booth (c : Chan) (s : State) (b : Booth) : (uncover c s).booth b =
    followed (s.setChan c ⟨.uncovered, none, (s.settings c).fallback.source, 0, false⟩) c b := by
  unfold uncover
  exact coverageChange_booth c _ (tells_notify fun _ => rfl) s b

/-- What a booth that listens to a channel other than an UNCOVERED one takes. -/
theorem ListeningAgrees.of_covered (h : ListeningAgrees s) (covered : (s.chan c).coverage ≠ .uncovered)
    (hm : s.boothSettings b = some m) (chosen : (s.booth b).chosen = .channel c) :
    (s.booth b).effective = .channel c ∧ (s.booth b).autoHold = false := by
  have listens := h b
  rw [hm, chosen] at listens
  dsimp only at listens
  rwa [if_neg fun e => covered e.2] at listens

theorem ListeningAgrees.noHolds (h : ListeningAgrees s) (covered : (s.chan c).coverage ≠ .uncovered) : NoHolds s c :=
  fun _ _ hm chosen => (h.of_covered covered hm chosen).2

/-- Auto-floor takes the booths that listen to a channel which becomes UNCOVERED, and the others listen as they did. -/
theorem ListeningAgrees.followed (h : ListeningAgrees s) (covered : (s.chan c).coverage ≠ .uncovered) {x : ChanLive}
    (uncovers : x.coverage = .uncovered) (b : Booth) : followed (s.setChan c x) c b = { s.booth b with
      effective := if b ∈ fallenBooths s c then .floor else (s.booth b).effective
      autoHold := if b ∈ fallenBooths s c then true else (s.booth b).autoHold } := by
  have fallen : b ∈ fallenBooths s c ↔
      ((s.boothSettings b).any BoothSettings.autoFloor && (s.booth b).chosen == .channel c) = true := by
    unfold fallenBooths
    rw [List.mem_filter]
    exact and_iff_right (List.mem_finRange b)
  unfold Machine.followed derivedListen
  simp only [State.setChan_read_boothSettings, State.setChan_read_booth, State.setChan_same, uncovers]
  cases hm : s.boothSettings b with
  | none =>
    rw [hm] at fallen
    rw [if_neg (mt fallen.mp (by simp)), if_neg (mt fallen.mp (by simp))]
  | some m =>
    rw [hm] at fallen
    dsimp only
    by_cases chosen : (s.booth b).chosen = .channel c
    · obtain ⟨effective, hold⟩ := h.of_covered covered hm chosen
      rw [chosen] at fallen
      rw [if_pos chosen]
      cases auto : m.autoFloor with
      | true =>
        have falls := fallen.mpr (by simp [auto])
        rw [if_pos falls, if_pos falls]
        rfl
      | false =>
        have stays := mt fallen.mp (by simp [auto])
        rw [if_neg stays, if_neg stays, effective, hold]
        rfl
    · have stays := mt fallen.mp (by simp [chosen])
      rw [if_neg chosen, if_neg stays, if_neg stays]

theorem dirAfter_booth (before s : State) (b : Booth) : (dirAfter before s).booth b = s.booth b := by
  rw [dirAfter_directory before s]
  rfl

theorem runDue_gapHold (holding : (s.chan c).coverage = .holding) (spent : (s.chan c).remaining = 0) :
    runDue (.gapHold c) s = dirAfter s (uncover c s) := by
  show dirAfter s (expireHold c s) = _
  unfold expireHold
  rw [if_pos ⟨holding, spent⟩]

/-- Settles O14. -/
theorem gapHoldExpires : Obligations.GapHoldExpires := by
  intro s c running listens due holding spent
  have covered : (s.chan c).coverage ≠ .uncovered := by rw [holding]; exact nofun
  generalize hv : ({ s with gen.due := s.gen.due.erase (.gapHold c) } : State) = v
  have reads : s.chan = v.chan ∧ s.settings = v.settings ∧ s.booth = v.booth ∧ s.boothSettings = v.boothSettings ∧
      s.gen.offers = v.gen.offers ∧ s.ret.seatAcc = v.ret.seatAcc := by subst hv; exact ⟨rfl, rfl, rfl, rfl, rfl, rfl⟩
  have same : ListeningAgrees v ∧ uncoverNotices s c = uncoverNotices v c ∧ fallenBooths s c = fallenBooths v c ∧
      (∀ l t, Notified l v t → Notified l s t) := by subst hv; exact ⟨listens, rfl, rfl, fun _ _ h => h⟩
  obtain ⟨chan, settings, booth, boothSettings, offers, acc⟩ := reads
  obtain ⟨listens', notices, fallen, heard⟩ := same
  have covered' : (v.chan c).coverage ≠ .uncovered := chan ▸ covered
  have played : Played (uncoverNotices v c) ((scene v).cast c ⟨.uncovered, none, (v.settings c).fallback.source, 0, false⟩) v
      (uncover c v) := .of_deeds (uncover_deeds c v) (uncover_says (listens'.noHolds covered')) (scene_uncover c v)
  have result := played.after v
  refine ⟨dirAfter v (uncover c v), ?_, ?_, fun b => ?_, ?_, ?_, ?_, result.only⟩
  · refine (takeOne_due running due).trans (congrArg _ ?_)
    rw [hv]
    exact runDue_gapHold (chan ▸ holding) (chan ▸ spent)
  · rw [settings]
    have moved := result.chanMoved (c := c) (if_pos rfl) fun d hd => if_neg hd
    rw [ChanMoved, chan]
    exact moved
  · rw [dirAfter_booth, uncover_booth, booth, fallen]
    exact listens'.followed covered' rfl b
  · rw [notices]
    exact heard _ _ result.heard
  · exact (result.offers rfl).trans offers.symm
  · exact (result.seatAcc rfl).trans acc.symm

/-! ## SEAT_ON on a channel with no holder (R21, R41) -/

theorem claimSeat_unassigned (h : (s.chan c).coverage = .unassigned) : claimSeat b k c s = indicate b (some .noChannel) s := by
  unfold claimSeat
  rw [h]

theorem claimSeat_free (h : (s.chan c).coverage = .holding ∨ (s.chan c).coverage = .uncovered) :
    claimSeat b k c s = turnStart c ⟨b, k⟩ (goLive b k s) := by
  unfold claimSeat
  rcases h with h | h <;> rw [h]

/-- A SEAT_ON that is a claim. -/
theorem Handing.claim {seat : Byte} {rest : List ReplyEvent} (h : Handing s b m (.seatOn seat) rest) (names : Names m seat k)
    (off : s.seat b k = .off) (free : NoneLive s b) : exec (.seatOn b seat) s =
      .next (dirAfter s (claimSeat b k (selectedChan m (s.booth b)) (handed s b rest))) := by
  refine (h.seat names seatOnEvent).trans ?_
  have none : liveSeat (handed s b rest) b = none := liveSeat_eq_none.mpr free
  unfold seatOnEvent
  rw [if_pos (by exact off), none]
  rfl

theorem goLive_chan (b : Booth) (k : Seat) (s : State) : (goLive b k s).chan = s.chan :=
  congrArg Scene.chan (scene_goLive b k s)

/-- Seat `k` of booth `b` takes the free channel `c`. -/
theorem takeFree_played (b : Booth) (k : Seat) (c : Chan) (s : State) :
    Played (if (s.chan c).coverage = .uncovered then [.channelCovered c (chanTag s c) b k] else [])
      (((scene s).rise b k).cast c ⟨.covered, some ⟨b, k⟩, .booth b, 0, false⟩) s (turnStart c ⟨b, k⟩ (goLive b k s)) := by
  have told := (goLive_hush b k s).says.trans (turnStart_says c ⟨b, k⟩ (goLive b k s))
  rw [goLive_chan, (goLive_moves b k s).chanTag] at told
  exact .of_deeds ((goLive_deeds b k s).trans (turnStart_deeds ..)) told (by rw [scene_turnStart, scene_goLive])

theorem rise_acc (S : Scene) (b : Booth) (k : Seat) (d : Booth) (j : Seat) : (S.rise b k).acc d j = { S.acc d j with
    turns := if d = b ∧ j = k then min 65535 ((S.acc d j).turns + 1) else (S.acc d j).turns } := by
  unfold Scene.rise Scene.tally Scene.sit
  dsimp only
  split
  · next e => rw [e.1, e.2]
  · rfl

/-- Settles O16. -/
theorem seatOnTakesAFreeChannel : Obligations.SeatOnTakesAFreeChannel := by
  intro s b m seat k rest handing names off free
  have exec := handing.claim names off free
  generalize selectedChan m (s.booth b) = c at exec
  refine ⟨fun none => ?_, fun holds => ⟨_, exec, ?_⟩⟩
  · rw [exec, claimSeat_unassigned (s := handed s b rest) none]
    exact congrArg _ (dirAfter_still rfl rfl rfl rfl)
  · have played := (takeFree_played b k c (handed s b rest)).after s
    rw [claimSeat_free (s := handed s b rest) holds]
    refine ⟨played.seatsMoved (fun _ _ => rfl) fun _ => rfl, played.turnsRaised fun d j => ?_,
      played.chanMoved (if_pos rfl) fun d hd => if_neg hd, played.offers rfl, played.heard, played.only⟩
    refine (rise_acc (scene (handed s b rest)) b k d j).trans ?_
    simp only [List.mem_singleton, Prod.mk.injEq]
    rfl

end Sys2Proof.Machine
end

section
/-! PROOF. SEAT_ON on a held channel and within a booth (O17, O18), and the cough and mute states (O20). -/

namespace Sys2Proof.Machine
open Sys2Proof

variable {s t u : State} {b : Booth} {k : Seat} {m : BoothSettings} {c : Chan} {l : List NoticeBody} {S : Scene}

/-! ## What the turns say -/

theorem passNotice_of_moves (h : Moves s t) (o : Offer) (manner : Manner) : passNotice t c o manner = passNotice s c o manner := by
  unfold passNotice
  rw [h.chanTag]

theorem claimLast_says (c : Chan) (x h : Holder) (s : State) : Says (cutNotices s c) s (claimLast c x h s) := by
  have offer : (indicate x.booth (some .cut) (putSeat x.booth x.seat .off s)).offer c = s.offer c := putSeat_offer ..
  have cut := (putSeat_hush x.booth x.seat .off s).trans (indicate_hush x.booth (some .cut) _)
  have moves := (putSeat_moves x.booth x.seat .off s).trans (indicate_moves x.booth (some .cut) _)
  unfold claimLast cutNotices
  dsimp only
  rw [offer]
  generalize indicate x.booth (some .cut) (putSeat x.booth x.seat .off s) = t at cut moves
  cases s.offer c with
  | none => exact (cut.trans (holderChange_hush ..)).says
  | some o =>
    have passed := cut.says.trans (passOffer_says c o .turnEnd t)
    rw [passNotice_of_moves moves] at passed
    exact passed.trans (((putSeat_hush ..).trans (indicate_hush ..)).trans (holderChange_hush ..)).says

/-! ## Mute states that stand -/

theorem syncMute_still (h : MuteAgrees s b) : syncMute b s = s := by
  unfold syncMute
  refine if_pos (Bool.eq_iff_iff.mpr (Iff.trans ?_ h.symm))
  simp

/-- A seat that changes outside COUGH leaves the mute state. -/
theorem putSeat_still {x : SeatState} (h : MuteAgrees s b) (was : s.seat b k ≠ .cough) (now : x ≠ .cough) :
    putSeat b k x s = s.setSeat b k x := by
  refine syncMute_still ?_
  have muted : ((s.setSeat b k x).booth b).muted = (s.booth b).muted := by
    rw [State.setSeat, State.setBooth_booth, if_pos rfl]
  unfold MuteAgrees at *
  rw [muted, h]
  refine exists_congr fun j => ?_
  rw [State.setSeat_seat]
  split
  · next e =>
    obtain ⟨_, rfl⟩ := e
    exact iff_of_false was now
  · rfl

/-- A seat that begins to wait for an offer. -/
theorem putSeat_waits (h : MuteAgrees s b) (off : s.seat b k = .off) (o : Option Offer) :
    putSeat b k .waiting (s.setOffer c o) = (s.setOffer c o).setSeat b k .waiting := by
  refine putSeat_still h ?_ SeatState.noConfusion
  rw [State.setOffer_read_seat, off]
  exact SeatState.noConfusion

/-- The waiting seat of an offer is not one that is off or live. -/
theorem HallAgrees.waiting {o : Offer} (h : HallAgrees s) (ho : s.offer c = some o) : s.seat o.waitBooth o.waitSeat = .waiting :=
  (h.offerHeld c o ho).2.1

/-! ## SEAT_ON on a channel that another booth holds (R42, R43, R62) -/

section
variable {x : Holder}

theorem claimSeat_first (covered : (s.chan c).coverage = .covered) (holder : (s.chan c).holder = some x)
    (policy : (s.settings c).policy = .first) : claimSeat b k c s = indicate b (some .engaged) s := by
  unfold claimSeat
  rw [covered, holder]
  dsimp only
  rw [policy]

theorem claimSeat_busy {o : Offer} (covered : (s.chan c).coverage = .covered) (holder : (s.chan c).holder = some x)
    (policy : (s.settings c).policy = .offer) (ho : s.offer c = some o) : claimSeat b k c s = indicate b (some .busy) s := by
  unfold claimSeat
  rw [covered, holder]
  dsimp only
  rw [policy]
  dsimp only
  rw [ho]

theorem claimSeat_offers (covered : (s.chan c).coverage = .covered) (holder : (s.chan c).holder = some x)
    (policy : (s.settings c).policy = .offer) (ho : s.offer c = none) : claimSeat b k c s = putSeat b k .waiting
      (s.setOffer c (some ⟨.across, b, k, x.booth, x.seat, (s.settings c).offerTime⟩)) := by
  unfold claimSeat
  rw [covered, holder]
  dsimp only
  rw [policy]
  dsimp only
  rw [ho]

theorem claimSeat_last (covered : (s.chan c).coverage = .covered) (holder : (s.chan c).holder = some x)
    (policy : (s.settings c).policy = .last) : claimSeat b k c s = goLive b k (claimLast c x ⟨b, k⟩ s) := by
  unfold claimSeat
  rw [covered, holder]
  dsimp only
  rw [policy]

theorem light_booth (S : Scene) (b : Booth) (i : Option Indication) (d : Booth) : (S.light b i).booth d = { S.booth d with
    indication := if d = b then i else (S.booth d).indication } := by
  unfold Scene.light Scene.dress
  dsimp only
  split
  · next e => rw [e]
  · rfl

theorem oust_booth (S : Scene) (c : Chan) (x h : Holder) (d : Booth) : (S.oust c x h).booth d = { S.booth d with
    indication := if d = x.booth ∨ (S.offer c).map Offer.waitBooth = some d then some .cut else (S.booth d).indication } := by
  unfold Scene.oust
  cases S.offer c with
  | none => exact (light_booth S x.booth (some .cut) d).trans (by simp)
  | some o =>
    refine (light_booth _ o.waitBooth (some .cut) d).trans ?_
    show { (S.light x.booth (some .cut)).booth d with
      indication := if d = o.waitBooth then some .cut else ((S.light x.booth (some .cut)).booth d).indication } = _
    rw [light_booth]
    by_cases hx : d = x.booth <;> by_cases ho : o.waitBooth = d <;> simp [hx, ho, eq_comm]

theorem oust_acc (S : Scene) (c : Chan) (x h : Holder) (d : Booth) (j : Seat) : (S.oust c x h).acc d j = { S.acc d j with
    turns := if (d, j) ∈ cutTurns (S.offer c) then min 65535 ((S.acc d j).turns + 1) else (S.acc d j).turns } := by
  unfold Scene.oust cutTurns
  cases S.offer c with
  | none => simp [Scene.hand, Scene.cast, Scene.sit, Scene.light, Scene.dress]
  | some o =>
    simp only [Option.toList_some, List.map_cons, List.map_nil, List.mem_singleton, Prod.mk.injEq]
    exact rise_acc S o.waitBooth o.waitSeat d j

theorem cutSeats_eq (s : State) (c : Chan) (x h : Holder) (d : Booth) (j : Seat) :
    ((scene s).oust c x h).seat d j = cutSeats s x (s.offer c) d j := by
  rw [Scene.oust_seat]
  unfold cutSeats Scene.withdraw
  show (if _ then _ else Scene.seat (match s.offer c with | some o => _ | none => _) d j) = _
  cases s.offer c <;> rfl

/-- The seats that went live, one after another, and no seat twice. -/
theorem turns_cons {A : Booth → Seat → SeatAcc} {risen : List (Booth × Seat)} {d : Booth} {j : Seat}
    (ha : S.acc d j = { A d j with turns := if (d, j) ∈ risen then min 65535 ((A d j).turns + 1) else (A d j).turns })
    (fresh : (b, k) ∉ risen) : (S.rise b k).acc d j = { A d j with
      turns := if (d, j) ∈ (b, k) :: risen then min 65535 ((A d j).turns + 1) else (A d j).turns } := by
  rw [rise_acc, ha]
  by_cases e : d = b ∧ j = k
  · obtain ⟨rfl, rfl⟩ := e
    simp [fresh]
  · have other : (d, j) ≠ (b, k) := fun same => e (Prod.mk.injEq .. ▸ same)
    simp only [if_neg e, List.mem_cons, other, false_or]

end

theorem HallAgrees.not_cut (h : HallAgrees s) (seat : s.seat b k ≠ .waiting) : (b, k) ∉ cutTurns (s.offer c) := by
  unfold cutTurns
  cases ho : s.offer c with
  | none => exact List.not_mem_nil
  | some o =>
    rintro e
    obtain ⟨rfl, rfl⟩ := Prod.mk.inj (List.mem_singleton.mp e)
    exact seat (h.waiting ho)

/-- Settles O17. -/
theorem seatOnMeetsAHolder : Obligations.SeatOnMeetsAHolder := by
  rintro s b m seat k rest _ x handing names off free rfl covered holder agrees
  have exec := handing.claim names off free
  generalize selectedChan m (s.booth b) = c at exec covered holder
  refine ⟨fun policy => ?_, fun policy stands => ?_, fun policy none => ?_, fun policy => ⟨_, exec, ?_⟩⟩
  · rw [exec, claimSeat_first (s := handed s b rest) covered holder policy]
    exact congrArg _ (dirAfter_still rfl rfl rfl rfl)
  · obtain ⟨o, ho⟩ := Option.ne_none_iff_exists'.mp stands
    rw [exec, claimSeat_busy (s := handed s b rest) covered holder policy ho]
    exact congrArg _ (dirAfter_still rfl rfl rfl rfl)
  · rw [exec, claimSeat_offers (s := handed s b rest) covered holder policy none,
      putSeat_waits (s := handed s b rest) (agrees.mutes b) off]
    exact congrArg _ (dirAfter_still rfl rfl rfl rfl)
  · rw [claimSeat_last (s := handed s b rest) covered holder policy]
    have moves := claimLast_moves c x ⟨b, k⟩ (handed s b rest)
    have played : Played (cutNotices s c) (((scene s).oust c x ⟨b, k⟩).rise b k) (handed s b rest)
        (goLive b k (claimLast c x ⟨b, k⟩ (handed s b rest))) := by
      have told := (claimLast_says c x ⟨b, k⟩ (handed s b rest)).trans (goLive_hush b k _).says
      rw [List.append_nil] at told
      exact .of_deeds ((claimLast_deeds ..).trans (goLive_deeds ..)) told (by rw [scene_goLive, scene_claimLast]; rfl)
    have result := played.after s
    refine ⟨result.seatsMoved (fun d j => ?_) fun d => ?_, result.turnsRaised fun d j => ?_, result.chanMoved ?_ fun d hd => ?_,
      result.offerMoved ?_ fun d hd => ?_, result.heard, result.only⟩
    · show (if d = b ∧ j = k then SeatState.live else ((scene s).oust c x ⟨b, k⟩).seat d j) = _
      rw [cutSeats_eq]
    · exact oust_booth (scene s) c x ⟨b, k⟩ d
    · exact turns_cons (oust_acc (scene s) c x ⟨b, k⟩ d j) (agrees.not_cut (off ▸ nofun))
    · exact (Scene.oust_chan (scene s) c x ⟨b, k⟩ c).trans (if_pos rfl)
    · exact (Scene.oust_chan (scene s) c x ⟨b, k⟩ d).trans (if_neg hd)
    · exact (Scene.oust_offer (scene s) c x ⟨b, k⟩ c).trans (if_pos rfl)
    · exact (Scene.oust_offer (scene s) c x ⟨b, k⟩ d).trans (if_neg hd)

/-! ## SEAT_ON within a booth (R59, R60, R61) -/

theorem inBoothRequest_direct {h : Seat} (mode : m.mode = .direct) : inBoothRequest b m h k c s = directHandover b h k c s := by
  unfold inBoothRequest
  rw [mode]

theorem inBoothRequest_busy {h : Seat} {o : Offer} (mode : m.mode ≠ .direct) (ho : s.offer c = some o) :
    inBoothRequest b m h k c s = indicate b (some .busy) s := by
  unfold inBoothRequest
  split
  · contradiction
  · rw [ho]

theorem inBoothRequest_opens {h : Seat} (mode : m.mode ≠ .direct) (ho : s.offer c = none) : inBoothRequest b m h k c s =
    putSeat b k .waiting (s.setOffer c (some ⟨.inBooth, b, k, b, h, m.offerTime⟩)) := by
  unfold inBoothRequest
  split
  · contradiction
  · rw [ho]

/-- The one live seat of a booth. -/
theorem HallAgrees.liveSeat {h : Seat} (agrees : HallAgrees s) (live : isLive (s.seat b h) = true) : liveSeat s b = some h := by
  obtain ⟨placed, _⟩ := (hallAgrees_iff s).mp agrees
  cases e : Machine.liveSeat s b with
  | none => rw [liveSeat_eq_none.mp e h] at live; cases live
  | some j => rw [placed.one_live (live_of_liveSeat e) live]

/-- A SEAT_ON from a booth that is live. -/
theorem Handing.request {seat : Byte} {rest : List ReplyEvent} {h : Seat} (handing : Handing s b m (.seatOn seat) rest)
    (names : Names m seat k) (off : s.seat b k = .off) (live : isLive (s.seat b h) = true) (agrees : HallAgrees s) :
    exec (.seatOn b seat) s =
      .next (dirAfter s (inBoothRequest b m h k (selectedChan m (s.booth b)) (handed s b rest))) := by
  refine (handing.seat names seatOnEvent).trans ?_
  have some : Machine.liveSeat (handed s b rest) b = some h := agrees.liveSeat live
  unfold seatOnEvent
  rw [if_pos (by exact off), some]
  rfl

theorem directHandover_played (b : Booth) (h k : Seat) (c : Chan) (s : State) :
    Played [.handover c (chanTag s c) .direct none b h b k]
      (((((scene s).sit b h .off).rise b k).bid c ((s.offer c).map (fun o => { o with holdBooth := b, holdSeat := k }))).hand c ⟨b, k⟩)
      s (directHandover b h k c s) := by
  have offer : (goLive b k (putSeat b h .off s)).offer c = s.offer c :=
    congrFun (congrArg Scene.offer ((scene_goLive b k (putSeat b h .off s)).trans (congrArg (Scene.rise · b k) (scene_putSeat ..)))) c
  refine .of_deeds (directHandover_deeds b h k c s) ?_ ?_
  · have turned := (putSeat_hush b h .off s).trans (goLive_hush b k _)
    have moves := (putSeat_moves b h .off s).trans (goLive_moves b k _)
    unfold directHandover
    dsimp only
    rw [offer]
    generalize goLive b k (putSeat b h .off s) = t at turned moves
    generalize (s.offer c).map (fun o : Offer => { o with holdBooth := b, holdSeat := k }) = y
    have hush := turned.trans ((setOffer_hush c y t).trans (holderChange_hush c ⟨b, k⟩ _))
    have moves := moves.trans ((Moves.offer c y .refl).trans (holderChange_moves c ⟨b, k⟩ _))
    rw [moves.chanTag]
    exact hush.says.trans (notify_says _ _)
  · unfold directHandover
    dsimp only
    rw [scene_notify, scene_holderChange, scene_setOffer, offer, scene_goLive, scene_putSeat]

/-- Settles O18. -/
theorem seatOnWithinABooth : Obligations.SeatOnWithinABooth := by
  rintro s b m seat h k rest _ handing names off live rfl agrees
  have exec := handing.request names off live agrees
  generalize selectedChan m (s.booth b) = c at exec
  refine ⟨fun mode _ => ⟨_, exec, ?_⟩, fun mode stands => ?_, fun mode none => ?_⟩
  · rw [inBoothRequest_direct mode]
    have result := (directHandover_played b h k c (handed s b rest)).after s
    refine ⟨result.seatsMoved (fun _ _ => rfl) fun _ => rfl, result.turnsRaised fun d j => ?_,
      result.chanMoved (if_pos rfl) fun d hd => if_neg hd, result.offerMoved (if_pos rfl) fun d hd => if_neg hd, result.heard,
      result.only⟩
    refine (rise_acc ((scene (handed s b rest)).sit b h .off) b k d j).trans ?_
    simp only [List.mem_singleton, Prod.mk.injEq]
    rfl
  · obtain ⟨o, ho⟩ := Option.ne_none_iff_exists'.mp stands
    rw [exec, inBoothRequest_busy (s := handed s b rest) mode ho]
    exact congrArg _ (dirAfter_still rfl rfl rfl rfl)
  · rw [exec, inBoothRequest_opens (s := handed s b rest) mode none, putSeat_waits (s := handed s b rest) (agrees.mutes b) off]
    exact congrArg _ (dirAfter_still rfl rfl rfl rfl)

/-! ## COUGH_DOWN and COUGH_UP (R47, R48) -/

/-- A seat that changes and brings its booth to another mute state. -/
theorem putSeat_mutes {x : SeatState} {muted : Bool} (was : (s.booth b).muted = !muted)
    (now : muted = true ↔ ∃ j, (s.setSeat b k x).seat b j = .cough) : putSeat b k x s =
      placeOrder (.mute b muted) (s.setBooth b { s.booth b with seats := (s.booth b).seats.set k x, muted := muted }) := by
  have any : (List.finRange 3).any (fun j => (s.setSeat b k x).seat b j == .cough) = muted := by
    rw [Bool.eq_iff_iff, now]
    simp
  have before : ((s.setSeat b k x).booth b).muted = !muted := by
    rw [State.setSeat, State.setBooth_booth, if_pos rfl]
    exact was
  unfold putSeat syncMute
  dsimp only
  rw [any, if_neg (by rw [before]; cases muted <;> exact Bool.noConfusion)]
  refine congrArg _ ?_
  unfold State.setSeat
  rw [State.setBooth_booth, if_pos rfl]
  unfold State.setBooth
  simp only [Bank.set_set]

theorem not_muted (agrees : HallAgrees s) (live : isLive (s.seat b k) = true) (quiet : s.seat b k ≠ .cough) :
    ∀ j, s.seat b j ≠ .cough := by
  intro j cough
  obtain ⟨placed, _⟩ := (hallAgrees_iff s).mp agrees
  have same : j = k := placed.one_live (b := b) (show isLive (s.seat b j) = true by rw [cough]; rfl) live
  exact quiet (same ▸ cough)

/-- Settles O20. -/
theorem coughMutesTheBooth : Obligations.CoughMutesTheBooth := by
  intro s b m seat k rest names agrees
  refine ⟨fun handing live => ?_, fun handing cough => ?_⟩
  · have quiet : (s.booth b).muted = !true := by
      refine Bool.eq_false_iff.mpr fun muted => ?_
      obtain ⟨j, hj⟩ := (agrees.mutes b).mp muted
      exact not_muted agrees (k := k) (by rw [live]; rfl) (by rw [live]; exact SeatState.noConfusion) j hj
    refine (handing.seat names coughDownEvent).trans ?_
    unfold coughDownEvent
    rw [if_pos (by exact live), putSeat_mutes (s := handed s b rest) (muted := true) quiet]
    · refine congrArg _ (dirAfter_still ?_ ?_ ?_ ?_) <;> rw [placeOrder_routes] <;> rfl
    · refine iff_of_true rfl ⟨k, ?_⟩
      rw [State.setSeat_seat, if_pos ⟨rfl, rfl⟩]
  · have muted : (s.booth b).muted = !false := (agrees.mutes b).mpr ⟨k, cough⟩
    refine (handing.seat names coughUpEvent).trans ?_
    unfold coughUpEvent
    rw [if_pos (by exact cough), putSeat_mutes (s := handed s b rest) (muted := false) muted]
    · refine congrArg _ (dirAfter_still ?_ ?_ ?_ ?_) <;> rw [placeOrder_routes] <;> rfl
    · refine iff_of_false Bool.noConfusion fun ⟨j, hj⟩ => ?_
      rw [State.setSeat_seat] at hj
      split at hj
      · cases hj
      · next other =>
        obtain ⟨placed, _⟩ := (hallAgrees_iff s).mp agrees
        have same : k = j := placed.one_live (b := b) (show isLive (s.seat b k) = true by rw [cough]; rfl)
          (show isLive (s.seat b j) = true by rw [show s.seat b j = .cough from hj]; rfl)
        exact other ⟨rfl, same⟩

end Sys2Proof.Machine
end

section
/-! PROOF. Events that do not fit (O19), the end of a live turn (O21), and the expiry of an offer (O24). -/

namespace Sys2Proof.Machine
open Sys2Proof

variable {s t u : State} {b : Booth} {k : Seat} {m : BoothSettings} {c : Chan} {l : List NoticeBody} {S : Scene}

/-! ## Events that do not fit (R40) -/

theorem names_of_seatOf {seat : Byte} (h : seatOf m.seats seat = some k) : Names m seat k := by
  unfold seatOf at h
  split at h
  · next within => exact ⟨(fromOne_eq_some.mp h).symm, within⟩
  · cases h

/-- An event of a seat that the booth does not have, or that does not fit. -/
theorem Handing.seat_ignored {seat : Byte} {e : ReplyEvent} {rest : List ReplyEvent} (h : Handing s b m e rest)
    {f : Booth → BoothSettings → Seat → State → State} (unfit : ∀ k, Names m seat k → f b m k (handed s b rest) = handed s b rest) :
    seatEvent b seat e f s = .next (handed s b rest) := by
  unfold seatEvent event
  rw [taking_awake h.toAwake, handEvent_eq h]
  cases hi : seatOf m.seats seat with
  | none => exact congrArg _ (dirAfter_still rfl rfl rfl rfl)
  | some i =>
    dsimp only
    rw [unfit i (names_of_seatOf hi)]
    exact congrArg _ (dirAfter_still rfl rfl rfl rfl)

theorem giveEvent_ignored (h : ∀ o, s.offer (selectedChan m (s.booth b)) = some o →
    ¬ (isLive (s.seat b k) = true ∧ o.holdBooth = b ∧ o.holdSeat = k)) : giveEvent b m k s = s := by
  unfold giveEvent
  dsimp only
  split
  · next o ho => exact if_neg fun e => h o ho (by simpa [and_assoc] using e)
  · rfl

theorem seatOffEvent_off (h : s.seat b k = .off) : seatOffEvent b m k s = s := by
  unfold seatOffEvent
  rw [h]

/-- The end of a window that was voided, or of none. -/
theorem closeWindow_voided (h : s.gen.cycle = .window b true) (f : Booth → State → State) :
    closeWindow f s = { s with gen.cycle := .idle } := by
  unfold closeWindow
  rw [h]
  rfl

theorem closeWindow_none (h : ∀ b v, s.gen.cycle ≠ .window b v) (f : Booth → State → State) : closeWindow f s = s := by
  unfold closeWindow
  split
  · next b v e => exact absurd e (h b v)
  · rfl

/-- The events of a booth that has left PRESENT. -/
theorem handEvent_absent {e : ReplyEvent} {rest : List ReplyEvent} (h : s.gen.cycle = .handing b (e :: rest))
    (gone : (s.booth b).presence ≠ .present) (f : BoothSettings → State → State) :
    handEvent b e f s = { s with gen.cycle := .idle } := by
  unfold handEvent
  rw [h]
  dsimp only
  rw [if_pos ⟨rfl, rfl⟩, if_neg gone]

/-- Settles O19. -/
theorem unfitEventsAreIgnored : Obligations.UnfitEventsAreIgnored := by
  refine ⟨fun s b m seat rest => ⟨fun h unfit => ?_, fun h unfit => ?_, fun h unfit => ?_, fun h unfit => ?_, fun h unfit => ?_⟩,
    fun s b bytes awake window => ⟨?_, ?_⟩, fun s bytes awake closed => ⟨?_, ?_⟩, fun s b e rest awake cycle gone => ?_⟩
  · exact h.seat_ignored (f := seatOnEvent) fun k names => if_neg (unfit k names)
  · exact h.seat_ignored (f := seatOffEvent) fun k names => seatOffEvent_off (s := handed s b rest) (unfit k names)
  · exact h.seat_ignored (f := coughDownEvent) fun k names => if_neg (unfit k names)
  · exact h.seat_ignored (f := coughUpEvent) fun k names => if_neg (unfit k names)
  · exact h.seat_ignored (f := giveEvent) fun k names => giveEvent_ignored (s := handed s b rest) fun o ho => unfit k o names ho
  · dsimp only [exec, execBoothReply]
    rw [taking_awake awake]
    unfold event
    rw [closeWindow_voided window]
    exact congrArg _ (dirAfter_still rfl rfl rfl rfl)
  · dsimp only [exec, execReplyWindowExpiry]
    rw [taking_awake awake]
    unfold event
    rw [closeWindow_voided window]
    exact congrArg _ (dirAfter_still rfl rfl rfl rfl)
  · dsimp only [exec, execBoothReply]
    rw [taking_awake awake]
    unfold event
    rw [closeWindow_none closed, dirAfter_self]
  · dsimp only [exec, execReplyWindowExpiry]
    rw [taking_awake awake]
    unfold event
    rw [closeWindow_none closed, dirAfter_self]
  · have discarded : ∀ f : BoothSettings → State → State,
        taking (event (handEvent b e f)) s = .next { s with gen.cycle := .idle } := fun f => by
      rw [taking_awake awake]
      unfold event
      rw [handEvent_absent cycle gone]
      exact congrArg _ (dirAfter_still rfl rfl rfl rfl)
    cases e <;> exact discarded _

/-! ## The end of a live turn (R49, R64) -/

theorem releaseNotices_putSeat (b : Booth) (k : Seat) (x : SeatState) (s : State) :
    releaseNotices (putSeat b k x s) c = releaseNotices s c :=
  releaseNotices_of_moves (putSeat_moves b k x s) (putSeat_deeds b k x s).chosen c

theorem endTurn_says (b : Booth) (k : Seat) (c : Chan) (manner : Manner) (s : State) : Says (match s.offer c with
    | some o => [passNotice s c o manner]
    | none => releaseNotices s c) s (endTurn b k c manner s) := by
  have told := (putSeat_hush b k .off s).says.trans (settleChan_says c manner (putSeat b k .off s))
  rw [putSeat_offer, List.nil_append] at told
  unfold endTurn
  cases ho : s.offer c with
  | none =>
    rw [ho] at told
    dsimp only at told ⊢
    rwa [releaseNotices_putSeat] at told
  | some o =>
    rw [ho] at told
    dsimp only at told ⊢
    rwa [passNotice_of_moves (putSeat_moves b k .off s)] at told

theorem endTurn_played (b : Booth) (k : Seat) (c : Chan) (manner : Manner) (s : State) : Played (match s.offer c with
    | some o => [passNotice s c o manner]
    | none => releaseNotices s c) ((scene s).quit b k c (released s c)) s (endTurn b k c manner s) :=
  .of_deeds (endTurn_deeds b k c manner s) (endTurn_says b k c manner s) (scene_endTurn b k c manner s)

/-- A live seat is not the one that waits for its channel. -/
theorem HallAgrees.not_waiting (h : HallAgrees s) {o : Offer} (ho : s.offer c = some o) (live : isLive (s.seat b k) = true) :
    ¬ (b = o.waitBooth ∧ k = o.waitSeat) := by
  rintro ⟨rfl, rfl⟩
  rw [h.waiting ho] at live
  cases live

/-- The scene that the end of a live turn leaves. -/
theorem Played.turnEnded {manner : Manner} {ind : Booth → Option Indication} (agrees : HallAgrees s) (live : isLive (s.seat b k) = true)
    {T : Scene} (played : Played (match s.offer c with
      | some o => [passNotice s c o manner]
      | none => releaseNotices s c) T s t)
    (chan : T.chan = ((Machine.scene s).quit b k c (released s c)).chan) (seat : T.seat = ((Machine.scene s).quit b k c (released s c)).seat)
    (acc : T.acc = ((Machine.scene s).quit b k c (released s c)).acc) (offer : T.offer = ((Machine.scene s).quit b k c (released s c)).offer)
    (booth : ∀ d, T.booth d = { plain (s.booth d) with indication := ind d }) : TurnEnded b k c manner ind s t := by
  unfold Scene.quit at chan seat acc offer
  unfold TurnEnded
  have offers : (Machine.scene s).offer c = s.offer c := rfl
  rw [offers] at chan seat acc offer
  refine ⟨played.only, ?_, ?_⟩
  · cases ho : s.offer c with
    | none =>
      rw [ho] at offer
      exact played.offerMoved (offer ▸ ho) fun d _ => congrFun offer d
    | some o =>
      rw [ho] at offer
      exact played.offerMoved (offer ▸ if_pos rfl) fun d hd => (congrFun offer d).trans (if_neg hd)
  · cases ho : s.offer c with
    | none =>
      rw [ho] at chan seat acc played
      refine ⟨played.seatsMoved (fun d j => congrFun (congrFun seat d) j) booth, played.turnsRaised fun d j => ?_,
        played.chanMoved ((congrFun chan c).trans (if_pos rfl)) fun d hd => (congrFun chan d).trans (if_neg hd), played.heard⟩
      exact congrFun (congrFun acc d) j
    | some o =>
      rw [ho] at chan seat acc played
      refine ⟨played.seatsMoved (fun d j => (congrFun (congrFun seat d) j).trans ?_) booth, played.turnsRaised fun d j => ?_,
        played.chanMoved ((congrFun chan c).trans (if_pos rfl)) fun d hd => (congrFun chan d).trans (if_neg hd), played.heard⟩
      · show (if d = o.waitBooth ∧ j = o.waitSeat then SeatState.live else if d = b ∧ j = k then .off else s.seat d j) = _
        by_cases own : d = b ∧ j = k
        · have apart : ¬ (d = o.waitBooth ∧ j = o.waitSeat) := by
            rw [own.1, own.2]
            exact agrees.not_waiting ho live
          rw [if_neg apart, if_pos own, if_pos own]
        · rw [if_neg own, if_neg own]
      · refine (congrFun (congrFun acc d) j).trans ((rise_acc (Machine.scene s) o.waitBooth o.waitSeat d j).trans ?_)
        simp only [List.mem_singleton, Prod.mk.injEq]
        rfl

theorem quit_booth (S : Scene) (b : Booth) (k : Seat) (c : Chan) (y : ChanLive) : (S.quit b k c y).booth = S.booth := by
  unfold Scene.quit
  split <;> rfl

theorem endTurn_ended (agrees : HallAgrees s) (live : isLive (s.seat b k) = true) (c : Chan) (manner : Manner) (before : State) :
    TurnEnded b k c manner (fun d => (s.booth d).indication) s (dirAfter before (endTurn b k c manner s)) :=
  Played.turnEnded agrees live ((endTurn_played b k c manner s).after before) rfl rfl rfl rfl
    fun d => congrFun (quit_booth (scene s) b k c (released s c)) d

/-! ## SEAT_OFF and GIVE (R50, R65, R66) -/

theorem seatOffEvent_live (live : isLive (s.seat b k) = true) :
    seatOffEvent b m k s = endTurn b k (selectedChan m (s.booth b)) .turnEnd s := by
  unfold seatOffEvent
  cases e : s.seat b k <;> rw [e] at live <;> first | rfl | cases live

/-- The offer for which a seat waits is found. -/
theorem seatOffer_found (agrees : HallAgrees s) (waits : s.seat b k = .waiting) :
    ∃ c o, seatOffer s b k = some c ∧ s.offer c = some o ∧ o.waitBooth = b ∧ o.waitSeat = k := by
  have meets : ∀ c, (match s.offer c with | some o => o.waitBooth == b && o.waitSeat == k | none => false) = true →
      ∃ o, s.offer c = some o ∧ o.waitBooth = b ∧ o.waitSeat = k := fun c hc => by
    cases ho : s.offer c with
    | none => rw [ho] at hc; cases hc
    | some o =>
      rw [ho] at hc
      obtain ⟨booth, seat⟩ := Bool.and_eq_true_iff.mp hc
      exact ⟨o, rfl, eq_of_beq booth, eq_of_beq seat⟩
  cases found : seatOffer s b k with
  | some c =>
    obtain ⟨o, offer⟩ := meets c (List.find?_some (p := fun c => match s.offer c with
      | some o => o.waitBooth == b && o.waitSeat == k | none => false) found)
    exact ⟨c, o, rfl, offer⟩
  | none =>
    obtain ⟨c, o, ho, rfl, rfl⟩ := agrees.waitingOffered b k waits
    have misses := List.find?_eq_none.mp found c (List.mem_finRange c)
    rw [ho] at misses
    simp at misses

theorem withdrawOffer_still {o : Offer} (ho : s.offer c = some o) (mutes : MuteAgrees s o.waitBooth)
    (waits : s.seat o.waitBooth o.waitSeat = .waiting) :
    withdrawOffer c s = (s.setOffer c none).setSeat o.waitBooth o.waitSeat .off := by
  unfold withdrawOffer
  rw [ho]
  refine putSeat_still mutes ?_ SeatState.noConfusion
  rw [State.setOffer_read_seat, waits]
  exact SeatState.noConfusion

theorem giveEvent_live {o : Offer} (live : isLive (s.seat b k) = true) (ho : s.offer (selectedChan m (s.booth b)) = some o)
    (holds : (o.holdBooth, o.holdSeat) = (b, k)) :
    giveEvent b m k s = endTurn b k (selectedChan m (s.booth b)) .give s := by
  obtain ⟨rfl, rfl⟩ := Prod.mk.inj holds
  unfold giveEvent
  dsimp only
  rw [ho]
  exact if_pos (by simp [live])

theorem HallAgrees.handed (h : HallAgrees s) {rest : List ReplyEvent} : HallAgrees (handed s b rest) where
  unassigned := h.unassigned
  covered := h.covered
  holderLive := h.holderLive
  liveHolds := h.liveHolds
  offerHeld := h.offerHeld
  waitingOffered := h.waitingOffered
  mutes := h.mutes

/-- Settles O21. -/
theorem seatOffAndGive : Obligations.SeatOffAndGive := by
  intro s b m seat k rest names agrees _
  refine ⟨fun handing live => ⟨_, handing.seat names seatOffEvent, ?_⟩, fun handing waits => ?_,
    fun handing live offers => ⟨_, handing.seat names giveEvent, ?_⟩⟩
  · rw [seatOffEvent_live (s := handed s b rest) live]
    exact endTurn_ended (s := handed s b rest) (k := k) agrees.handed live _ _ s
  · obtain ⟨c, o, found, ho, rfl, rfl⟩ := seatOffer_found agrees waits
    refine ⟨c, _, handing.seat names seatOffEvent, by rw [ho]; rfl, ?_⟩
    have withdrawn : seatOffEvent o.waitBooth m o.waitSeat (handed s o.waitBooth rest) =
        withdrawOffer c (handed s o.waitBooth rest) := by
      unfold seatOffEvent
      rw [show (handed s o.waitBooth rest).seat o.waitBooth o.waitSeat = .waiting from waits,
        show seatOffer (handed s o.waitBooth rest) o.waitBooth o.waitSeat = some c from found]
    rw [withdrawn, withdrawOffer_still (s := handed s o.waitBooth rest) ho (agrees.mutes _) waits]
    exact dirAfter_still rfl rfl rfl rfl
  · obtain ⟨o, ho, holds⟩ := Option.map_eq_some_iff.mp offers
    rw [giveEvent_live (s := handed s b rest) live ho holds]
    exact endTurn_ended (s := handed s b rest) (k := k) agrees.handed live _ _ s

/-! ## The expiry of an offer (R68, R69, R70) -/

theorem HallAgrees.taken (h : HallAgrees s) (due : List Due) : HallAgrees { s with gen.due := due } where
  unassigned := h.unassigned
  covered := h.covered
  holderLive := h.holderLive
  liveHolds := h.liveHolds
  offerHeld := h.offerHeld
  waitingOffered := h.waitingOffered
  mutes := h.mutes

theorem runDue_offer {o : Offer} (ho : s.offer c = some o) (spent : o.remaining = 0) :
    runDue (.offer c) s = dirAfter s (expireOffer c o s) := by
  unfold runDue
  dsimp only
  rw [ho]
  exact if_pos spent

theorem expireOffer_timed {o : Offer} (hm : s.boothSettings o.holdBooth = some m) (forced : o.kind = .inBooth ∧ m.mode = .timed) :
    expireOffer c o s = endTurn o.holdBooth o.holdSeat c .expiry s := by
  unfold expireOffer
  rw [hm, forced.1, Option.map_some, forced.2]

theorem expireOffer_lapse {o : Offer} (hm : s.boothSettings o.holdBooth = some m)
    (free : ¬ (o.kind = .inBooth ∧ m.mode = .timed)) : expireOffer c o s = lapse c o s := by
  unfold expireOffer
  rw [hm, Option.map_some]
  split
  · next e w => exact absurd ⟨e, Option.some.inj w⟩ free
  · rfl

theorem lapse_played (c : Chan) (o : Offer) (s : State) :
    Played [.handoverLapsed c (chanTag s c) o.kind o.waitBooth o.waitSeat o.holdBooth o.holdSeat]
      (((scene s).bid c none).sit o.waitBooth o.waitSeat .off |>.light o.waitBooth (some .lapsed)) s (lapse c o s) := by
  refine .of_deeds (lapse_deeds c o s) ?_ ?_
  · unfold lapse
    dsimp only
    have hush := ((setOffer_hush c none s).trans (putSeat_hush o.waitBooth o.waitSeat .off _)).trans
      (indicate_hush o.waitBooth (some .lapsed) _)
    have moves := ((Moves.offer c none .refl).trans (putSeat_moves o.waitBooth o.waitSeat .off (s.setOffer c none))).trans
      (indicate_moves o.waitBooth (some .lapsed) _)
    generalize indicate o.waitBooth (some .lapsed) (putSeat o.waitBooth o.waitSeat .off (s.setOffer c none)) = t at hush moves
    rw [moves.chanTag]
    exact hush.says.trans (notify_says _ t)
  · unfold lapse
    dsimp only
    rw [scene_notify, scene_indicate, scene_putSeat, scene_setOffer]

/-- An event of the hall that leaves the channels leaves the directory. -/
theorem Played.still (played : Played l S s t) (moves : Moves s t) (same : S.chan = s.chan) : dirAfter s t = t :=
  dirAfter_still (played.chans same) (by rw [moves.keeps]) (by rw [moves.keeps]) moves.override

/-- Settles O24. -/
theorem offerExpires : Obligations.OfferExpires := by
  intro s c o m running agrees _ due ho spent hm
  have exec := takeOne_due running due
  have agrees' := agrees.taken (s.gen.due.erase (.offer c))
  have reads : ∀ v : State, v = { s with gen.due := s.gen.due.erase (.offer c) } → scene v = scene s ∧ v.ret = s.ret ∧
      v.gen.chans = s.gen.chans ∧ (∀ b, v.booth b = s.booth b) ∧ (∀ l t, Notified l v t → Notified l s t) ∧
      v.offer = s.offer ∧ v.boothSettings = s.boothSettings ∧ chanTag v c = chanTag s c := by
    rintro v rfl
    exact ⟨rfl, rfl, rfl, fun _ => rfl, fun _ _ h => h, rfl, rfl, rfl⟩
  generalize hv : ({ s with gen.due := s.gen.due.erase (.offer c) } : State) = v at exec agrees'
  obtain ⟨scenes, ret, chans, booths, heard, offer, settings, tag⟩ := reads v hv.symm
  have ho' : v.offer c = some o := offer ▸ ho
  have hm' : v.boothSettings o.holdBooth = some m := settings ▸ hm
  rw [runDue_offer ho' spent] at exec
  refine ⟨fun forced => ⟨_, exec, ?_⟩, fun free => ⟨_, exec, ?_⟩⟩
  · rw [expireOffer_timed hm' forced]
    have live : isLive (v.seat o.holdBooth o.holdSeat) = true :=
      (agrees'.holderLive c _ _ (agrees'.offerHeld c o ho').1).1
    have ended := endTurn_ended agrees' live c .expiry v
    simp only [booths] at ended
    exact ended
  · rw [expireOffer_lapse hm' free]
    have played := lapse_played c o v
    have moves := lapse_moves c o v
    rw [played.still moves rfl]
    generalize lapse c o v = t at played moves
    have acc := played.seatAcc rfl
    rw [scenes, tag] at played
    refine ⟨?_, ?_, (played.chans (congrArg Scene.chan scenes.symm)).trans chans, ?_, heard _ _ played.heard, played.only⟩
    · subst hv
      exact played.seatsMoved (fun d j => rfl) fun d => light_booth (scene s) o.waitBooth (some .lapsed) d
    · subst hv
      exact played.offerMoved (if_pos rfl) fun d hd => if_neg hd
    · rw [moves.ret, acc, ← ret]

end Sys2Proof.Machine
end

section
/-! PROOF. OUTPUT_SELECT in a booth with no live seat: what the withdrawal of a booth's offers leaves (O22). -/

namespace Sys2Proof.Machine
open Sys2Proof

variable {s t u : State} {b d : Booth} {k j : Seat} {m : BoothSettings} {c : Chan} {l : List NoticeBody} {S : Scene}

/-! ## The offers of a booth's waiting seats (R66) -/

/-- Every offer has its own waiting seat, and the mute states agree. -/
structure Waits (s : State) : Prop where
  waits : ∀ c o, s.offer c = some o → s.seat o.waitBooth o.waitSeat = .waiting
  once : ∀ c d o p, s.offer c = some o → s.offer d = some p → (o.waitBooth, o.waitSeat) = (p.waitBooth, p.waitSeat) → c = d
  mutes : ∀ b, MuteAgrees s b

theorem HallAgrees.toWaits (h : HallAgrees s) : Waits s where
  waits c o ho := h.waiting ho
  once c d o p ho hp same := by
    obtain ⟨_, _, ⟨m, hm, hc⟩, _⟩ := h.offerHeld c o ho
    obtain ⟨_, _, ⟨n, hn, hd⟩, _⟩ := h.offerHeld d p hp
    obtain ⟨booth, _⟩ := Prod.mk.inj same
    rw [← booth] at hn hd
    cases hm.symm.trans hn
    exact hc.symm.trans hd
  mutes := h.mutes

/-- A write of one booth's seats and of offers alone. -/
def SeatsAndOffers (b : Booth) (s t : State) : Prop := ∃ seats offers, t = { s with
  gen.booths := s.gen.booths.set b { s.booth b with seats := seats }, gen.offers := offers }

theorem SeatsAndOffers.refl (b : Booth) (s : State) : SeatsAndOffers b s s := by
  refine ⟨(s.booth b).seats, s.gen.offers, ?_⟩
  rw [show ({ s.booth b with seats := (s.booth b).seats } : BoothLive) = s.gen.booths.get b from rfl, Bank.set_get]

theorem SeatsAndOffers.trans (h : SeatsAndOffers b s t) (k : SeatsAndOffers b t u) : SeatsAndOffers b s u := by
  obtain ⟨_, _, rfl⟩ := h
  obtain ⟨seats, offers, rfl⟩ := k
  refine ⟨seats, offers, ?_⟩
  unfold State.booth
  simp only [Bank.set_set, Bank.get_set_same]

theorem withdrawn_shape (c : Chan) (b : Booth) (k : Seat) (s : State) :
    SeatsAndOffers b s ((s.setOffer c none).setSeat b k .off) := ⟨_, _, rfl⟩

theorem Waits.withdrawn {o : Offer} (h : Waits s) (ho : s.offer c = some o) :
    Waits ((s.setOffer c none).setSeat o.waitBooth o.waitSeat .off) := by
  have offers : ∀ d, ((s.setOffer c none).setSeat o.waitBooth o.waitSeat .off).offer d = if d = c then none else s.offer d :=
    fun d => by rw [State.setSeat_read_offer, State.setOffer_offer]; simp only [eq_comm]
  refine ⟨fun d p hp => ?_, fun d e p q hp hq same => ?_, fun b => ?_⟩
  · rw [offers] at hp
    split at hp
    · cases hp
    · next other =>
      rw [State.setSeat_seat, if_neg]
      · exact h.waits d p hp
      · exact fun same => other (h.once d c p o hp ho (Prod.ext same.1.symm same.2.symm))
  · rw [offers] at hp hq
    split at hp
    · cases hp
    · split at hq
      · cases hq
      · exact h.once d e p q hp hq same
  · rw [← withdrawOffer_still ho (h.mutes _) (h.waits c o ho)]
    exact (withdrawOffer_deeds c s).mutes (h.mutes b)

/-- The withdrawal of a booth's offers writes its seats and offers, and places no mute order. -/
theorem withdrawAll_shape (h : Waits s) (b : Booth) : SeatsAndOffers b s (withdrawAll b s) := by
  unfold withdrawAll
  have own : ∀ c ∈ waitingChans s b, ∀ o, s.offer c = some o → o.waitBooth = b := fun c hc o ho => by
    obtain ⟨p, hp, e⟩ := mem_waitingChans.mp hc
    cases ho.symm.trans hp
    exact e
  generalize waitingChans s b = cs at own
  induction cs generalizing s with
  | nil => exact .refl b s
  | cons c cs ih =>
    rw [List.foldl_cons]
    cases ho : s.offer c with
    | none =>
      have same : withdrawOffer c s = s := by unfold withdrawOffer; rw [ho]
      rw [same]
      exact ih h fun d hd => own d (List.mem_cons_of_mem _ hd)
    | some o =>
      have e : o.waitBooth = b := own c List.mem_cons_self o ho
      rw [withdrawOffer_still ho (h.mutes _) (h.waits c o ho)]
      refine .trans (e ▸ withdrawn_shape c o.waitBooth o.waitSeat s) (ih (h.withdrawn ho) fun d hd p hp => ?_)
      rw [State.setSeat_read_offer, State.setOffer_offer] at hp
      split at hp
      · cases hp
      · exact own d (List.mem_cons_of_mem _ hd) p hp

theorem foldl_withdraw_seat (cs : List Chan) (S : Scene) : (cs.foldl Scene.withdraw S).seat d j =
    if ∃ c ∈ cs, (S.offer c).map (fun o => (o.waitBooth, o.waitSeat)) = some (d, j) then .off else S.seat d j := by
  induction cs generalizing S with
  | nil => simp
  | cons c cs ih =>
    rw [List.foldl_cons, ih, Scene.withdraw_seat]
    by_cases now : (S.offer c).map (fun o => (o.waitBooth, o.waitSeat)) = some (d, j)
    · rw [if_pos now, ite_self, if_pos ⟨c, List.mem_cons_self, now⟩]
    · rw [if_neg now]
      refine if_congr ⟨fun ⟨e, he, w⟩ => ?_, fun ⟨e, he, w⟩ => ?_⟩ rfl rfl
      · rw [Scene.withdraw_offer] at w
        split at w
        · cases w
        · exact ⟨e, List.mem_cons_of_mem _ he, w⟩
      · rcases List.mem_cons.mp he with rfl | he
        · exact absurd w now
        · refine ⟨e, he, ?_⟩
          rw [Scene.withdraw_offer, if_neg]
          · exact w
          · rintro rfl
            exact now w

theorem withdrawAll_offer (b : Booth) (s : State) (c : Chan) :
    (withdrawAll b s).offer c = (s.offer c).filter (fun o => o.waitBooth != b) := by
  have read : (withdrawAll b s).offer c = if c ∈ waitingChans s b then none else s.offer c :=
    (congrFun (congrArg Scene.offer (scene_withdrawAll b s)) c).trans (Scene.foldl_withdraw_offer _ (scene s) c)
  rw [read]
  cases ho : s.offer c with
  | none => exact ite_self ..
  | some o =>
    by_cases own : o.waitBooth = b
    · rw [if_pos (mem_waitingChans.mpr ⟨o, ho, own⟩)]
      exact (if_neg (by simp [own])).symm
    · rw [if_neg fun w => ?_]
      · exact (if_pos (by simp [own])).symm
      · obtain ⟨p, hp, e⟩ := mem_waitingChans.mp w
        cases ho.symm.trans hp
        exact own e

/-- The seats of the booth that waited are OFF. -/
theorem withdrawAll_seat (waits : ∀ c o, s.offer c = some o → s.seat o.waitBooth o.waitSeat = .waiting)
    (offered : ∀ k, s.seat b k = .waiting → ∃ c o, s.offer c = some o ∧ o.waitBooth = b ∧ o.waitSeat = k) :
    (withdrawAll b s).seat d j = if d = b ∧ s.seat d j = .waiting then .off else s.seat d j := by
  have read : (withdrawAll b s).seat d j = _ :=
    (congrFun (congrFun (congrArg Scene.seat (scene_withdrawAll b s)) d) j).trans (foldl_withdraw_seat _ (scene s))
  rw [read]
  refine if_congr ⟨fun ⟨c, hc, w⟩ => ?_, fun ⟨e, w⟩ => ?_⟩ rfl rfl
  · obtain ⟨o, ho, own⟩ := mem_waitingChans.mp hc
    rw [show (scene s).offer c = some o from ho] at w
    cases w
    exact ⟨own, waits c o ho⟩
  · subst e
    obtain ⟨c, o, ho, own, rfl⟩ := offered j w
    exact ⟨c, mem_waitingChans.mpr ⟨o, ho, own⟩, by rw [show (scene s).offer c = some o from ho, ← own]; rfl⟩

/-- A booth whose offers are withdrawn. -/
theorem withdrawAll_eq (h : Waits s)
    (offered : ∀ k, s.seat b k = .waiting → ∃ c o, s.offer c = some o ∧ o.waitBooth = b ∧ o.waitSeat = k) :
    withdrawAll b s = { s with
      gen.booths := s.gen.booths.set b
        { s.booth b with seats := (s.booth b).seats.map (fun x => if x = .waiting then .off else x) }
      gen.offers := s.gen.offers.map (fun o => o.filter (fun o => o.waitBooth != b)) } := by
  obtain ⟨x, y, shape⟩ := withdrawAll_shape h b
  have seats : ((withdrawAll b s).booth b).seats = (s.booth b).seats.map (fun x => if x = .waiting then .off else x) :=
    Bank.ext_get fun k => by
      rw [Bank.get_map]
      refine (withdrawAll_seat h.waits offered (d := b) (j := k)).trans (if_congr (and_iff_right rfl) rfl rfl)
  have offers : (withdrawAll b s).gen.offers = s.gen.offers.map (fun o => o.filter (fun o => o.waitBooth != b)) :=
    Bank.ext_get fun c => by
      rw [Bank.get_map]
      exact withdrawAll_offer b s c
  rw [shape] at seats offers
  rw [shape, ← offers, ← seats]
  unfold State.booth
  simp only [Bank.get_set_same]

/-! ## OUTPUT_SELECT in a booth with no live seat (R45) -/

theorem waitingChans_isEmpty_iff (h : Waits s)
    (offered : ∀ k, s.seat b k = .waiting → ∃ c o, s.offer c = some o ∧ o.waitBooth = b ∧ o.waitSeat = k) :
    (waitingChans s b).isEmpty = true ↔ ¬ ∃ k, s.seat b k = .waiting := by
  rw [List.isEmpty_iff, List.eq_nil_iff_forall_not_mem]
  constructor
  · rintro none ⟨k, waits⟩
    obtain ⟨c, o, ho, own, _⟩ := offered k waits
    exact none c (mem_waitingChans.mpr ⟨o, ho, own⟩)
  · intro none c hc
    obtain ⟨o, ho, rfl⟩ := mem_waitingChans.mp hc
    exact none ⟨o.waitSeat, h.waits c o ho⟩

theorem Waits.select (h : Waits s) (y : Side) : Waits (select b y s) := by
  have seat : ∀ d j, (Machine.select b y s).seat d j = s.seat d j := fun d j =>
    congrFun (congrFun (congrArg Scene.seat (scene_select b y s)) d) j
  refine ⟨fun c o ho => ?_, h.once, fun d => (select_deeds b y s).mutes (h.mutes d)⟩
  rw [seat]
  exact h.waits c o ho

theorem outputSelectEvent_ignored {y : Side} (h : (y = .b ∧ m.outputB = none) ∨ y = (s.booth b).selection) :
    outputSelectEvent b m y s = s := if_pos h

theorem outputSelectEvent_offAir {y : Side} (fits : ¬ ((y = .b ∧ m.outputB = none) ∨ y = (s.booth b).selection)) (free : NoneLive s b)
    (agrees : HallAgrees s) : outputSelectEvent b m y s = { s with
      gen.booths := s.gen.booths.set b { s.booth b with
        selection := y
        seats := (s.booth b).seats.map (fun x => if x = .waiting then .off else x)
        indication := if (∃ k, s.seat b k = .waiting) then some .withdrawn else (s.booth b).indication }
      gen.offers := s.gen.offers.map (fun o => o.filter (fun o => o.waitBooth != b)) } := by
  have seat : ∀ d j, (select b y s).seat d j = s.seat d j := fun d j =>
    congrFun (congrFun (congrArg Scene.seat (scene_select b y s)) d) j
  have offered : ∀ k, (select b y s).seat b k = .waiting → ∃ c o, (select b y s).offer c = some o ∧ o.waitBooth = b ∧ o.waitSeat = k :=
    fun k waits => agrees.waitingOffered b k ((seat b k).symm.trans waits)
  have withdrawn := withdrawAll_eq (agrees.toWaits.select (b := b) y) offered
  have empty := waitingChans_isEmpty_iff agrees.toWaits (agrees.waitingOffered b)
  have selected : (select b y s).booth b = { s.booth b with selection := y } := Bank.get_set_same ..
  unfold outputSelectEvent
  rw [if_neg fits, liveSeat_eq_none.mpr free]
  dsimp only
  by_cases idle : (waitingChans s b).isEmpty = true
  · have still : withdrawAll b (select b y s) = select b y s := by
      unfold withdrawAll
      rw [show waitingChans (select b y s) b = waitingChans s b from rfl, List.isEmpty_iff.mp idle]
      rfl
    rw [if_pos idle, ← still, withdrawn, selected, if_neg (empty.mp idle)]
    unfold select State.setBooth
    simp only [Bank.set_set]
  · rw [if_neg idle, withdrawn, selected, if_pos (Classical.not_not.mp (mt empty.mpr idle))]
    unfold indicate select State.setBooth State.booth
    simp only [Bank.set_set, Bank.get_set_same]

/-- Settles O22. -/
theorem outputSelectOffAir : Obligations.OutputSelectOffAir := by
  intro s b m y rest handing
  have exec : exec (.outputSelect b y) s = .next (dirAfter s (outputSelectEvent b m y (handed s b rest))) := by
    dsimp only [exec, execOutputSelect]
    unfold event
    rw [taking_awake handing.toAwake, handEvent_eq handing]
  refine ⟨fun unfit => ?_, fun other output free agrees => ?_⟩
  · rw [exec, outputSelectEvent_ignored (s := handed s b rest) unfit.symm]
    exact congrArg _ (dirAfter_still rfl rfl rfl rfl)
  · have fits : ¬ ((y = .b ∧ m.outputB = none) ∨ y = (s.booth b).selection) := by
      rintro (⟨e, none⟩ | e)
      · exact output e none
      · exact other e
    rw [exec, outputSelectEvent_offAir (s := handed s b rest) fits free agrees.handed]
    exact congrArg _ (dirAfter_still rfl rfl rfl rfl)

end Sys2Proof.Machine
end

section
/-! PROOF. OUTPUT_SELECT by a live seat: the channel taken and the channel left (O23). -/

namespace Sys2Proof.Machine
open Sys2Proof

variable {s t u : State} {b d : Booth} {k j : Seat} {m : BoothSettings} {c : Chan} {l : List NoticeBody} {S : Scene}

/-! ## The channel taken -/

/-- Seat `k` of booth `b` has taken `c`, from no holder or from one that is cut. -/
structure Claimed (b : Booth) (k : Seat) (c : Chan) (s t : State) : Prop where
  deeds : Deeds s t
  told : Says ((if (s.chan c).coverage = .uncovered then [.channelCovered c (chanTag s c) b k] else []) ++ cutNotices s c) s t
  taken : t.chan c = ⟨.covered, some ⟨b, k⟩, .booth b, (if (s.chan c).coverage = .covered then (s.chan c).remaining else 0),
    (if (s.chan c).coverage = .covered then (s.chan c).fresh else false)⟩
  others : ∀ d, d ≠ c → t.chan d = s.chan d
  offer : ∀ d, t.offer d = if d = c then none else s.offer d
  seat : ∀ d j, t.seat d j = match (s.chan c).holder with
    | some x => cutSeats s x (s.offer c) d j
    | none => s.seat d j
  acc : ∀ d j, t.acc d j = { s.acc d j with
    turns := if (d, j) ∈ cutTurns (s.offer c) then min 65535 ((s.acc d j).turns + 1) else (s.acc d j).turns }
  booth : ∀ d, plain (t.booth d) = { plain (s.booth d) with
    indication := if (s.chan c).holder.map Holder.booth = some d then some .cut else (s.booth d).indication }

theorem HallAgrees.no_holder (h : HallAgrees s) (free : (s.chan c).coverage = .holding ∨ (s.chan c).coverage = .uncovered) :
    (s.chan c).holder = none ∧ s.offer c = none := by
  have holder : (s.chan c).holder = none := by
    refine Option.not_isSome_iff_eq_none.mp fun some => ?_
    have covered := (h.covered c).mpr some
    rcases free with e | e <;> rw [e] at covered <;> cases covered
  refine ⟨holder, ?_⟩
  cases ho : s.offer c with
  | none => rfl
  | some o => rw [(h.offerHeld c o ho).1] at holder; cases holder

theorem turnStart_claimed (agrees : HallAgrees s) (free : (s.chan c).coverage = .holding ∨ (s.chan c).coverage = .uncovered)
    (b : Booth) (k : Seat) : Claimed b k c s (turnStart c ⟨b, k⟩ s) := by
  obtain ⟨holder, offer⟩ := agrees.no_holder free
  have uncovered : (s.chan c).coverage ≠ .covered := by rcases free with e | e <;> rw [e] <;> exact Coverage.noConfusion
  have told := turnStart_says c ⟨b, k⟩ s
  have deeds := turnStart_deeds c ⟨b, k⟩ s
  have moved := scene_turnStart c ⟨b, k⟩ s
  generalize turnStart c ⟨b, k⟩ s = t at told deeds moved
  have chans : ∀ d, t.chan d = if d = c then ⟨.covered, some ⟨b, k⟩, .booth b, 0, false⟩ else s.chan d :=
    fun d => congrFun (congrArg Scene.chan moved) d
  have seats : t.seat = s.seat := congrArg Scene.seat moved
  have accs : t.acc = s.acc := congrArg Scene.acc moved
  have offers : t.offer = s.offer := congrArg Scene.offer moved
  have booths : ∀ d, plain (t.booth d) = plain (s.booth d) :=
    fun d => congrFun (congrArg Scene.booth moved) d
  refine ⟨deeds, ?_, ?_, fun d hd => (chans d).trans (if_neg hd), fun d => ?_, fun d j => ?_, fun d j => ?_,
    fun d => ?_⟩
  · unfold cutNotices
    rw [offer, Option.toList_none, List.map_nil, List.append_nil]
    exact told
  · rw [chans, if_pos rfl, if_neg uncovered, if_neg uncovered]
  · rw [offers]
    split
    · next e => rw [e, offer]
    · rfl
  · rw [holder, seats]
  · rw [offer, accs]
    rfl
  · rw [holder, booths]
    rfl

/-- Under LAST no offer comes from another booth. -/
theorem HallAgrees.within {o : Offer} {x : Holder} (h : HallAgrees s) (holder : (s.chan c).holder = some x)
    (policy : (s.settings c).policy = .last) (ho : s.offer c = some o) : o.waitBooth = x.booth := by
  obtain ⟨held, _, _, inside, across⟩ := h.offerHeld c o ho
  cases held.symm.trans holder
  cases hk : o.kind with
  | inBooth => exact inside.mp hk
  | across => rw [across hk] at policy; cases policy

theorem claimLast_claimed {x : Holder} (agrees : HallAgrees s) (covered : (s.chan c).coverage = .covered)
    (holder : (s.chan c).holder = some x) (policy : (s.settings c).policy = .last) (b : Booth) (k : Seat) :
    Claimed b k c s (claimLast c x ⟨b, k⟩ s) := by
  have chans : ∀ d, (claimLast c x ⟨b, k⟩ s).chan d = ((scene s).oust c x ⟨b, k⟩).chan d :=
    fun d => congrFun (congrArg Scene.chan (scene_claimLast c x ⟨b, k⟩ s)) d
  refine ⟨claimLast_deeds c x ⟨b, k⟩ s, ?_, ?_, fun d hd => ?_, fun d => ?_, fun d j => ?_, fun d j => ?_, fun d => ?_⟩
  · rw [covered, if_neg Coverage.noConfusion, List.nil_append]
    exact claimLast_says c x ⟨b, k⟩ s
  · rw [chans, Scene.oust_chan, if_pos rfl, if_pos covered, if_pos covered, ← covered]
    rfl
  · rw [chans, Scene.oust_chan, if_neg hd]
    rfl
  · exact (congrFun (congrArg Scene.offer (scene_claimLast c x ⟨b, k⟩ s)) d).trans (Scene.oust_offer ..)
  · rw [holder]
    exact (congrFun (congrFun (congrArg Scene.seat (scene_claimLast c x ⟨b, k⟩ s)) d) j).trans (cutSeats_eq ..)
  · exact (congrFun (congrFun (congrArg Scene.acc (scene_claimLast c x ⟨b, k⟩ s)) d) j).trans (oust_acc ..)
  · refine (congrFun (congrArg Scene.booth (scene_claimLast c x ⟨b, k⟩ s)) d).trans ((oust_booth ..).trans ?_)
    have same : (d = x.booth ∨ (s.offer c).map Offer.waitBooth = some d) ↔ (s.chan c).holder.map Holder.booth = some d := by
      rw [holder, Option.map_some, Option.some_inj]
      refine ⟨fun own => own.elim Eq.symm fun w => ?_, fun e => .inl e.symm⟩
      obtain ⟨o, ho, e⟩ := Option.map_eq_some_iff.mp w
      exact (agrees.within holder policy ho).symm.trans e
    show { plain (s.booth d) with
      indication := if d = x.booth ∨ (s.offer c).map Offer.waitBooth = some d then some .cut else (s.booth d).indication } = _
    rw [if_congr same rfl rfl]

/-! ## The channel left -/

/-- What a booth says as it leaves `c` by an output switch. -/
def leftNotices (s : State) (c : Chan) : List NoticeBody :=
  match (s.offer c).filter (fun o => o.kind == .across) with
  | some o => [passNotice s c o .turnEnd]
  | none => releaseNotices s c

theorem across_filter {o : Offer} (h : o.kind = .across) : (some o).filter (fun o => o.kind == .across) = some o :=
  if_pos (by simp [h])

theorem inBooth_filter {o : Offer} (h : o.kind = .inBooth) : (some o).filter (fun o => o.kind == .across) = none :=
  if_neg (by simp [h])

theorem leaveChan_says (b : Booth) (c : Chan) (s : State) : Says (leftNotices s c) s (leaveChan b c s) := by
  unfold leaveChan leftNotices
  cases s.offer c with
  | none => exact turnEnd_says c s
  | some o =>
    cases hk : o.kind with
    | across =>
      rw [across_filter hk]
      dsimp only
      rw [hk]
      exact passOffer_says c o .turnEnd s
    | inBooth =>
      rw [inBooth_filter hk]
      dsimp only
      rw [hk]
      have hush := (withdrawOffer_hush c s).trans (indicate_hush b (some .withdrawn) _)
      have deeds := (withdrawOffer_deeds c s).trans (indicate_deeds b (some .withdrawn) _)
      rw [← releaseNotices_of_moves deeds.moves deeds.chosen]
      exact hush.says.trans (turnEnd_says c _)

theorem leave_booth (S : Scene) (b : Booth) (c : Chan) (y : ChanLive) (d : Booth) : (S.leave b c y).booth d = { S.booth d with
    indication := if d = b ∧ (S.offer c).map Offer.kind = some .inBooth then some .withdrawn else (S.booth d).indication } := by
  unfold Scene.leave
  cases S.offer c with
  | none => simp [Scene.cast]
  | some o =>
    cases hk : o.kind with
    | across => simp [hk, Scene.pass, Scene.hand, Scene.cast, Scene.rise, Scene.sit, Scene.tally, Scene.bid]
    | inBooth =>
      simp only [hk, Option.map_some, and_true]
      refine (light_booth (S.withdraw c) b (some .withdrawn) d).trans ?_
      rw [Scene.withdraw_booth]

theorem leave_acc (S : Scene) (b : Booth) (c : Chan) (y : ChanLive) (d : Booth) (j : Seat) :
    (S.leave b c y).acc d j = { S.acc d j with
      turns := if (d, j) ∈ cutTurns ((S.offer c).filter (fun o => o.kind == .across)) then min 65535 ((S.acc d j).turns + 1)
        else (S.acc d j).turns } := by
  unfold Scene.leave
  cases ho : S.offer c with
  | none => simp [Scene.cast, cutTurns]
  | some o =>
    cases hk : o.kind with
    | across =>
      rw [across_filter hk]
      simp only [hk, cutTurns, Option.toList_some, List.map_cons, List.map_nil, List.mem_singleton, Prod.mk.injEq]
      exact rise_acc S o.waitBooth o.waitSeat d j
    | inBooth =>
      rw [inBooth_filter hk]
      simp only [hk, cutTurns, Option.toList_none, List.map_nil, List.not_mem_nil, if_false]
      show (S.withdraw c).acc d j = S.acc d j
      unfold Scene.withdraw
      rw [ho]
      rfl

/-! ## The switch -/

theorem outputSwitch_unassigned {y : Side} {c₁ : Chan} (h : (s.chan c).coverage = .unassigned) :
    outputSwitch b k c₁ c y s = indicate b (some .noChannel) s := by
  unfold outputSwitch
  rw [h]

theorem outputSwitch_engaged {x : Holder} {y : Side} {c₁ : Chan} (covered : (s.chan c).coverage = .covered)
    (holder : (s.chan c).holder = some x) (policy : (s.settings c).policy ≠ .last) :
    outputSwitch b k c₁ c y s = indicate b (some .engaged) s := by
  unfold outputSwitch
  rw [covered, holder]
  dsimp only
  split
  · contradiction
  · rfl

/-- A switch that takes `c` leaves `c₁`. -/
theorem outputSwitch_takes (agrees : HallAgrees s) {y : Side} (c₁ : Chan) (takes : (s.chan c).coverage = .holding ∨
    (s.chan c).coverage = .uncovered ∨ ((s.chan c).coverage = .covered ∧ (s.settings c).policy = .last)) :
    ∃ w, Claimed b k c s w ∧ outputSwitch b k c₁ c y s = leaveChan b c₁ (select b y w) := by
  unfold outputSwitch
  rcases takes with holding | uncovered | ⟨covered, policy⟩
  · rw [holding]
    exact ⟨_, turnStart_claimed agrees (.inl holding) b k, rfl⟩
  · rw [uncovered]
    exact ⟨_, turnStart_claimed agrees (.inr uncovered) b k, rfl⟩
  · obtain ⟨x, holder⟩ := Option.isSome_iff_exists.mp ((agrees.covered c).mp covered)
    rw [covered, holder]
    dsimp only
    rw [policy]
    exact ⟨_, claimLast_claimed agrees covered holder policy b k, rfl⟩

section
variable {w : State} {y : Side} {c₁ c₂ : Chan}

theorem leftNotices_of_deeds (deeds : Deeds s t) (offer : t.offer c = s.offer c) : leftNotices t c = leftNotices s c := by
  unfold leftNotices
  rw [offer]
  split
  · rw [passNotice_of_moves deeds.moves]
  · rw [releaseNotices_of_moves deeds.moves deeds.chosen]

/-- The scene once booth `b`, in the claim's outcome `w`, has selected output `y` and left `c₁`. -/
def switched (b : Booth) (y : Side) (c₁ : Chan) (s w : State) : Scene :=
  ((scene w).turnTo b y).leave b c₁ (released s c₁)

theorem Claimed.switch (claimed : Claimed b k c₂ s w) (ne : c₁ ≠ c₂) (y : Side) :
    Played ((if (s.chan c₂).coverage = .uncovered then [.channelCovered c₂ (chanTag s c₂) b k] else []) ++ cutNotices s c₂ ++
      leftNotices s c₁) (switched b y c₁ s w) s (leaveChan b c₁ (select b y w)) := by
  have deeds := claimed.deeds.trans (select_deeds b y w)
  have offer : (select b y w).offer c₁ = s.offer c₁ := (claimed.offer c₁).trans (if_neg ne)
  have left : released (select b y w) c₁ = released s c₁ :=
    released_congr (deeds.moves.settings c₁) (congrArg ChanLive.source (claimed.others c₁ ne))
  refine .of_deeds (deeds.trans (leaveChan_deeds b c₁ _)) ?_ ?_
  · have told := (claimed.told.trans (select_hush b y w).says).trans (leaveChan_says b c₁ (select b y w))
    rw [List.append_nil, leftNotices_of_deeds deeds offer] at told
    exact told
  · rw [scene_leaveChan, scene_select, left]
    rfl

/-- What a switch finds: the live seat holds the channel left, which is not the one taken, and no other booth holds it. -/
structure Switching (b : Booth) (k : Seat) (c₁ c₂ : Chan) (s : State) : Prop where
  agrees : HallAgrees s
  holds : (s.chan c₁).holder = some ⟨b, k⟩
  apart : c₁ ≠ c₂

theorem HallAgrees.switching (agrees : HallAgrees s) (hm : s.boothSettings b = some m) (live : isLive (s.seat b k) = true)
    (ne : selectedChan m (s.booth b) ≠ c₂) : Switching b k (selectedChan m (s.booth b)) c₂ s := by
  obtain ⟨n, hn, holder⟩ := agrees.liveHolds b k live
  cases hm.symm.trans hn
  exact ⟨agrees, holder, ne⟩

/-- The holder of the channel taken is of another booth. -/
theorem Switching.holder_other (h : Switching b k c₁ c₂ s) : (s.chan c₂).holder.map Holder.booth ≠ some b := by
  rintro own
  obtain ⟨⟨_, j⟩, hx, rfl⟩ := Option.map_eq_some_iff.mp own
  obtain ⟨_, m, hm, faces⟩ := h.agrees.holderLive c₁ _ k h.holds
  obtain ⟨_, n, hn, faced⟩ := h.agrees.holderLive c₂ _ j hx
  cases hm.symm.trans hn
  exact h.apart (faces.symm.trans faced)

/-- An offer on the channel left comes from within the booth exactly if it is an IN_BOOTH offer. -/
theorem Switching.offer_within (h : Switching b k c₁ c₂ s) {o : Offer} (ho : s.offer c₁ = some o) :
    o.kind = .inBooth ↔ o.waitBooth = b := by
  obtain ⟨held, _, _, within, _⟩ := h.agrees.offerHeld c₁ o ho
  cases held.symm.trans h.holds
  exact within

theorem Switching.left_chan (h : Switching b k c₁ c₂ s) (claimed : Claimed b k c₂ s w) (d : Chan) :
    (switched b y c₁ s w).chan d =
      if d = c₂ then ⟨.covered, some ⟨b, k⟩, .booth b, (if (s.chan c₂).coverage = .covered then (s.chan c₂).remaining else 0),
          (if (s.chan c₂).coverage = .covered then (s.chan c₂).fresh else false)⟩
      else if d = c₁ then
        (match s.offer c₁ with
          | some o => if o.kind = .across then passed s c₁ o else released s c₁
          | none => released s c₁)
      else s.chan d := by
  unfold switched
  rw [Scene.leave_chan]
  by_cases taken : d = c₂
  · rw [if_pos taken, if_neg (taken ▸ Ne.symm h.apart), taken]
    exact claimed.taken
  · rw [if_neg taken]
    refine if_congr Iff.rfl ?_ (claimed.others d taken)
    unfold Scene.leftTo
    rw [show ((scene w).turnTo b y).offer c₁ = s.offer c₁ from (claimed.offer c₁).trans (if_neg h.apart),
      show ((scene w).turnTo b y).chan c₁ = s.chan c₁ from claimed.others c₁ h.apart]
    cases s.offer c₁ with
    | none => rfl
    | some o =>
      dsimp only
      cases o.kind <;> rfl

theorem Switching.left_seat (h : Switching b k c₁ c₂ s) (claimed : Claimed b k c₂ s w) (d : Booth) (j : Seat) :
    (switched b y c₁ s w).seat d j =
      if (s.offer c₁).map (fun o => (o.waitBooth, o.waitSeat)) = some (d, j) then (if d = b then .off else .live)
      else match (s.chan c₂).holder with
        | some x => cutSeats s x (s.offer c₂) d j
        | none => s.seat d j := by
  unfold switched
  rw [Scene.leave_seat]
  have offer : ((scene w).turnTo b y).offer c₁ = s.offer c₁ := (claimed.offer c₁).trans (if_neg h.apart)
  unfold Scene.leftSeat
  rw [offer]
  cases ho : s.offer c₁ with
  | none =>
    rw [if_neg (by simp), if_neg (by simp)]
    exact claimed.seat d j
  | some o =>
    by_cases waits : o.waitBooth = d ∧ o.waitSeat = j
    · obtain ⟨rfl, rfl⟩ := waits
      rw [if_pos ⟨o, rfl, rfl, rfl⟩,
        if_pos (show (some o).map (fun o : Offer => (o.waitBooth, o.waitSeat)) = some (o.waitBooth, o.waitSeat) from rfl)]
      cases hk : o.kind with
      | inBooth =>
        rw [if_pos ((h.offer_within ho).mp hk)]
        exact if_neg (by rw [Option.map_some, hk]; exact nofun)
      | across =>
        refine (if_pos (by rw [Option.map_some, hk])).trans (if_neg fun own => ?_).symm
        rw [(h.offer_within ho).mpr own] at hk
        cases hk
    · rw [if_neg, if_neg]
      · exact claimed.seat d j
      · exact fun e => waits (Prod.mk.inj (Option.some.inj e))
      · rintro ⟨p, hp, same⟩
        cases hp
        exact waits same

theorem Switching.left_indication (h : Switching b k c₁ c₂ s) (claimed : Claimed b k c₂ s w) (d : Booth) :
    ((switched b y c₁ s w).booth d).indication =
      if d = b then (if (s.offer c₁).map Offer.kind = some .inBooth then some .withdrawn else (s.booth b).indication)
      else if (s.chan c₂).holder.map Holder.booth = some d then some .cut else (s.booth d).indication := by
  unfold switched
  rw [leave_booth, show ((scene w).turnTo b y).offer c₁ = s.offer c₁ from (claimed.offer c₁).trans (if_neg h.apart)]
  have before : (((scene w).turnTo b y).booth d).indication =
      if (s.chan c₂).holder.map Holder.booth = some d then some .cut else (s.booth d).indication := by
    refine Eq.trans ?_ (congrArg BoothLive.indication (claimed.booth d))
    unfold Scene.turnTo Scene.dress
    dsimp only
    split
    · next e => rw [e]; rfl
    · rfl
  dsimp only
  rw [before]
  by_cases own : d = b
  · subst own
    rw [if_pos rfl, if_neg h.holder_other, if_congr (and_iff_right rfl) rfl rfl]
  · rw [if_neg (fun e => own e.1), if_neg own]

theorem left_selection (claimed : Claimed b k c₂ s w) (d : Booth) :
    ((switched b y c₁ s w).booth d).selection = if d = b then y else (s.booth d).selection := by
  unfold switched
  rw [Scene.leave_selection]
  unfold Scene.turnTo Scene.dress
  dsimp only
  split
  · rfl
  · show (plain (w.booth d)).selection = (plain (s.booth d)).selection
    rw [claimed.booth]

theorem Switching.left_turns (h : Switching b k c₁ c₂ s) (claimed : Claimed b k c₂ s w) (d : Booth) (j : Seat) :
    (switched b y c₁ s w).acc d j = { s.acc d j with
      turns := if (d, j) ∈ cutTurns (s.offer c₂) ++ cutTurns ((s.offer c₁).filter (fun o => o.kind == .across)) then
        min 65535 ((s.acc d j).turns + 1) else (s.acc d j).turns } := by
  unfold switched
  rw [leave_acc, show ((scene w).turnTo b y).offer c₁ = s.offer c₁ from (claimed.offer c₁).trans (if_neg h.apart)]
  have before : ((scene w).turnTo b y).acc d j = _ := claimed.acc d j
  rw [before]
  by_cases later : (d, j) ∈ cutTurns ((s.offer c₁).filter (fun o => o.kind == .across))
  · have first : (d, j) ∉ cutTurns (s.offer c₂) := by
      intro both
      unfold cutTurns at both later
      obtain ⟨p, hp, e⟩ := List.mem_map.mp both
      obtain ⟨o, ho, e'⟩ := List.mem_map.mp later
      rw [Option.mem_toList] at hp ho
      exact h.apart (h.agrees.toWaits.once c₁ c₂ o p (Option.filter_eq_some_iff.mp ho).1 hp (e'.trans e.symm))
    rw [if_pos later, if_pos (List.mem_append_right _ later)]
    simp only [if_neg first]
  · rw [if_neg later]
    simp only [List.mem_append, later, or_false]

/-- The booth of the switch is muted as it was. -/
theorem Switching.left_muted (h : Switching b k c₁ c₂ s)
    (seat : ∀ j, t.seat b j = if (s.offer c₁).map (fun o => (o.waitBooth, o.waitSeat)) = some (b, j) then .off
      else match (s.chan c₂).holder with
        | some x => cutSeats s x (s.offer c₂) b j
        | none => s.seat b j)
    (within : ∀ o x, s.offer c₂ = some o → (s.chan c₂).holder = some x → o.waitBooth = x.booth)
    (mutes : MuteAgrees t b) : (t.booth b).muted = (s.booth b).muted := by
  rw [Bool.eq_iff_iff]
  refine mutes.trans (Iff.trans (exists_congr fun j => ?_) (h.agrees.mutes b).symm)
  rw [seat]
  have stands : (match (s.chan c₂).holder with
      | some x => cutSeats s x (s.offer c₂) b j
      | none => s.seat b j) = s.seat b j := by
    cases hx : (s.chan c₂).holder with
    | none => rfl
    | some x =>
      have other : x.booth ≠ b := fun e => h.holder_other (by rw [hx, ← e]; rfl)
      dsimp only
      unfold cutSeats
      rw [if_neg fun e => other e.1.symm]
      cases ho : s.offer c₂ with
      | none => rfl
      | some o => exact if_neg fun e => other (e.1.trans (within o x ho hx)).symm
  rw [stands]
  split
  · next waits =>
    obtain ⟨o, ho, e⟩ := Option.map_eq_some_iff.mp waits
    obtain ⟨rfl, rfl⟩ := Prod.mk.inj e
    rw [h.agrees.waiting ho]
    exact iff_of_false nofun nofun
  · rfl

end

/-- Settles O23. -/
theorem outputSwitchOnAir : Obligations.OutputSwitchOnAir := by
  rintro s b m y k rest _ _ handing other output live rfl rfl ne agrees _
  have exec : exec (.outputSelect b y) s = .next (dirAfter s (outputSwitch b k (selectedChan m (s.booth b)) (outputOf m y) y
      (handed s b rest))) := by
    have fits : ¬ ((y = .b ∧ m.outputB = none) ∨ y = (s.booth b).selection) := by
      rintro (⟨e, none⟩ | e)
      · exact output e none
      · exact other e
    dsimp only [exec, execOutputSelect]
    unfold event
    rw [taking_awake handing.toAwake, handEvent_eq handing]
    unfold outputSelectEvent
    rw [if_neg (by exact fits), agrees.handed.liveSeat (by exact live)]
    rfl
  have agrees' : HallAgrees (handed s b rest) := agrees.handed
  have switching : Switching b k (selectedChan m (s.booth b)) (outputOf m y) (handed s b rest) := agrees'.switching handing.settings live ne
  generalize selectedChan m (s.booth b) = c₁ at exec ne switching
  generalize outputOf m y = c₂ at exec ne switching
  refine ⟨fun unassigned => ?_, fun covered policy => ?_, fun takes => ?_⟩
  · rw [exec, outputSwitch_unassigned (s := handed s b rest) unassigned]
    exact congrArg _ (dirAfter_still rfl rfl rfl rfl)
  · obtain ⟨x, holder⟩ := Option.isSome_iff_exists.mp ((agrees.covered c₂).mp covered)
    rw [exec, outputSwitch_engaged (s := handed s b rest) covered holder policy]
    exact congrArg _ (dirAfter_still rfl rfl rfl rfl)
  · obtain ⟨w, claimed, e⟩ := outputSwitch_takes (k := k) (y := y) agrees' c₁ (by exact takes)
    rw [e] at exec
    have played := (claimed.switch ne y).after s
    have seat : ∀ d j, (dirAfter s (leaveChan b c₁ (select b y w))).seat d j = _ := fun d j =>
      (congrFun (congrFun (congrArg Scene.seat played.scene) d) j).trans (switching.left_seat claimed d j)
    refine ⟨_, exec, fun d => ?_, fun d => ?_, seat, fun d => ?_, ?_, fun d => played.mutes d (agrees.mutes d), fun d => ?_,
      played.turnsRaised (switching.left_turns claimed), played.heard, played.only⟩
    · exact (congrFun (congrArg Scene.chan played.scene) d).trans (switching.left_chan claimed d)
    · have offer : (dirAfter s (leaveChan b c₁ (select b y w))).offer d = if d = c₁ then none else w.offer d :=
        (congrFun (congrArg Scene.offer played.scene) d).trans (Scene.leave_offer ..)
      rw [offer, claimed.offer]
      by_cases left : d = c₁
      · rw [if_pos left, if_pos (.inl left)]
      · rw [if_neg left, if_congr (or_iff_right left) rfl rfl]
        rfl
    · exact (congrArg BoothLive.selection (congrFun (congrArg Scene.booth played.scene) d)).trans (left_selection claimed d)
    · refine switching.left_muted (fun j => (seat b j).trans ?_) (fun o x ho hx => ?_) (played.mutes b (agrees.mutes b))
      · rw [if_pos (rfl : b = b)]
      · rcases takes with free | free | ⟨_, policy⟩
        · exact nomatch ho.symm.trans (agrees'.no_holder (.inl free)).2
        · exact nomatch ho.symm.trans (agrees'.no_holder (.inr free)).2
        · exact agrees.within hx policy ho
    · exact (congrArg BoothLive.indication (congrFun (congrArg Scene.booth played.scene) d)).trans
        (switching.left_indication claimed d)

end Sys2Proof.Machine
end

section
/-! PROOF. An accepted CHAN_ASSIGN: its settings, slots, coverage, listeners and notices (O11). -/

namespace Sys2Proof.Machine
open Sys2Proof

variable {s t u : State} {a : Assign} {c : Chan} {b d : Booth} {n : Nat}

/-! ## What a CHAN_ASSIGN leaves alone -/

/-- Everything is the same but the plan, the slots, the credit and the listener counts of receivers, the live channels, the listening
sources, the route line and the ports. -/
def AssignFrame (s t : State) : Prop := t = { s with
  ret.plan := t.ret.plan, ret.slots := t.ret.slots, ret.receivers := t.ret.receivers, ret.listeners := t.ret.listeners
  ret.hires := t.ret.hires, gen.chans := t.gen.chans, gen.booths := t.gen.booths
  gen.routeSending := t.gen.routeSending, gen.routeList := t.gen.routeList, gen.ports := t.gen.ports }

theorem AssignFrame.trans (h : AssignFrame s t) (k : AssignFrame t u) : AssignFrame s u := by
  unfold AssignFrame at *
  rw [k, h]

theorem AssignFrame.of_routes (h : SameRoutes s t) : AssignFrame s t := by
  rw [h]
  rfl

theorem AssignFrame.foldl {α : Type} {f : State → α → State} (step : ∀ s a, AssignFrame s (f s a)) (l : List α) (s : State) :
    AssignFrame s (l.foldl f s) := by
  induction l generalizing s with
  | nil => rfl
  | cons a l ih => exact (step s a).trans (ih _)

theorem setListen_frame (b : Booth) (x y : Listen) (hold : Bool) (s : State) : AssignFrame s (setListen b x y hold s) := by
  unfold setListen
  dsimp only
  split
  · rfl
  · exact AssignFrame.trans (t := s.setBooth b _) rfl (.of_routes (placeOrder_routes ..))

theorem chooseListen_frame (b : Booth) (x : Listen) (s : State) : AssignFrame s (chooseListen b x s) := by
  unfold chooseListen
  split <;> exact setListen_frame ..

theorem notify_frame (x : NoticeBody) (s : State) : AssignFrame s (notify x s) := by
  rw [notify_ports x s]
  rfl

theorem relayFollow_frame (c : Chan) (s : State) : AssignFrame s (relayFollow c s) := by
  refine .foldl (fun s b => ?_) _ s
  rcases followOne_cases c s b with ⟨_, e | e⟩ | ⟨_, e⟩ <;> rw [e]
  · rfl
  · exact chooseListen_frame ..
  · exact (chooseListen_frame ..).trans (notify_frame ..)

theorem relayUnassigned_frame (c : Chan) (s : State) : AssignFrame s (relayUnassigned c s) := by
  refine .foldl (fun s b => ?_) _ s
  split
  · exact chooseListen_frame ..
  · rfl

theorem uncover_frame (c : Chan) (s : State) : AssignFrame s (uncover c s) := by
  unfold uncover coverageChange
  dsimp only
  generalize (⟨.uncovered, none, (s.settings c).fallback.source, 0, false⟩ : ChanLive) = x
  have routed : AssignFrame s (routeAfter s c (s.setChan c x)) :=
    .trans (t := s.setChan c x) rfl (.of_routes (routeAfter_routes ..))
  exact (routed.trans (notify_frame ..)).trans (relayFollow_frame ..)

/-- A change of receivers, hires and listener counts alone. -/
def CreditFrame (s t : State) : Prop := t = { s with
  ret.receivers := t.ret.receivers, ret.listeners := t.ret.listeners, ret.hires := t.ret.hires }

theorem CreditFrame.trans (h : CreditFrame s t) (k : CreditFrame t u) : CreditFrame s u := by
  unfold CreditFrame at *
  rw [k, h]

theorem addCredit_frame (link : HireLink) (secs : Nat) (s : State) : CreditFrame s (addCredit link secs s) := by
  unfold addCredit
  split <;> rfl

theorem closeCredit_frame (n : Nat) (s : State) : CreditFrame s (closeCredit n s) := by
  unfold closeCredit
  dsimp only
  split
  · rfl
  · split
    · next link _ => exact (addCredit_frame link _ s).trans rfl
    · rfl

theorem slotLeaves_frame (k : Slot) (s : State) : CreditFrame s (slotLeaves k s) := by
  have run : ∀ (es : List (Nat × Receiver)) (u : State), CreditFrame u (es.foldl (fun s e =>
      if e.2.state = .hired ∧ e.2.tuned.map Tuning.slot = some k then closeCredit e.1 s else s) u) := fun es => by
    induction es with
    | nil => exact fun u => rfl
    | cons e es ih =>
      intro u
      refine CreditFrame.trans ?_ (ih _)
      dsimp only
      split
      · exact closeCredit_frame ..
      · rfl
  exact (run _ s).trans rfl

theorem closeLeft_frame (a : Assign) (before s : State) : CreditFrame s (closeLeft a before s) := by
  unfold closeLeft
  split
  · split
    · rfl
    · exact slotLeaves_frame ..
  · rfl

theorem CreditFrame.assign (h : CreditFrame s t) : AssignFrame s t := by
  rw [h]
  rfl

theorem applyAssign_frame (a : Assign) (s : State) : AssignFrame s (applyAssign a s) := by
  have written : AssignFrame s (assignWrites a s) := by
    rw [assignWrites_keeps a s]
    rfl
  have settled : ∀ u, AssignFrame u (settleLeft a s u) := fun u => by
    unfold settleLeft
    split
    · exact (AssignFrame.of_routes (routeAfter_routes ..)).trans (relayUnassigned_frame ..)
    · rfl
  have handed : ∀ u, AssignFrame u (handTarget a s u) := fun u => by
    unfold handTarget
    split
    · exact relayUnassigned_frame ..
    · split
      · rfl
      · split
        · exact (relayFollow_frame ..).trans (uncover_frame ..)
        · exact relayFollow_frame ..
  rw [applyAssign, assignEffects_eq]
  exact (((written.trans (settled _)).trans (.of_routes (routeAfter_routes ..))).trans (closeLeft_frame a s _).assign).trans
    (handed _)

/-! ## The booths -/

/-- A booth changes its listening sources alone. -/
def Retuned (s t : State) : Prop := ∀ b, t.booth b = { s.booth b with
  chosen := (t.booth b).chosen, effective := (t.booth b).effective, autoHold := (t.booth b).autoHold }

theorem Retuned.of_booths (h : ∀ b, t.booth b = s.booth b) : Retuned s t := fun b => by rw [h]

theorem Retuned.trans (h : Retuned s t) (k : Retuned t u) : Retuned s u := fun b => by
  rw [k b, h b]

theorem setListen_retuned (b : Booth) (x y : Listen) (hold : Bool) (s : State) : Retuned s (setListen b x y hold s) := fun d => by
  rw [setListen_booth]
  split
  · next e => rw [e]
  · rfl

theorem chooseListen_retuned (b : Booth) (x : Listen) (s : State) : Retuned s (chooseListen b x s) := by
  unfold chooseListen
  split <;> exact setListen_retuned _ _ _ _ _

theorem relayUnassigned_retuned (c : Chan) (s : State) : Retuned s (relayUnassigned c s) := by
  unfold relayUnassigned
  generalize List.finRange 32 = bs
  induction bs generalizing s with
  | nil => exact .of_booths fun _ => rfl
  | cons b bs ih =>
    refine .trans ?_ (ih _)
    dsimp only
    split
    · exact chooseListen_retuned _ _ _
    · exact .of_booths fun _ => rfl

theorem followed_retuned (c : Chan) (s : State) (b : Booth) : followed s c b = { s.booth b with
    chosen := (followed s c b).chosen, effective := (followed s c b).effective, autoHold := (followed s c b).autoHold } := by
  unfold followed
  split
  · rfl
  · split <;> rfl

theorem relayFollow_retuned (c : Chan) (s : State) : Retuned s (relayFollow c s) := fun b => by
  rw [relayFollow_booth]
  exact followed_retuned c s b

theorem uncover_retuned (c : Chan) (s : State) : Retuned s (uncover c s) := fun b => by
  rw [uncover_booth]
  exact followed_retuned c _ b

theorem applyAssign_retuned (a : Assign) (s : State) : Retuned s (applyAssign a s) := by
  have settled : ∀ u, Retuned u (settleLeft a s u) := fun u => by
    unfold settleLeft
    split
    · exact (Retuned.of_booths fun b => routeAfter_booth ..).trans (relayUnassigned_retuned _ _)
    · exact .of_booths fun _ => rfl
  have handed : ∀ u, Retuned u (handTarget a s u) := fun u => by
    unfold handTarget
    split
    · exact relayUnassigned_retuned _ _
    · split
      · exact .of_booths fun _ => rfl
      · split
        · exact (relayFollow_retuned _ _).trans (uncover_retuned _ _)
        · exact relayFollow_retuned _ _
  rw [applyAssign, assignEffects_eq]
  exact ((((Retuned.of_booths (assignWrites_booth a s)).trans (settled _)).trans (.of_booths fun b => routeAfter_booth ..)).trans
    (.of_booths (closeLeft_booth a s _))).trans (handed _)

/-! ## The slots -/

theorem applyAssign_slot (a : Assign) (s : State) (k : Slot) : (applyAssign a s).slot k = (assignWrites a s).slot k := by
  rw [applyAssign, assignEffects_eq, (handTarget_moves ..).slot]
  have closed : ∀ u : State, (closeLeft a s u).slot k = u.slot k := fun u => by rw [closeLeft_frame a s u]; rfl
  rw [closed, (routeAfter_moves ..).slot, (settleLeft_moves ..).slot]

/-! ## The notices -/

theorem relayUnassigned_hush (c : Chan) (s : State) : Hush s (relayUnassigned c s) := by
  unfold relayUnassigned
  generalize List.finRange 32 = bs
  induction bs generalizing s with
  | nil => rfl
  | cons b bs ih =>
    refine Hush.trans ?_ (ih _)
    dsimp only
    split
    · exact chooseListen_hush ..
    · rfl

theorem CreditFrame.says (h : CreditFrame s t) : Says [] s t := .of_ports (by rw [h]) (by rw [h])

theorem assigned_says (a : Assign) (s : State) : Says [] s (assigned a s) := by
  have written : Says [] s (assignWrites a s) := .of_ports (by rw [assignWrites_keeps a s]) (by rw [assignWrites_keeps a s])
  have settled : ∀ u, Hush u (settleLeft a s u) := fun u => by
    unfold settleLeft
    split
    · exact (routeAfter_hush ..).trans (relayUnassigned_hush ..)
    · rfl
  exact (written.trans ((settled _).trans (routeAfter_hush ..)).says).trans (closeLeft_frame a s _).says

/-- The target as it enters the plan, before its new coverage is handed on. -/
theorem assigned_target (enters : entersPlan s a = true) : (assigned a s).chan a.target =
    ⟨.holding, none, a.fallback.source, a.gapHold, false⟩ := by
  rw [(assigned_alike a s).chan, assignWrites_chan, if_pos rfl]
  unfold entersPlan at enters
  unfold targetLive
  cases hs : a.slot with
  | none => rw [hs] at enters; cases enters
  | some k =>
    rw [hs] at enters
    have other : (s.settings a.target).slot ≠ some k := fun e => by simp [e] at enters
    exact if_neg other

theorem entersPlan_iff : entersPlan s a = true ↔ ∃ k, a.slot = some k ∧ (s.settings a.target).slot ≠ some k := by
  unfold entersPlan
  cases a.slot with
  | none => simp
  | some k =>
    rw [Option.isSome_some, Bool.true_and, bne_iff_ne]
    refine ⟨fun h => ⟨k, rfl, h.symm⟩, fun ⟨j, e, h⟩ => ?_⟩
    rw [e]
    exact h.symm

/-- No port hears of an assignment that brings no channel UNCOVERED. -/
theorem applyAssign_quiet (h : a.gapHold ≠ 0 ∨ entersPlan s a = false) : Says [] s (applyAssign a s) := by
  rw [applyAssign_eq]
  refine (assigned_says a s).trans ?_
  have target := assigned_target (s := s) (a := a)
  generalize assigned a s = u at target
  unfold handTarget
  split
  · exact (relayUnassigned_hush ..).says
  · next k hk =>
    split
    · exact .refl u
    · next other =>
      have enters := entersPlan_iff.mpr ⟨k, hk, other⟩
      have holding : (u.chan a.target).coverage ≠ .uncovered := by
        rw [target enters]
        exact Coverage.noConfusion
      rw [if_neg (h.resolve_right (by rw [enters]; exact Bool.noConfusion))]
      exact relayFollow_silent holding

/-- A gap hold of 0 brings the notices of its expiry. -/
theorem applyAssign_uncovers (gap : a.gapHold = 0) (enters : entersPlan s a = true) :
    Says (uncoverNotices (applyAssign a s) a.target) s (applyAssign a s) := by
  obtain ⟨k, hk, other⟩ := entersPlan_iff.mp enters
  have quiet := assigned_says a s
  have target := assigned_target enters
  rw [applyAssign_eq]
  generalize assigned a s = u at quiet target
  have holding : (u.chan a.target).coverage ≠ .uncovered := by
    rw [target]
    exact Coverage.noConfusion
  unfold handTarget
  rw [hk]
  dsimp only
  rw [if_neg other, if_pos gap]
  have noHolds : NoHolds (relayFollow a.target u) a.target := fun b m hm chosen => by
    rw [relayFollow_booth]
    rw [relayFollow_chosen] at chosen
    exact followed_hold holding ((relayFollow_moves ..).boothSettings b ▸ hm) chosen
  have deeds := uncover_deeds a.target (relayFollow a.target u)
  rw [uncoverNotices_of_moves deeds.moves deeds.chosen]
  exact (quiet.trans (relayFollow_silent holding)).trans (uncover_says noHolds)

/-! ## The request -/

theorem assignFailure_none (passes : ∀ n, ¬ AssignFails s a n) : assignFailure s a = none := assignFailure_eq_none.mpr passes

theorem exec_chanAssign (ready : Ready .console s) (tag : Byte) {target : Byte} {args : AssignArgs}
    (ha : assignOf target args = some a) (passes : ∀ n, ¬ AssignFails s a n) : exec (.chanAssign .console tag target args) s =
      .next (responds .console tag .done (u8 a.gapHold ++ u8 a.offerTime) (dirAfter s (applyAssign a s))) := by
  refine (ready.request_planned tag .chanAssign _).trans ?_
  unfold assignChannel
  rw [ha]
  dsimp only
  rw [assignFailure_none passes]

/-- Settles O11. -/
theorem assignAccepted : Obligations.AssignAccepted := by
  intro s tag target args a ready ha passes
  refine ⟨assignOf_reads ha, _, exec_chanAssign ready tag ha passes, ?_⟩
  have settings := applyAssign_settings a s
  have slots : ∀ k, (applyAssign a s).slot k = _ := fun k => (applyAssign_slot a s k).trans (assignWrites_slot a s k)
  have chans := applyAssign_chan a s
  have chosen := applyAssign_chosen a s
  have retuned := applyAssign_retuned a s
  have frame := applyAssign_frame a s
  have quiet := applyAssign_quiet (s := s) (a := a)
  have uncovers := applyAssign_uncovers (s := s) (a := a)
  generalize applyAssign a s = u at settings slots chans chosen retuned frame quiet uncovers
  have directory := dirAfter_directory s u
  generalize dirAfter s u = t at directory
  refine ⟨fun c => ?_, fun k => ?_, fun c => ?_, fun b => ?_, fun still => ?_, fun gap enters p => ?_, ?_⟩
  · rw [show t.settings c = u.settings c by rw [directory]; rfl, settings]
    exact if_congr eq_comm rfl rfl
  · rw [show t.slot k = u.slot k by rw [directory]; rfl]
    exact slots k
  · rw [show t.chan c = u.chan c by rw [directory]; rfl, chans]
    exact if_congr eq_comm rfl rfl
  · have booth : t.booth b = u.booth b := by rw [directory]; rfl
    have changed := retuned b
    rw [chosen b] at changed
    rw [booth]
    exact changed
  · rw [directory]
    exact PerPort.ext_get fun p => (quiet still).port p
  · have notices : uncoverNotices t a.target = uncoverNotices u a.target := by rw [directory]; rfl
    rw [notices, ← (uncovers gap enters).port p, directory]
    rfl
  · rw [directory, frame]

end Sys2Proof.Machine
end

section
/-! SUPPORT. The register and the hire table under the closing of credit: one rule for each of what it reads. PROOF. CHAN_ASSIGN closes
the credit of a language that leaves the plan (O12). -/

namespace Sys2Proof.Table
open Sys2Proof

variable {α : Type} {t : Table α} {n : Nat}

theorem sorted_iff_keys : Sorted t ↔ (t.map Prod.fst).Pairwise (· < ·) := List.pairwise_map.symm

/-- Writing a record that stands keeps the numbers. -/
theorem keys_put (sorted : Sorted t) {y : α} (stands : find? t n = some y) (x : α) : (put t n x).map Prod.fst = t.map Prod.fst := by
  induction t with
  | nil => cases stands
  | cons e t ih =>
    obtain ⟨k, z⟩ := e
    obtain ⟨first, rest⟩ := List.pairwise_cons.mp sorted
    rw [find?_cons] at stands
    unfold put
    by_cases same : k = n
    · rw [if_neg (by omega), if_pos same.symm, same]
      rfl
    · rw [if_neg same] at stands
      have later : k < n := first _ (mem_of_find? stands)
      rw [if_neg (by omega), if_neg (by omega)]
      exact congrArg (k :: ·) (ih rest stands)

theorem nodup_keys (sorted : Sorted t) : (t.map Prod.fst).Nodup :=
  (sorted_iff_keys.mp sorted).imp Nat.ne_of_lt

end Sys2Proof.Table

namespace Sys2Proof.Machine
open Sys2Proof

variable {s t u : State} {a : Assign} {n : Nat} {link : HireLink} {k : Slot} {h : Hire}

/-! ## Lines -/

theorem updateLine_eq (h : Hire) (i : Nat) (f : Line → Line) : updateLine h i f = { h with lines := h.lines.modify i f } := by
  unfold updateLine
  split
  · next l hl =>
    refine congrArg (fun lines => { h with lines := lines }) (List.ext_getElem? fun j => ?_)
    obtain ⟨there, e'⟩ := List.getElem?_eq_some_iff.mp hl
    rw [List.getElem?_modify, List.getElem?_set]
    by_cases e : i = j
    · subst e
      simp [there, e']
    · simp [e]
  · next hl =>
    rw [List.modify_eq_self (List.getElem?_eq_none_iff.mp hl)]

theorem updateLine_id {i : Nat} {f : Line → Line} (same : ∀ l, f l = l) : updateLine h i f = h := by
  rw [updateLine_eq, show f = id from funext same]
  simp

theorem line?_eq_some {l : Line} : s.ret.line? link = some l ↔ ∃ h, s.hire? link.ticket = some h ∧ h.lines[link.line]? = some l :=
  Option.bind_eq_some_iff

/-! ## The closing of credit (R110, R116, R130) -/

theorem closedCredit_tuned {m : Tuning} (on : (s.receiver n).tuned = some m) (l : Line) :
    closedCredit s n l = creditUpTo l ((s.slot m.slot).u - m.mark) s.clock := by
  unfold closedCredit
  rw [on]

theorem closedCredit_untuned (off : (s.receiver n).tuned = none) (l : Line) : closedCredit s n l = l.credit := by
  unfold closedCredit
  rw [off]

theorem closeCredit_untuned (off : (s.receiver n).tuned = none) : closeCredit n s = s := by
  unfold closeCredit
  dsimp only
  rw [off]

/-- The state once the line of record `n` has its credit. -/
def credited (n : Nat) (m : Tuning) (s : State) : State :=
  match (s.receiver n).link with
  | some link => addCredit link ((s.slot m.slot).u - m.mark) s
  | none => s

theorem addCredit_hires (link : HireLink) (secs : Nat) (s : State) :
    addCredit link secs s = { s with ret.hires := (addCredit link secs s).ret.hires } := by
  unfold addCredit
  split <;> rfl

theorem credited_hires (n : Nat) (m : Tuning) (s : State) : credited n m s = { s with ret.hires := (credited n m s).ret.hires } := by
  unfold credited
  split
  · exact addCredit_hires ..
  · rfl

theorem closeCredit_tuned {m : Tuning} (on : (s.receiver n).tuned = some m) : closeCredit n s =
    { (credited n m s).setReceiver n { s.receiver n with tuned := none } with
      ret.listeners := (credited n m s).ret.listeners.modify m.slot (fun k => k - 1) } := by
  unfold closeCredit credited
  dsimp only
  rw [on]
  rfl

theorem closeCredit_receiver (n m : Nat) (s : State) : (closeCredit n s).receiver m =
    if m = n then { s.receiver n with tuned := none } else s.receiver m := by
  cases on : (s.receiver n).tuned with
  | none =>
    rw [closeCredit_untuned on]
    split
    · next e => rw [e, ← on]
    · rfl
  | some tuning =>
    rw [closeCredit_tuned on, credited_hires]
    exact (State.setReceiver_receiver ..).trans (if_congr eq_comm rfl rfl)

theorem closeCredit_listeners (n : Nat) (s : State) (k : Slot) : (closeCredit n s).ret.listeners.get k =
    if (s.receiver n).tuned.map Tuning.slot = some k then s.ret.listeners.get k - 1 else s.ret.listeners.get k := by
  cases on : (s.receiver n).tuned with
  | none => rw [closeCredit_untuned on]; rfl
  | some tuning =>
    rw [closeCredit_tuned on, credited_hires]
    refine (Bank.get_modify ..).trans ?_
    by_cases same : tuning.slot = k
    · exact (if_pos same).trans ((congrArg (s.ret.listeners.get · - 1) same).trans (if_pos (congrArg some same)).symm)
    · exact (if_neg same).trans (if_neg fun e => same (Option.some.inj e)).symm

theorem addCredit_hire (link : HireLink) (secs : Nat) (s : State) (ticket : Nat) : (addCredit link secs s).hire? ticket =
    if link.ticket = ticket then (s.hire? ticket).map (fun h =>
      updateLine h link.line (fun l => { l with credit := creditUpTo l secs s.clock })) else s.hire? ticket := by
  unfold addCredit
  split
  · next h hh =>
    rw [State.setHire_hire]
    split
    · next e => rw [← e, hh]; rfl
    · rfl
  · next hh =>
    split
    · next e => rw [← e, hh]; rfl
    · rfl

/-- The line of a record takes its credit, and no other line changes. -/
theorem closeCredit_hire (linked : (s.receiver n).link = some link) (ticket : Nat) : (closeCredit n s).hire? ticket =
    if link.ticket = ticket then (s.hire? ticket).map (fun h =>
      updateLine h link.line (fun l => { l with credit := closedCredit s n l })) else s.hire? ticket := by
  cases on : (s.receiver n).tuned with
  | none =>
    rw [closeCredit_untuned on]
    split
    · rw [show (fun h => updateLine h link.line (fun l => { l with credit := closedCredit s n l })) = id from
        funext fun h => updateLine_id fun l => by rw [closedCredit_untuned on], Option.map_id]
      rfl
    · rfl
  | some tuning =>
    rw [closeCredit_tuned on]
    simp only [closedCredit_tuned on]
    refine Eq.trans ?_ (addCredit_hire link _ s ticket)
    unfold credited
    rw [linked]
    rfl

theorem addCredit_keys (sorted : Table.Sorted s.ret.hires) (link : HireLink) (secs : Nat) :
    (addCredit link secs s).ret.hires.map Prod.fst = s.ret.hires.map Prod.fst := by
  unfold addCredit
  split
  · next h hh => exact Table.keys_put sorted hh _
  · rfl

theorem closeCredit_keys (sorted : Table.Sorted s.ret.hires) (n : Nat) :
    (closeCredit n s).ret.hires.map Prod.fst = s.ret.hires.map Prod.fst := by
  cases on : (s.receiver n).tuned with
  | none => rw [closeCredit_untuned on]
  | some tuning =>
    rw [closeCredit_tuned on]
    show (credited n tuning s).ret.hires.map Prod.fst = _
    unfold credited
    split
    · exact addCredit_keys sorted _ _
    · rfl

/-! ## A language leaves the plan (R115, R130) -/

/-- Record `n` is HIRED, and its language is slot `k`. -/
abbrev OnSlot (s : State) (k : Slot) (n : Nat) : Prop :=
  (s.receiver n).state = .hired ∧ (s.receiver n).tuned.map Tuning.slot = some k

/-- Line `l` once the credit of the records `ns` on slot `k` has been closed. -/
def closedLine (s : State) (k : Slot) (ns : List Nat) (l : Line) : Line :=
  if l.state = .out ∧ l.receiver ∈ ns ∧ OnSlot s k l.receiver then { l with credit := closedCredit s l.receiver l } else l

/-- From `s` to `t` the credit of the records `ns` on slot `k` has been closed. -/
structure Closing (s : State) (k : Slot) (ns : List Nat) (t : State) : Prop where
  receiver : ∀ n, t.receiver n = if n ∈ ns ∧ OnSlot s k n then { s.receiver n with tuned := none } else s.receiver n
  hire : ∀ ticket, t.hire? ticket = (s.hire? ticket).map (fun h => { h with lines := h.lines.map (closedLine s k ns) })
  listeners : ∀ j, j ≠ k → t.ret.listeners.get j = s.ret.listeners.get j
  keys : t.ret.hires.map Prod.fst = s.ret.hires.map Prod.fst
  frame : CreditFrame s t

theorem Closing.start (s : State) (k : Slot) : Closing s k [] s := by
  refine ⟨fun n => (if_neg fun e => List.not_mem_nil e.1).symm, fun ticket => ?_, fun _ _ => rfl, rfl, rfl⟩
  have same : closedLine s k [] = id := funext fun l => if_neg fun e => List.not_mem_nil e.2.1
  rw [same]
  simp

theorem closedLine_other {ns : List Nat} {l : Line} (h : l.state = .out → OnSlot s k n → l.receiver ≠ n) :
    closedLine s k (n :: ns) l = closedLine s k ns l := by
  refine if_congr ⟨fun ⟨out, mem, hears⟩ => ⟨out, ?_, hears⟩, fun ⟨out, mem, hears⟩ => ⟨out, List.mem_cons_of_mem _ mem, hears⟩⟩ rfl rfl
  rcases List.mem_cons.mp mem with e | mem
  · exact absurd e (h out (e ▸ hears))
  · exact mem

/-- A record that does not hear the slot is passed by. -/
theorem Closing.skip {ns : List Nat} (closing : Closing s k ns t) (deaf : ¬ OnSlot s k n) : Closing s k (n :: ns) t := by
  refine ⟨fun m => (closing.receiver m).trans ?_, fun ticket => ?_, closing.listeners, closing.keys, closing.frame⟩
  · refine if_congr ⟨fun e => ⟨List.mem_cons_of_mem _ e.1, e.2⟩, fun e => ⟨?_, e.2⟩⟩ rfl rfl
    rcases List.mem_cons.mp e.1 with rfl | mem
    · exact absurd e.2 deaf
    · exact mem
  · have same : closedLine s k (n :: ns) = closedLine s k ns := funext fun l => closedLine_other fun _ hears => absurd hears deaf
    rw [same]
    exact closing.hire ticket

/-- A record that hears the slot has its credit closed into its own line. -/
theorem Closing.close {ns : List Nat} (closing : Closing s k ns t) (links : LinksAgree s.ret) (sorted : Table.Sorted s.ret.hires)
    (hears : OnSlot s k n) (fresh : n ∉ ns) : Closing s k (n :: ns) (closeCredit n t) := by
  obtain ⟨link, line, linked, stands, own, out⟩ := links.hired n hears.1
  have record : t.receiver n = s.receiver n := (closing.receiver n).trans (if_neg fun e => fresh e.1)
  have sorted' : Table.Sorted t.ret.hires := Table.sorted_iff_keys.mpr (closing.keys ▸ Table.sorted_iff_keys.mp sorted)
  have credit : ∀ l, closedCredit t n l = closedCredit s n l := fun l => by
    unfold closedCredit
    rw [record, show t.slot = s.slot by rw [closing.frame]; rfl, show t.clock = s.clock by rw [closing.frame]]
  refine ⟨fun m => ?_, fun ticket => ?_, fun j hj => ?_, (closeCredit_keys sorted' n).trans closing.keys,
    closing.frame.trans (closeCredit_frame n t)⟩
  · rw [closeCredit_receiver, record, closing.receiver]
    by_cases e : m = n
    · subst e
      rw [if_pos rfl, if_pos ⟨List.mem_cons_self, hears⟩]
    · rw [if_neg e]
      exact if_congr (and_congr_left' (by simp [e])) rfl rfl
  · rw [closeCredit_hire (link := link) (record ▸ linked), closing.hire]
    simp only [credit]
    cases hh : s.hire? ticket with
    | none => exact ite_self ..
    | some h =>
      have others : ∀ (j : Nat) (l : Line), h.lines[j]? = some l → (link.ticket = ticket → link.line ≠ j) →
          closedLine s k (n :: ns) l = closedLine s k ns l := fun j l hl apart => by
        refine closedLine_other fun lout _ e => ?_
        have named := (links.out ⟨ticket, j⟩ l (line?_eq_some.mpr ⟨h, hh, hl⟩) lout).2
        rw [e] at named
        have same : link = ⟨ticket, j⟩ := Option.some.inj (linked.symm.trans named)
        exact apart (congrArg HireLink.ticket same) (congrArg HireLink.line same)
      by_cases e : link.ticket = ticket
      · rw [if_pos e]
        subst e
        simp only [Option.map_some, updateLine_eq]
        refine congrArg (fun lines => some { h with lines := lines }) (List.ext_getElem? fun j => ?_)
        rw [List.getElem?_modify, List.getElem?_map, List.getElem?_map]
        cases hl : h.lines[j]? with
        | none => rfl
        | some l =>
          by_cases at' : link.line = j
          · subst at'
            have same : l = line := by
              obtain ⟨h', hh', hl'⟩ := line?_eq_some.mp stands
              cases hh.symm.trans hh'
              exact Option.some.inj (hl.symm.trans hl')
            subst same
            have before : closedLine s k ns l = l := if_neg fun e => fresh (own ▸ e.2.1)
            have after : closedLine s k (n :: ns) l = { l with credit := closedCredit s l.receiver l } :=
              if_pos ⟨out, own ▸ List.mem_cons_self, own.symm ▸ hears⟩
            simp only [Option.map_some, before, after, own, if_true, Functor.map]
          · rw [Option.map_some, Option.map_some, others j l hl fun _ => at']
            simp [at']
      · rw [if_neg e]
        refine congrArg (fun lines => some { h with lines := lines }) (List.map_congr_left fun l hl => ?_)
        obtain ⟨j, hj⟩ := List.mem_iff_getElem?.mp hl
        exact (others j l hj fun same => absurd same e).symm
  · rw [closeCredit_listeners, record, if_neg]
    · exact closing.listeners j hj
    · rw [hears.2]
      exact fun e => hj (Option.some.inj e).symm

/-- The records of `es` in turn, the way a slot leaves the plan takes them. -/
theorem Closing.run (links : LinksAgree s.ret) (sorted : Table.Sorted s.ret.hires) {ns : List Nat} (es : List (Nat × Receiver))
    (records : ∀ e ∈ es, e.2 = s.receiver e.1) (fresh : ∀ e ∈ es, e.1 ∉ ns) (apart : (es.map Prod.fst).Nodup) (closing : Closing s k ns t) :
    ∃ ms, (∀ n, n ∈ ms ↔ n ∈ ns ∨ n ∈ es.map Prod.fst) ∧ Closing s k ms (es.foldl
      (fun s e => if e.2.state = .hired ∧ e.2.tuned.map Tuning.slot = some k then closeCredit e.1 s else s) t) := by
  induction es generalizing ns t with
  | nil => exact ⟨ns, fun n => by simp, closing⟩
  | cons e es ih =>
    obtain ⟨first, apart⟩ := List.nodup_cons.mp apart
    have next : Closing s k (e.1 :: ns) (if e.2.state = .hired ∧ e.2.tuned.map Tuning.slot = some k then closeCredit e.1 t else t) := by
      rw [records e List.mem_cons_self]
      split
      · next hears => exact closing.close links sorted hears (fresh e List.mem_cons_self)
      · next deaf => exact closing.skip deaf
    have later : ∀ d ∈ es, d.1 ∉ e.1 :: ns := fun d mem h => by
      rcases List.mem_cons.mp h with same | mem'
      · exact first (List.mem_map.mpr ⟨d, mem, same⟩)
      · exact fresh d (List.mem_cons_of_mem _ mem) mem'
    obtain ⟨ms, all, closing⟩ := ih (fun d mem => records d (List.mem_cons_of_mem _ mem)) later apart next
    refine ⟨ms, fun n => (all n).trans ?_, closing⟩
    rw [List.map_cons, List.mem_cons, List.mem_cons]
    tauto

/-- Record `n` is HIRED on the slot that leaves the plan, if one does. -/
abbrev LosesSlot (s : State) (k : Option Slot) (n : Nat) : Prop :=
  (s.receiver n).state = .hired ∧ k.isSome ∧ (s.receiver n).tuned.map Tuning.slot = k

/-- A line once slot `k` has left the plan. -/
def leftLine (s : State) (k : Option Slot) (l : Line) : Line :=
  if l.state = .out ∧ LosesSlot s k l.receiver then { l with credit := closedCredit s l.receiver l } else l

theorem mem_of_hired (hired : (s.receiver n).state = .hired) : n ∈ s.ret.receivers.map Prod.fst := by
  unfold State.receiver at hired
  cases hr : s.ret.receivers.find? n with
  | none =>
    rw [hr] at hired
    cases hired
  | some r => exact List.mem_map.mpr ⟨_, Table.mem_of_find? hr, rfl⟩

/-- The books that a CHAN_ASSIGN may change. -/
structure BooksLeft (s : State) (k : Option Slot) (t : State) : Prop where
  receiver : ∀ n, t.receiver n = { s.receiver n with
    tuned := if LosesSlot s k n then none else (s.receiver n).tuned }
  hire : ∀ ticket, t.hire? ticket = (s.hire? ticket).map (fun h => { h with lines := h.lines.map (leftLine s k) })
  listeners : ∀ j, t.ret.listeners.get j = if k = some j then 0 else s.ret.listeners.get j
  keys : t.ret.hires.map Prod.fst = s.ret.hires.map Prod.fst

theorem BooksLeft.none (s : State) : BooksLeft s none s := by
  refine ⟨fun n => ?_, fun ticket => ?_, fun j => rfl, rfl⟩
  · rw [if_neg fun e => Bool.false_ne_true e.2.1]
  · rw [show leftLine s Option.none = id from funext fun l => if_neg fun e => Bool.false_ne_true e.2.2.1]
    simp

theorem slotLeaves_books_left (links : LinksAgree s.ret) (sorted : Table.Sorted s.ret.hires) (k : Slot) :
    BooksLeft s (some k) (slotLeaves k s) := by
  obtain ⟨ms, all, closing⟩ := Closing.run (k := k) links sorted s.ret.receivers
    (fun e mem => (congrArg (Option.getD · Receiver.unenrolled) (Table.find?_of_mem links.sorted (n := e.1) (x := e.2) mem)).symm)
    (fun _ _ => List.not_mem_nil) (Table.nodup_keys links.sorted) (.start s k)
  have every : ∀ n, OnSlot s k n → n ∈ ms := fun n hears => (all n).mpr (.inr (mem_of_hired hears.1))
  unfold slotLeaves
  dsimp only
  generalize s.ret.receivers.foldl _ s = u at closing
  refine ⟨fun n => (closing.receiver n).trans ?_, fun ticket => (closing.hire ticket).trans ?_, fun j => ?_, closing.keys⟩
  · by_cases hears : OnSlot s k n
    · rw [if_pos ⟨every n hears, hears⟩, if_pos ⟨hears.1, rfl, hears.2⟩]
    · rw [if_neg fun e => hears e.2, if_neg fun e => hears ⟨e.1, e.2.2⟩]
  · have same : closedLine s k ms = leftLine s (some k) := funext fun l =>
      if_congr ⟨fun ⟨out, _, hired, on⟩ => ⟨out, hired, rfl, on⟩, fun ⟨out, hired, _, on⟩ => ⟨out, every _ ⟨hired, on⟩, hired, on⟩⟩ rfl rfl
    rw [same]
  · refine (Bank.get_set ..).trans ?_
    by_cases e : k = j
    · exact (if_pos e).trans (if_pos (congrArg some e)).symm
    · exact (if_neg e).trans ((closing.listeners j fun e' => e e'.symm).trans (if_neg fun e' => e (Option.some.inj e')).symm)

theorem closeLeft_books_left (links : LinksAgree t.ret) (sorted : Table.Sorted t.ret.hires) (a : Assign) (s : State) :
    BooksLeft t (leavingSlot s a) (closeLeft a s t) := by
  unfold leavingSlot closeLeft
  cases (s.settings a.target).slot with
  | none => exact .none t
  | some k =>
    dsimp only
    by_cases e : a.slot = some k
    · rw [if_pos e, show (some k).filter (fun k => a.slot != some k) = none by simp [Option.filter, e]]
      exact .none t
    · rw [if_neg e, show (some k).filter (fun k => a.slot != some k) = some k by simp [Option.filter, e]]
      exact slotLeaves_books_left links sorted k

/-! ## The request -/

/-- The register, the hire table, the clock and the counters U and V are the same. -/
structure SameRegister (s t : State) : Prop where
  receivers : t.ret.receivers = s.ret.receivers
  hires : t.ret.hires = s.ret.hires
  listeners : t.ret.listeners = s.ret.listeners
  clock : t.clock = s.clock
  uv : ∀ k, (t.slot k).u = (s.slot k).u ∧ (t.slot k).v = (s.slot k).v

theorem SameRegister.trans (h : SameRegister s t) (g : SameRegister t u) : SameRegister s u where
  receivers := g.receivers.trans h.receivers
  hires := g.hires.trans h.hires
  listeners := g.listeners.trans h.listeners
  clock := g.clock.trans h.clock
  uv k := ⟨(g.uv k).1.trans (h.uv k).1, (g.uv k).2.trans (h.uv k).2⟩

theorem Moves.sameRegister (h : Moves s t) : SameRegister s t := by
  constructor
  case uv => exact fun k => by rw [h.slot]; exact ⟨rfl, rfl⟩
  all_goals rw [h.keeps]

theorem assignWrites_sameRegister (a : Assign) (s : State) : SameRegister s (assignWrites a s) := by
  constructor
  case uv => exact fun k => by rw [assignWrites_slot]; exact ⟨rfl, rfl⟩
  all_goals rw [assignWrites_keeps a s]

theorem dirAfter_sameRegister (s t : State) : SameRegister t (dirAfter s t) := by
  have directory := dirAfter_directory s t
  generalize dirAfter s t = u at directory
  constructor
  case uv => exact fun k => by rw [directory]; exact ⟨rfl, rfl⟩
  all_goals rw [directory]

theorem CreditFrame.uv (h : CreditFrame s t) (k : Slot) : (t.slot k).u = (s.slot k).u ∧ (t.slot k).v = (s.slot k).v := by
  rw [h]
  exact ⟨rfl, rfl⟩

theorem SameRegister.receiver (h : SameRegister s t) (n : Nat) : t.receiver n = s.receiver n := by
  unfold State.receiver
  rw [h.receivers]

theorem SameRegister.hire (h : SameRegister s t) (ticket : Nat) : t.hire? ticket = s.hire? ticket := by
  unfold State.hire?
  rw [h.hires]

theorem SameRegister.leftLine (h : SameRegister s t) (k : Option Slot) : Machine.leftLine t k = Machine.leftLine s k := by
  funext l
  unfold Machine.leftLine LosesSlot closedCredit
  rw [h.receiver, h.clock]
  simp only [h.uv]

theorem SameRegister.left_of (h : SameRegister s t) {k : Option Slot} (left : BooksLeft t k u) : BooksLeft s k u where
  receiver n := by
    have same := h.receiver n
    rw [left.receiver]
    unfold LosesSlot
    simp only [same]
  hire ticket := by
    rw [left.hire, h.hire, h.leftLine]
  listeners j := by rw [left.listeners, h.listeners]
  keys := by rw [left.keys, h.hires]

theorem BooksLeft.then {k : Option Slot} (left : BooksLeft s k t) (h : SameRegister t u) : BooksLeft s k u where
  receiver n := by rw [h.receiver, left.receiver]
  hire ticket := by rw [h.hire, left.hire]
  listeners j := by rw [h.listeners, left.listeners]
  keys := by rw [h.hires, left.keys]

theorem applyAssign_left (links : LinksAgree s.ret) (sorted : Table.Sorted s.ret.hires) (a : Assign) :
    BooksLeft s (leavingSlot s a) (applyAssign a s) ∧
      ∀ k, ((applyAssign a s).slot k).u = (s.slot k).u ∧ ((applyAssign a s).slot k).v = (s.slot k).v := by
  rw [applyAssign, assignEffects_eq]
  have settled := ((assignWrites_sameRegister a s).trans (settleLeft_moves a s _).sameRegister).trans
    (routeAfter_moves s a.target _).sameRegister
  have still := (assignWrites_keeps (a := a) (s := s))
  generalize routeAfter s a.target (settleLeft a s (assignWrites a s)) = t at settled
  have links' : LinksAgree t.ret := by
    obtain ⟨order, numbers, hired, lost, linked, out, gone⟩ := links
    constructor <;> simp only [Retained.receiver, Retained.line?, settled.receivers, settled.hires] <;> assumption
  have closed := closeLeft_books_left links' (settled.hires ▸ sorted) a s
  have uv := (closeLeft_frame a s t).uv
  generalize closeLeft a s t = u at closed uv
  have handed := (handTarget_moves a s u).sameRegister
  exact ⟨(settled.left_of closed).then handed, fun k =>
    ⟨(handed.uv k).1.trans ((uv k).1.trans (settled.uv k).1), (handed.uv k).2.trans ((uv k).2.trans (settled.uv k).2)⟩⟩

/-- Settles O12. -/
theorem assignClosesCredit : Obligations.AssignClosesCredit := by
  intro s tag target args a ready ha passes lawful links
  refine ⟨_, exec_chanAssign ready tag ha passes, ?_⟩
  obtain ⟨left, uv⟩ := applyAssign_left links lawful.sorted a
  generalize applyAssign a s = u at left uv
  have directory := dirAfter_sameRegister s u
  generalize dirAfter s u = t at directory
  have left := left.then directory
  refine ⟨left.receiver, left.listeners, fun k => ⟨(directory.uv k).1.trans (uv k).1, (directory.uv k).2.trans (uv k).2⟩, left.keys,
    fun ticket h hh => ⟨_, (left.hire ticket).trans (congrArg _ hh), rfl, List.map_congr_left fun l hl => ?_⟩⟩
  obtain ⟨i, hi⟩ := List.mem_iff_getElem?.mp hl
  have hired := fun out => (links.out ⟨ticket, i⟩ l (line?_eq_some.mpr ⟨h, hh, hi⟩) out).1
  generalize leavingSlot s a = k
  split
  · next m out on =>
    unfold leftLine
    by_cases same : k = some m.slot
    · rw [if_pos ⟨out, hired out, by rw [same]; rfl, by rw [on]; exact same.symm⟩, if_pos same, closedCredit_tuned on]
    · rw [if_neg fun e => same (e.2.2.2.symm.trans (congrArg _ on)), if_neg same]
  · next none =>
    unfold leftLine
    refine if_neg fun ⟨out, _, left, e⟩ => ?_
    obtain ⟨m, on, _⟩ := Option.map_eq_some_iff.mp (e.trans (Option.some_get left).symm)
    exact none m out on

end Sys2Proof.Machine
end

section
/-! SUPPORT. Listening sources: what the choice of one, and the loss of one that nothing produces, write. PROOF. BOOTH_SET (O25). -/

namespace Sys2Proof.Machine
open Sys2Proof

variable {s t u : State} {b d : Booth} {k : BoothSettings} {args : BoothArgs} {booth : Byte}

/-! ## Listening sources -/

/-- A write of booths and of the route line alone. -/
def Listened (s t : State) : Prop := t = { s with
  gen.booths := t.gen.booths, gen.routeSending := t.gen.routeSending, gen.routeList := t.gen.routeList }

theorem Listened.trans (h : Listened s t) (g : Listened t u) : Listened s u := by
  unfold Listened at *
  rw [g, h]

theorem Listened.of_routes (h : SameRoutes s t) : Listened s t := by
  rw [h]
  rfl

theorem setListen_listened (b : Booth) (x y : Listen) (hold : Bool) (s : State) : Listened s (setListen b x y hold s) := by
  unfold setListen
  dsimp only
  split
  · rfl
  · exact Listened.trans (t := s.setBooth b _) rfl (.of_routes (placeOrder_routes ..))

theorem chooseListen_listened (b : Booth) (x : Listen) (s : State) : Listened s (chooseListen b x s) := by
  unfold chooseListen
  split <;> exact setListen_listened ..

theorem relayUnproduced_listened (s : State) : Listened s (relayUnproduced s) := by
  unfold relayUnproduced
  dsimp only
  generalize relayArcs s = arcs
  generalize List.finRange 32 = bs
  induction bs generalizing s with
  | nil => rfl
  | cons b bs ih =>
    refine Listened.trans ?_ (ih _)
    dsimp only
    split
    · split
      · rfl
      · exact chooseListen_listened ..
    · rfl

/-- A booth that listens to the floor, by choice and in effect (R75). -/
abbrev BoothLive.onFloor (l : BoothLive) : BoothLive := { l with chosen := .floor, effective := .floor, autoHold := false }

theorem chooseListen_floor (b d : Booth) (s : State) :
    (chooseListen b .floor s).booth d = if b = d then BoothLive.onFloor (s.booth b) else s.booth d := by
  unfold chooseListen
  split <;> exact setListen_booth ..

/-- The booths whose source nothing produces listen to the floor, and the others as they did (R81). -/
theorem relayUnproduced_booth (s : State) (d : Booth) : (relayUnproduced s).booth d =
    match (s.booth d).chosen with
    | .channel r => if produced (relayArcs s) r then s.booth d else BoothLive.onFloor (s.booth d)
    | .floor => s.booth d := by
  have run : ∀ (arcs : List RelayArc) (bs : List Booth), bs.Nodup → ∀ u : State, (bs.foldl (fun s b =>
      match (s.booth b).chosen with
      | .channel r => if produced arcs r then s else chooseListen b .floor s
      | .floor => s) u).booth d =
        if d ∈ bs ∧ unproduced arcs (u.booth d).chosen = true then BoothLive.onFloor (u.booth d) else u.booth d := fun arcs bs => by
    induction bs with
    | nil => simp
    | cons b bs ih =>
      intro apart u
      obtain ⟨fresh, apart⟩ := List.nodup_cons.mp apart
      have step : ∀ e, (match (u.booth b).chosen with
          | .channel r => if produced arcs r then u else chooseListen b .floor u
          | .floor => u).booth e =
            if b = e ∧ unproduced arcs (u.booth b).chosen = true then BoothLive.onFloor (u.booth b) else u.booth e := fun e => by
        cases (u.booth b).chosen with
        | floor => exact (if_neg fun h => nomatch h.2).symm
        | channel r =>
          cases hp : produced arcs r
          · simp [unproduced, hp, chooseListen_floor]
          · simp [unproduced, hp]
      rw [List.foldl_cons, ih apart, step]
      by_cases e : b = d
      · subst e
        simp [fresh]
      · simp [e, Ne.symm e]
  refine (run (relayArcs s) _ (List.nodup_finRange 32) s).trans ?_
  cases (s.booth d).chosen with
  | floor => exact if_neg fun h => nomatch h.2
  | channel r => cases hp : produced (relayArcs s) r <;> simp [unproduced, hp]

theorem voidCycle_eq (b : Booth) (s : State) : voidCycle b s = { s with gen.cycle := cycleVoided b s.gen.cycle } := by
  rw [voidCycle_cycle]
  refine congrArg (fun x => { s with gen.cycle := x }) ?_
  unfold voidCycle cycleVoided
  cases hc : s.gen.cycle with
  | idle => exact hc
  | sending d tally voided | window d voided =>
    dsimp only
    by_cases e : d = b <;> simp [e]
  | handing d events =>
    dsimp only
    split
    · rfl
    · exact hc

theorem reseated_booth (b d : Booth) (x : Option BoothSettings) (s : State) :
    (reseated b x s).booth d = if b = d then BoothLive.onFloor (s.booth b) else s.booth d := by
  rw [reseated, voidCycle_booth]
  exact setListen_booth ..

/-- A booth takes new settings or loses its own, with its poll cycle voided. -/
theorem reseated_frame (b : Booth) (x : Option BoothSettings) (s : State) : reseated b x s = { s with
    ret.booths := s.ret.booths.set b x, gen.booths := (reseated b x s).gen.booths, gen.cycle := cycleVoided b s.gen.cycle
    gen.routeSending := (reseated b x s).gen.routeSending, gen.routeList := (reseated b x s).gen.routeList } := by
  have listened := setListen_listened b .floor .floor false s
  unfold reseated
  rw [voidCycle_eq]
  generalize setListen b .floor .floor false s = u at listened
  rw [listened]
  rfl

/-! ## The parameters of BOOTH_SET (R36) -/

theorem boothOf_eq_some : boothOf booth = some b ↔ b.val + 1 = booth.toNat := fromOne_eq_some
theorem boothOf_eq_none : boothOf booth = none ↔ booth.toNat < 1 ∨ 32 < booth.toNat := fromOne_eq_none

theorem modeOf_eq_some {x : Byte} {m : HandoverMode} : modeOf x = some m ↔
    x.toNat = (match m with | .direct => 0 | .courtesy => 1 | .timed => 2) := by
  unfold modeOf
  split <;> cases m <;> simp_all

theorem autoFloorOf_eq_some {x : Byte} {on : Bool} : autoFloorOf x = some on ↔ x.toNat = (if on then 1 else 0) := by
  unfold autoFloorOf
  split <;> cases on <;> simp_all

theorem modeOf_eq_none {x : Byte} : modeOf x = none ↔ 2 < x.toNat := by
  rcases byte_cases x with rfl | rfl | rfl | far
  case inr.inr.inr =>
    refine iff_of_true ?_ far
    unfold modeOf
    split
    case h_4 => rfl
    all_goals omega
  all_goals exact iff_of_false nofun (by decide)

theorem autoFloorOf_eq_none {x : Byte} : autoFloorOf x = none ↔ 1 < x.toNat := by
  rcases byte_cases x with rfl | rfl | rfl | far
  case inr.inr.inr =>
    refine iff_of_true ?_ (by omega)
    unfold autoFloorOf
    split
    case h_3 => rfl
    all_goals omega
  case inr.inr.inl => exact iff_of_true rfl (by decide)
  all_goals exact iff_of_false nofun (by decide)

theorem outputBOf_eq_some {x : Option Byte} {y : Option Chan} : outputBOf x = some y ↔
    y.map (fun c => c.val + 1) = x.map BitVec.toNat := by
  cases x with
  | none => cases y <;> simp [outputBOf]
  | some x => cases y <;> simp [outputBOf, chanOf_eq_some]

theorem outputBOf_eq_none {x : Option Byte} : outputBOf x = none ↔ ∃ o, x = some o ∧ (o.toNat < 1 ∨ 24 < o.toNat) := by
  cases x <;> simp [outputBOf, chanOf_eq_none]

theorem offerTime_clamped (x : Nat) : clamp Config.offerTimeMin Config.offerTimeMax x = max 5 (min 120 x) := rfl

/-- The parameters of a BOOTH_SET that passes its checks are read as its settings. -/
theorem boothSettingsOf_of_reads (passes : ¬ BoothArgsFail args) (reads : BoothReads args k) : boothSettingsOf args = some k := by
  obtain ⟨seats, outputA, outputB, mode, offerTime, autoFloor⟩ := reads
  unfold BoothArgsFail at passes
  push Not at passes
  obtain ⟨low, high, _, _, other, _, _⟩ := passes
  unfold boothSettingsOf
  rw [show fromOne 3 args.seats.toNat = some ⟨args.seats.toNat - 1, by omega⟩ from fromOne_eq_some.mpr (by simp; omega),
    chanOf_eq_some.mpr outputA, outputBOf_eq_some.mpr outputB, modeOf_eq_some.mpr mode, autoFloorOf_eq_some.mpr autoFloor]
  dsimp only
  rw [if_neg fun same => ?_]
  · rw [offerTime_clamped, ← offerTime, ← seats]
  · rw [same] at outputB
    obtain ⟨o, ho, e⟩ := Option.map_eq_some_iff.mp outputB.symm
    exact (other o ho).2.2 (BitVec.eq_of_toNat_eq (e.trans outputA))

theorem boothSettingsOf_fails (fails : BoothArgsFail args) : boothSettingsOf args = none := by
  unfold boothSettingsOf
  split
  · next seats outputA outputB mode autoFloor hs ha hb hm hf =>
    refine if_pos ?_
    rcases fails with low | high | low | high | ⟨o, ho, low | high | same⟩ | high | high
    · exact nomatch hs.symm.trans (fromOne_eq_none.mpr (.inl low))
    · exact nomatch hs.symm.trans (fromOne_eq_none.mpr (.inr high))
    · exact nomatch ha.symm.trans (chanOf_eq_none.mpr (.inl low))
    · exact nomatch ha.symm.trans (chanOf_eq_none.mpr (.inr high))
    · exact nomatch hb.symm.trans (outputBOf_eq_none.mpr ⟨o, ho, .inl low⟩)
    · exact nomatch hb.symm.trans (outputBOf_eq_none.mpr ⟨o, ho, .inr high⟩)
    · subst same
      rw [ho, show outputBOf (some args.outputA) = (chanOf args.outputA).map some from rfl, ha] at hb
      exact (Option.some.inj hb).symm
    · exact nomatch hm.symm.trans (modeOf_eq_none.mpr high)
    · exact nomatch hf.symm.trans (autoFloorOf_eq_none.mpr high)
  · rfl

theorem exists_boothReads (passes : ¬ BoothArgsFail args) : ∃ k, BoothReads args k := by
  unfold BoothArgsFail at passes
  push Not at passes
  obtain ⟨_, _, lowA, highA, other, mode, floor⟩ := passes
  obtain ⟨outputA, ha⟩ := Option.ne_none_iff_exists'.mp (mt chanOf_eq_none.mp (by omega : ¬ (args.outputA.toNat < 1 ∨ 24 < args.outputA.toNat)))
  obtain ⟨outputB, hb⟩ := Option.ne_none_iff_exists'.mp (mt outputBOf_eq_none.mp (by
    rintro ⟨o, ho, range⟩
    obtain ⟨low, high, _⟩ := other o ho
    omega) : outputBOf args.outputB ≠ none)
  obtain ⟨m, hm⟩ := Option.ne_none_iff_exists'.mp (mt modeOf_eq_none.mp (Nat.not_lt.mpr mode))
  obtain ⟨on, hf⟩ := Option.ne_none_iff_exists'.mp (mt autoFloorOf_eq_none.mp (Nat.not_lt.mpr floor))
  exact ⟨⟨args.seats.toNat, outputA, outputB, m, max 5 (min 120 args.offerTime.toNat), on⟩, rfl, chanOf_eq_some.mp ha,
    outputBOf_eq_some.mp hb, modeOf_eq_some.mp hm, rfl, autoFloorOf_eq_some.mp hf⟩

/-! ## BOOTH_SET (R36, R37) -/

/-- A booth that has just taken settings. -/
def freshBooth (i : Option Indication) : BoothLive :=
  { seats := Bank.fill 3 .off, selection := .a, muted := false, indication := i, chosen := .floor, effective := .floor
    autoHold := false, presence := .pending, misses := 0, lastGood := none }

theorem configureBooth_reseats (b : Booth) (k : BoothSettings) (s : State) : configureBooth b k s =
    relayUnproduced (reseated b (some k) ((withdrawAll b s).setBooth b { (withdrawAll b s).booth b with
      seats := Bank.fill 3 .off, selection := .a, presence := .pending, misses := 0, lastGood := none
      indication := if (waitingChans s b).isEmpty then none else some .withdrawn })) := rfl

/-- What a BOOTH_SET leaves of a hall whose seats of booth `b` are off air. -/
theorem configureBooth_eq (agrees : HallAgrees s) (idle : NoneLive s b) (k : BoothSettings) :
    (∀ d, (configureBooth b k s).booth d = if b = d then freshBooth (if ∃ i, s.seat b i = .waiting then some .withdrawn else none)
      else match (s.booth d).chosen with
        | .channel r => if produced (relayArcs (configureBooth b k s)) r then s.booth d else BoothLive.onFloor (s.booth d)
        | .floor => s.booth d) ∧
    configureBooth b k s = { s with
      ret.booths := s.ret.booths.set b (some k), gen.booths := (configureBooth b k s).gen.booths
      gen.offers := s.gen.offers.map (fun o => o.filter (fun o => o.waitBooth != b))
      gen.cycle := cycleVoided b s.gen.cycle
      gen.routeSending := (configureBooth b k s).gen.routeSending, gen.routeList := (configureBooth b k s).gen.routeList } := by
  have waits := agrees.toWaits
  have empty := waitingChans_isEmpty_iff waits (agrees.waitingOffered b)
  have unmuted : (s.booth b).muted = false := by
    have none : ¬ ∃ j, s.seat b j = .cough := fun ⟨j, e⟩ => by
      have off := idle j
      rw [e] at off
      cases off
    exact Bool.eq_false_iff.mpr (mt (agrees.mutes b).mp none)
  have given : (if (waitingChans s b).isEmpty = true then none else some Indication.withdrawn) =
      if ∃ i, s.seat b i = .waiting then some .withdrawn else none := by
    by_cases w : ∃ i, s.seat b i = .waiting
    · rw [if_neg fun e => empty.mp e w, if_pos w]
    · rw [if_pos (empty.mpr w), if_neg w]
  rw [configureBooth_reseats, withdrawAll_eq waits (agrees.waitingOffered b), given]
  generalize hu : State.setBooth _ b _ = u
  have settled : u = { s with
      gen.booths := s.gen.booths.set b { freshBooth (if ∃ i, s.seat b i = .waiting then some .withdrawn else none) with
        chosen := (s.booth b).chosen, effective := (s.booth b).effective, autoHold := (s.booth b).autoHold }
      gen.offers := s.gen.offers.map (fun o => o.filter (fun o => o.waitBooth != b)) } := by
    rw [← hu, freshBooth, ← unmuted]
    unfold State.setBooth State.booth
    simp only [Bank.set_set, Bank.get_set_same]
  have booths : ∀ d, (reseated b (some k) u).booth d =
      if b = d then freshBooth (if ∃ i, s.seat b i = .waiting then some .withdrawn else none) else s.booth d := fun d => by
    rw [reseated_booth, settled]
    unfold State.booth
    split
    · next e => rw [Bank.get_set_same]; rfl
    · next e => exact (Bank.get_set ..).trans (if_neg e)
  have frame := reseated_frame b (some k) u
  generalize reseated b (some k) u = v at booths frame
  have lost := relayUnproduced_booth v
  have produces := produced_congr (relayUnproduced_boothSettings v)
  have listened := relayUnproduced_listened v
  generalize relayUnproduced v = t at lost produces listened
  refine ⟨fun d => ?_, ?_⟩
  · rw [lost, booths]
    by_cases e : b = d
    · simp only [if_pos e, freshBooth]
    · rw [if_neg e, if_neg e]
      cases (s.booth d).chosen with
      | floor => rfl
      | channel r => simp only [produces]
  · rw [listened, frame, settled]

/-- Settles O25. -/
theorem boothSetConfigures : Obligations.BoothSetConfigures := by
  intro s tag booth args ready
  refine ⟨fun fails => ?_, exists_boothReads, fun b k named passes reads => ⟨fun live => ?_, fun idle loops => ?_, fun idle sound agrees => ?_⟩⟩
  · refine ready.planned_refused tag .boothSet ?_
    unfold setBoothRequest
    split
    · next b k hb hk =>
      rcases fails with low | high | fails
      · exact nomatch hb.symm.trans (boothOf_eq_none.mpr (.inl low))
      · exact nomatch hb.symm.trans (boothOf_eq_none.mpr (.inr high))
      · exact nomatch hk.symm.trans (boothSettingsOf_fails fails)
    · rfl
  all_goals
    have read : setBoothRequest booth args s = if (liveSeat s b).isSome then (.inUse, [], s)
        else if relayCheck s (arcsWithBooth s b k) then (.done, u8 k.offerTime, configureBooth b k s) else (.loop, [], s) := by
      unfold setBoothRequest
      rw [boothOf_eq_some.mpr named.symm, boothSettingsOf_of_reads passes reads]
  · refine ready.planned_refused tag .boothSet (read.trans (if_pos ?_))
    exact Option.isSome_iff_ne_none.mpr (mt liveSeat_eq_none.mp live)
  · have free : ¬ (liveSeat s b).isSome = true := by rw [liveSeat_eq_none.mpr idle]; exact nofun
    exact ready.planned_refused tag .boothSet ((read.trans (if_neg free)).trans (if_neg (Bool.eq_false_iff.mp loops)))
  · have free : ¬ (liveSeat s b).isSome = true := by rw [liveSeat_eq_none.mpr idle]; exact nofun
    have accepted := (read.trans (if_neg free)).trans (if_pos sound)
    obtain ⟨booths, frame⟩ := configureBooth_eq agrees idle k
    refine ⟨configureBooth b k s, ?_, ?_⟩
    · refine (ready.request_planned tag .boothSet _).trans ?_
      rw [accepted]
      dsimp only
      generalize configureBooth b k s = t at frame
      rw [show dirAfter s t = t from by rw [frame]; exact dirAfter_still rfl rfl rfl rfl]
    · generalize configureBooth b k s = t at booths frame
      refine ⟨fun d => ?_, (booths b).trans (if_pos rfl), fun d other => (booths d).trans (if_neg other.symm), fun c => ?_, ?_⟩
      · rw [frame]
        exact (Bank.get_set ..).trans (if_congr eq_comm rfl rfl)
      · rw [frame]
        exact Bank.get_map ..
      · have books : t.ret.booths = s.ret.booths.set b (some k) := congrArg (fun t => t.ret.booths) frame
        have offers : t.gen.offers = _ := congrArg (fun t => t.gen.offers) frame
        rw [books, offers]
        exact frame

end Sys2Proof.Machine
end

section
/-! PROOF. The seats that a booth loses. BOOTH_CLEAR and BOOTH_CUT (O26). -/

namespace Sys2Proof.Machine
open Sys2Proof

variable {s t u w e : State} {b d : Booth} {k j h : Seat} {m : BoothSettings} {c x : Chan} {l : List NoticeBody} {o : Offer}

/-! ## The end of a turn, whether an offer stands or not -/

section
variable {manner : Manner} {ind : Booth → Option Indication} (ended : TurnEnded b k c manner ind s t)
include ended

theorem TurnEnded.seat (d : Booth) (j : Seat) : t.seat d j = if d = b ∧ j = k then .off
    else if (d, j) ∈ cutTurns (s.offer c) then .live else s.seat d j := by
  obtain ⟨_, _, ended⟩ := ended
  cases ho : s.offer c with
  | none =>
    rw [ho] at ended
    exact (ended.1.1 d j).trans (if_congr Iff.rfl rfl (if_neg List.not_mem_nil).symm)
  | some o =>
    rw [ho] at ended
    refine (ended.1.1 d j).trans (if_congr Iff.rfl rfl (if_congr ?_ rfl rfl))
    simp [cutTurns]

theorem TurnEnded.booth (d : Booth) : t.booth d = { s.booth d with
    seats := (t.booth d).seats, muted := (t.booth d).muted, indication := ind d
    effective := (t.booth d).effective, autoHold := (t.booth d).autoHold } := by
  obtain ⟨_, _, ended⟩ := ended
  cases ho : s.offer c with
  | none => rw [ho] at ended; exact ended.1.2.2 d
  | some o => rw [ho] at ended; exact ended.1.2.2 d

theorem TurnEnded.mutes (agrees : MuteAgrees s d) : MuteAgrees t d := by
  obtain ⟨_, _, ended⟩ := ended
  cases ho : s.offer c with
  | none => rw [ho] at ended; exact ended.1.2.1 d agrees
  | some o => rw [ho] at ended; exact ended.1.2.1 d agrees

theorem TurnEnded.turns : TurnsRaised (cutTurns (s.offer c)) s t := by
  obtain ⟨_, _, ended⟩ := ended
  cases ho : s.offer c with
  | none => rw [ho] at ended; exact ended.2.1
  | some o => rw [ho] at ended; exact ended.2.1

theorem TurnEnded.chan (x : Chan) : t.chan x = if x = c then (match s.offer c with
    | some o => passed s c o
    | none => released s c) else s.chan x := by
  obtain ⟨_, _, ended⟩ := ended
  by_cases same : x = c
  · rw [if_pos same, same]
    cases ho : s.offer c with
    | none => rw [ho] at ended; exact ended.2.2.1.1
    | some o => rw [ho] at ended; exact ended.2.2.1.1
  · rw [if_neg same]
    cases ho : s.offer c with
    | none => rw [ho] at ended; exact ended.2.2.1.2 x same
    | some o => rw [ho] at ended; exact ended.2.2.1.2 x same

theorem TurnEnded.offer (x : Chan) : t.offer x = if x = c then none else s.offer x := by
  obtain ⟨_, ⟨own, others⟩, _⟩ := ended
  split
  · next same => rw [same, own]
  · next other => exact others x other

end

/-! ## The seats that a booth loses (R52) -/

theorem liveSeat_congr (same : ∀ k, isLive (t.seat b k) = isLive (s.seat b k)) : liveSeat t b = liveSeat s b := by
  unfold liveSeat
  simp only [same]

theorem HallAgrees.withdrawAll (agrees : HallAgrees s) (b : Booth) : HallAgrees (withdrawAll b s) := by
  obtain ⟨placed, mutes⟩ := (hallAgrees_iff s).mp agrees
  exact (hallAgrees_iff _).mpr ⟨(Placed.withdrawAll placed b).1, fun d => (withdrawAll_deeds b s).mutes (mutes d)⟩

theorem liveSeat_withdrawAll (agrees : HallAgrees s) (b : Booth) : liveSeat (withdrawAll b s) b = liveSeat s b :=
  liveSeat_congr (Placed.withdrawAll ((hallAgrees_iff s).mp agrees).1 b).2.2

/-- The seat that a booth's loss of its seats takes to LIVE (R64). -/
def handsOver (s : State) (b d : Booth) (j : Seat) : Bool :=
  (List.finRange 24).any fun c => (s.offer c).any (fun o => o.holdBooth == b && o.waitBooth == d && o.waitSeat == j)

theorem handsOver_iff : handsOver s b d j = true ↔ ∃ c o, s.offer c = some o ∧ o.holdBooth = b ∧ o.waitBooth = d ∧ o.waitSeat = j := by
  simp [handsOver, Option.any_eq_true, and_assoc]

theorem HallAgrees.held (agrees : HallAgrees s) (ho : s.offer x = some o) :
    isLive (s.seat o.holdBooth o.holdSeat) = true ∧ ∃ m, s.boothSettings o.holdBooth = some m ∧ selectedChan m (s.booth o.holdBooth) = x :=
  agrees.holderLive x _ _ (agrees.offerHeld x o ho).1

/-- The loss of a booth's seats, told by what it leaves of the hall: nothing more than the end of its turn, if it has one. -/
theorem SeatsTaken.of_ended {c : Option Chan} (agrees : HallAgrees s)
    (holds : ∀ x, (s.chan x).holder.map Holder.booth = some b ↔ c = some x)
    (offer : ∀ x, e.offer x = if c = some x then none else (s.offer x).filter (fun o => o.waitBooth != b))
    (off : ∀ j, e.seat b j = .off)
    (seat : ∀ d j, d ≠ b → e.seat d j = if handsOver s b d j then .live else s.seat d j)
    (booth : ∀ d, e.booth d = { s.booth d with
      seats := (e.booth d).seats, muted := (e.booth d).muted, indication := (e.booth d).indication
      effective := (e.booth d).effective, autoHold := (e.booth d).autoHold })
    (indication : ∀ d, d ≠ b → (e.booth d).indication = (s.booth d).indication)
    (mutes : ∀ d, MuteAgrees e d)
    (chan : ∀ x, e.chan x = if c = some x then (match (s.offer x).filter (fun o => o.waitBooth != b) with
      | some o => passed s x o
      | none => released s x) else s.chan x)
    (acc : ∀ d j, e.acc d j = { s.acc d j with
      turns := if d ≠ b ∧ handsOver s b d j then min 65535 ((s.acc d j).turns + 1) else (s.acc d j).turns }) :
    SeatsTaken b s (e.setBooth b { e.booth b with indication := none }) := by
  have seats : ∀ d j, (e.setBooth b { e.booth b with indication := none }).seat d j = e.seat d j := fun d j => by
    rw [State.setBooth_seat]
    split
    · next same => rw [← same]; rfl
    · rfl
  have waits : ∀ d j, handsOver s b d j = true → s.seat d j = .waiting := fun d j handed => by
    obtain ⟨x, o, ho, _, hd, hj⟩ := handsOver_iff.mp handed
    rw [← hd, ← hj]
    exact agrees.waiting ho
  refine ⟨fun x => (offer x).trans ?_, fun d j => ?_, fun d => ?_, fun x => (chan x).trans ?_, fun d j => ?_⟩
  · cases ho : s.offer x with
    | none => exact ite_self ..
    | some o =>
      have own : o.holdBooth = b ↔ c = some x := by
        rw [← holds, (agrees.offerHeld x o ho).1]
        exact (Option.some_inj).symm
      by_cases same : c = some x
      · rw [if_pos same]
        exact (if_neg (by simp [own.mpr same])).symm
      · rw [if_neg same]
        have other : ¬ o.holdBooth = b := mt own.mp same
        simp [Option.filter, other]
  · rw [seats]
    by_cases same : d = b
    · rw [if_pos same, same, off]
    · rw [if_neg same, seat d j same]
      rfl
  · have unmuted : (e.booth b).muted = false := by
      refine Bool.eq_false_iff.mpr fun on => ?_
      obtain ⟨j, coughs⟩ := (mutes b).mp on
      exact nomatch (off j).symm.trans coughs
    rw [State.setBooth_booth]
    by_cases same : d = b
    · subst same
      rw [if_pos rfl, booth d]
      simp [unmuted]
    · rw [if_neg (Ne.symm same), if_neg same, if_neg same, ← indication d same]
      refine (booth d).trans ?_
      have still : (e.booth d).muted = (s.booth d).muted := by
        refine Bool.eq_iff_iff.mpr ((mutes d).trans (Iff.trans ?_ (agrees.mutes d).symm))
        refine exists_congr fun j => ?_
        rw [seat d j same]
        split
        · next handed => exact iff_of_false nofun fun coughs => nomatch (waits d j handed).symm.trans coughs
        · rfl
      rw [still]
  · exact if_congr (holds x).symm rfl rfl
  · refine (acc d j).trans ?_
    rw [seats]
    have same : (d ≠ b ∧ handsOver s b d j = true) ↔ s.seat d j = .waiting ∧ e.seat d j = .live := by
      constructor
      · rintro ⟨other, handed⟩
        exact ⟨waits d j handed, (seat d j other).trans (if_pos handed)⟩
      · rintro ⟨waiting, live⟩
        have other : d ≠ b := by
          rintro rfl
          exact nomatch (off j).symm.trans live
        refine ⟨other, not_not.mp fun none => ?_⟩
        rw [seat d j other, if_neg none, waiting] at live
        cases live
    rw [if_congr same rfl rfl]

/-- The loss of a booth's seats is the end of its turn with its indication cleared. -/
theorem seatLoss_settled (agrees : HallAgrees s) (b : Booth) : seatLoss b s =
    (liveEnds b (withdrawAll b s)).setBooth b { (liveEnds b (withdrawAll b s)).booth b with indication := none } ∧
      ∀ j, (liveEnds b (withdrawAll b s)).seat b j = .off := by
  obtain ⟨placed, _⟩ := (hallAgrees_iff s).mp agrees
  obtain ⟨withdrawn, idle, _⟩ := Placed.withdrawAll placed b
  obtain ⟨_, off⟩ := Placed.liveEnds withdrawn b idle
  have mutes := (liveEnds_deeds b (Machine.withdrawAll b s)).mutes ((withdrawAll_deeds b s).mutes (agrees.mutes b))
  rw [seatLoss_eq]
  generalize liveEnds b (Machine.withdrawAll b s) = e at off mutes
  have seats : (e.booth b).seats = Bank.fill 3 .off := Bank.ext_get fun j => (off j).trans (Bank.get_fill ..).symm
  rw [← seats]
  exact ⟨syncMute_still (setBooth_mutes (b := b) (l := { e.booth b with indication := none }) rfl (fun _ => rfl) b mutes), off⟩

/-- A booth with no live seat loses its offers alone. -/
theorem seatLoss_idle (agrees : HallAgrees s) (idle : NoneLive s b) : SeatsTaken b s (seatLoss b s) := by
  obtain ⟨e, off⟩ := seatLoss_settled agrees b
  have still : liveEnds b (withdrawAll b s) = withdrawAll b s := by
    unfold liveEnds
    rw [liveSeat_withdrawAll agrees, liveSeat_eq_none.mpr idle]
    cases (withdrawAll b s).boothSettings b <;> rfl
  rw [still] at e off
  rw [e]
  have unheld : ∀ x o, s.offer x = some o → o.holdBooth ≠ b := fun x o ho own => by
    have live := (agrees.held ho).1
    rw [own, idle] at live
    cases live
  have none : ∀ d j, ¬ handsOver s b d j = true := fun d j handed => by
    obtain ⟨x, o, ho, own, _⟩ := handsOver_iff.mp handed
    exact unheld x o ho own
  have mutes := fun d => (withdrawAll_deeds b s).mutes (agrees.mutes d)
  have exact' := withdrawAll_eq agrees.toWaits (agrees.waitingOffered b)
  have offer := withdrawAll_offer b s
  have seat : ∀ d j, _ := fun d j => withdrawAll_seat (d := d) (j := j) agrees.toWaits.waits (agrees.waitingOffered b)
  generalize withdrawAll b s = w at off mutes exact' offer seat
  have booth : ∀ d, d ≠ b → w.booth d = s.booth d := fun d other => by
    rw [exact']
    exact (Bank.get_set ..).trans (if_neg (Ne.symm other))
  refine .of_ended (c := Option.none) agrees (fun x => iff_of_false (fun held => ?_) nofun) offer off (fun d j other => ?_) (fun d => ?_)
    (fun d other => by rw [booth d other]) mutes (fun x => ?_) fun d j => ?_
  · obtain ⟨⟨_, j⟩, hx, rfl⟩ := Option.map_eq_some_iff.mp held
    have live := (agrees.holderLive x _ j hx).1
    rw [idle] at live
    cases live
  · rw [seat, if_neg fun e => other e.1, if_neg (none d j)]
  · by_cases same : d = b
    · rw [same, exact']
      have read : ({ s with
          gen.booths := s.gen.booths.set b { s.booth b with seats := (s.booth b).seats.map (fun x => if x = .waiting then .off else x) }
          gen.offers := s.gen.offers.map (fun o => o.filter (fun o => o.waitBooth != b)) } : State).booth b = _ := Bank.get_set_same ..
      rw [read]
    · rw [booth d same]
  · rw [exact']
    rfl
  · rw [if_neg fun e => none d j e.2, exact']
    rfl

/-- A booth whose seat is live loses its offers, and its turn ends. -/
theorem seatLoss_live (agrees : HallAgrees s) (live : isLive (s.seat b h) = true) : SeatsTaken b s (seatLoss b s) := by
  obtain ⟨m, hm, holder⟩ := agrees.liveHolds b h live
  obtain ⟨e, off⟩ := seatLoss_settled agrees b
  rw [e]
  have agrees' := agrees.withdrawAll b
  have exact' := withdrawAll_eq agrees.toWaits (agrees.waitingOffered b)
  have offer := withdrawAll_offer b s
  have seat : ∀ d j, _ := fun d j => withdrawAll_seat (d := d) (j := j) agrees.toWaits.waits (agrees.waitingOffered b)
  have still := liveSeat_withdrawAll agrees b
  have live' : isLive ((withdrawAll b s).seat b h) = true := by
    rw [seat, if_neg]
    · exact live
    · rintro ⟨_, waits⟩
      rw [waits] at live
      cases live
  have settings : (withdrawAll b s).boothSettings b = some m := ((withdrawAll_moves b s).boothSettings b).trans hm
  unfold liveEnds at off ⊢
  rw [settings, still, agrees.liveSeat live] at off ⊢
  dsimp only at off ⊢
  generalize withdrawAll b s = w at agrees' exact' offer seat live' off
  have own : selectedChan m (w.booth b) = selectedChan m (s.booth b) := by
    rw [exact']
    unfold selectedChan State.booth
    rw [Bank.get_set_same]
  rw [own] at off ⊢
  generalize hc : selectedChan m (s.booth b) = c at off holder
  have ended := Played.turnEnded agrees' live' (endTurn_played b h c .turnEnd w) rfl rfl rfl rfl
    fun d => congrFun (quit_booth (scene w) b h c (released w c)) d
  generalize endTurn b h c .turnEnd w = e at off ended
  have holds : ∀ x, (s.chan x).holder.map Holder.booth = some b ↔ some c = some x := fun x => by
    constructor
    · intro held
      obtain ⟨⟨_, j⟩, hx, rfl⟩ := Option.map_eq_some_iff.mp held
      obtain ⟨_, n, hn, hx⟩ := agrees.holderLive x _ j hx
      cases hm.symm.trans hn
      exact congrArg some (hc.symm.trans hx)
    · intro same
      rw [← Option.some.inj same, holder]
      rfl
  have handed : ∀ d j, d ≠ b → ((d, j) ∈ cutTurns (w.offer c) ↔ handsOver s b d j = true) := fun d j other => by
    rw [handsOver_iff, offer]
    constructor
    · intro mem
      obtain ⟨o, ho, pair⟩ := List.mem_map.mp mem
      obtain ⟨rfl, rfl⟩ := Prod.mk.inj pair
      have ho := (Option.filter_eq_some_iff.mp (Option.mem_toList.mp ho)).1
      exact ⟨c, o, ho, (congrArg Holder.booth (Option.some.inj ((agrees.offerHeld c o ho).1.symm.trans holder))), rfl, rfl⟩
    · rintro ⟨x, o, ho, own, rfl, rfl⟩
      have same : some c = some x := (holds x).mp (by rw [(agrees.offerHeld x o ho).1, ← own]; rfl)
      cases same
      exact List.mem_map.mpr ⟨o, Option.mem_toList.mpr (Option.filter_eq_some_iff.mpr ⟨ho, by simpa using other⟩), rfl⟩
  have booth : ∀ d, d ≠ b → w.booth d = s.booth d := fun d other => by
    rw [exact']
    exact (Bank.get_set ..).trans (if_neg (Ne.symm other))
  have own : w.booth b = { s.booth b with seats := (w.booth b).seats } := by
    rw [exact']
    unfold State.booth
    rw [Bank.get_set_same]
  have chan : ∀ x, w.chan x = s.chan x := fun x => by rw [exact']; rfl
  refine .of_ended (c := some c) agrees holds (fun x => (ended.offer x).trans ?_) off (fun d j other => ?_) (fun d => ?_)
    (fun d other => ?_) (fun d => ended.mutes (agrees'.mutes d)) (fun x => (ended.chan x).trans ?_) fun d j => (ended.turns d j).trans ?_
  · rw [offer]
    exact if_congr (by rw [Option.some_inj, eq_comm]) rfl rfl
  · refine ((ended.seat d j).trans (if_neg fun e => other e.1)).trans (if_congr (handed d j other) rfl ?_)
    exact (seat d j).trans (if_neg fun e => other e.1)
  · rw [ended.booth d]
    by_cases same : d = b
    · rw [same, own]
    · rw [booth d same]
  · rw [ended.booth d, booth d other]
  · by_cases same : x = c
    · rw [if_pos same, if_pos (congrArg some same.symm), same, offer]
      unfold passed released
      rw [chan, show w.settings c = s.settings c by rw [exact']; rfl]
    · rw [if_neg same, if_neg fun e => same (Option.some.inj e).symm, chan]
  · have acc : w.acc d j = s.acc d j := by rw [exact']; rfl
    rw [acc]
    have raised : (d, j) ∈ cutTurns (w.offer c) ↔ d ≠ b ∧ handsOver s b d j = true := by
      by_cases same : d = b
      · refine iff_of_false (fun mem => ?_) fun e => e.1 same
        obtain ⟨o, ho, pair⟩ := List.mem_map.mp mem
        rw [offer] at ho
        obtain ⟨_, other⟩ := Option.filter_eq_some_iff.mp (Option.mem_toList.mp ho)
        have : o.waitBooth = b := (Prod.mk.inj pair).1.trans same
        simp [this] at other
      · rw [handed d j same]
        exact (and_iff_right same).symm
    rw [if_congr raised rfl rfl]

/-- A booth that is absent or cleared loses its seats. -/
theorem seatLoss_taken (agrees : HallAgrees s) (b : Booth) : SeatsTaken b s (seatLoss b s) := by
  by_cases idle : NoneLive s b
  · exact seatLoss_idle agrees idle
  · unfold NoneLive at idle
    push Not at idle
    obtain ⟨h, live⟩ := idle
    exact seatLoss_live agrees (by simpa using live)

/-- The notices of that loss. -/
theorem seatLoss_says (agrees : HallAgrees s) (b : Booth) : Says (seatLossNotices b s) s (seatLoss b s) := by
  rw [(seatLoss_settled agrees b).1]
  have hush := withdrawAll_hush b s
  have moves := withdrawAll_moves b s
  have chosen := (withdrawAll_deeds b s).chosen
  have offer := withdrawAll_offer b s
  have live := liveSeat_withdrawAll agrees b
  have selection : ((withdrawAll b s).booth b).selection = (s.booth b).selection := by
    rw [withdrawAll_eq agrees.toWaits (agrees.waitingOffered b)]
    unfold State.booth
    rw [Bank.get_set_same]
  generalize withdrawAll b s = w at hush moves chosen offer live selection
  have ended : Says (seatLossNotices b s) s (liveEnds b w) := by
    unfold liveEnds seatLossNotices
    rw [live, moves.boothSettings b]
    cases s.boothSettings b with
    | none => cases Machine.liveSeat s b <;> exact hush.says
    | some m =>
      cases Machine.liveSeat s b with
      | none => exact hush.says
      | some h =>
        dsimp only
        unfold selectedChan
        rw [selection]
        have told := hush.says.trans (endTurn_says b h (outputOf m (s.booth b).selection) .turnEnd w)
        rw [offer, List.nil_append] at told
        simp only [passNotice_of_moves moves, releaseNotices_of_moves moves chosen] at told
        exact told
  generalize liveEnds b w = e at ended
  have cleared : Hush e (e.setBooth b { e.booth b with indication := none }) := rfl
  have told := ended.trans cleared.says
  rwa [List.append_nil] at told

/-! ## BOOTH_CLEAR (R38) -/

theorem clearBooth_reseats (b : Booth) (s : State) : clearBooth b s =
    relayUnproduced (reseated b none ((seatLoss b s).setBooth b { (seatLoss b s).booth b with
      selection := .a, indication := none, presence := .unconfigured, misses := 0, lastGood := none })) := rfl

/-- A booth that is cleared: the state with its seats taken, and its settings and its poll cycle gone. -/
theorem clearBooth_eq (agrees : HallAgrees s) (b : Booth) :
    (∀ d, (clearBooth b s).booth d = if b = d then
        { seats := Bank.fill 3 .off, selection := .a, muted := false, indication := none, chosen := .floor, effective := .floor
          autoHold := false, presence := .unconfigured, misses := 0, lastGood := none }
      else match (s.booth d).chosen with
        | .channel r => if produced (relayArcs (clearBooth b s)) r then (seatLoss b s).booth d
          else BoothLive.onFloor ((seatLoss b s).booth d)
        | .floor => (seatLoss b s).booth d) ∧
    clearBooth b s = { seatLoss b s with
      ret.booths := s.ret.booths.set b none, gen.booths := (clearBooth b s).gen.booths, gen.cycle := cycleVoided b s.gen.cycle
      gen.routeSending := (clearBooth b s).gen.routeSending, gen.routeList := (clearBooth b s).gen.routeList } := by
  obtain ⟨_, seat, booth, _, _⟩ := seatLoss_taken agrees b
  have moves := (seatLoss_moves b s).keeps
  rw [clearBooth_reseats]
  generalize seatLoss b s = u at seat booth moves
  have seats : (u.booth b).seats = Bank.fill 3 .off :=
    Bank.ext_get fun j => (seat b j).trans ((if_pos rfl).trans (Bank.get_fill ..).symm)
  have unmuted : (u.booth b).muted = false := by rw [booth b]; exact if_pos rfl
  have chosen : ∀ d, (u.booth d).chosen = (s.booth d).chosen := fun d => by rw [booth d]
  generalize hv : u.setBooth b _ = v
  have read : ∀ d, v.booth d = if b = d then { u.booth b with
      selection := .a, indication := none, presence := .unconfigured, misses := 0, lastGood := none } else u.booth d := fun d => by
    rw [← hv]
    exact State.setBooth_booth ..
  have booths : ∀ d, (reseated b none v).booth d = if b = d then
      { seats := Bank.fill 3 .off, selection := .a, muted := false, indication := none, chosen := .floor, effective := .floor
        autoHold := false, presence := .unconfigured, misses := 0, lastGood := none } else u.booth d := fun d => by
    rw [reseated_booth]
    by_cases same : b = d
    · rw [if_pos same, if_pos same, read, if_pos rfl]
      simp only [seats, unmuted]
    · rw [if_neg same, if_neg same, read, if_neg same]
  have frame := reseated_frame b none v
  generalize reseated b none v = w at booths frame
  have lost := relayUnproduced_booth w
  have produces := produced_congr (relayUnproduced_boothSettings w)
  have listened := relayUnproduced_listened w
  generalize relayUnproduced w = t at lost produces listened
  refine ⟨fun d => ?_, ?_⟩
  · rw [lost, booths]
    by_cases same : b = d
    · simp only [if_pos same]
    · rw [if_neg same, if_neg same, chosen]
      cases (s.booth d).chosen with
      | floor => rfl
      | channel r => simp only [produces]
  · rw [listened, frame, ← hv, moves]
    rfl

/-! ## The requests -/

theorem light_same (S : Scene) (b : Booth) (i : Option Indication) : (S.light b i).chan = S.chan ∧ (S.light b i).seat = S.seat ∧
    (S.light b i).acc = S.acc ∧ (S.light b i).offer = S.offer := ⟨rfl, rfl, rfl, rfl⟩

theorem cutTurn_ended (agrees : HallAgrees s) (live : isLive (s.seat b k) = true) (c : Chan) (before : State) :
    TurnEnded b k c .turnEnd (fun d => if d = b then some .cut else (s.booth d).indication) s (dirAfter before (cutTurn b k c s)) := by
  have told := (endTurn_says b k c .turnEnd s).trans (indicate_hush b (some .cut) _).says
  rw [List.append_nil] at told
  have played := Played.after (.of_deeds (cutTurn_deeds b k c s) told (scene_cutTurn b k c s)) before
  obtain ⟨chan, seat, acc, offer⟩ := light_same ((scene s).quit b k c (released s c)) b (some .cut)
  have booth : ∀ d, (((scene s).quit b k c (released s c)).light b (some .cut)).booth d =
      { plain (s.booth d) with indication := if d = b then some .cut else (s.booth d).indication } := fun d => by
    rw [light_booth, quit_booth]
    rfl
  obtain ⟨T, cut⟩ : ∃ T, ((scene s).quit b k c (released s c)).light b (some .cut) = T := ⟨_, rfl⟩
  rw [cut] at played chan seat acc offer booth
  exact Played.turnEnded agrees live played chan seat acc offer booth

theorem exec_boothClear (ready : Ready .console s) (tag : Byte) {booth : Byte} (named : boothOf booth = some b)
    (hm : s.boothSettings b = some m) : exec (.boothClear .console tag booth) s =
      .next (responds .console tag .done [] (dirAfter s (clearBooth b s))) := by
  have result : clearBoothRequest booth s = (.done, clearBooth b s) := by
    unfold clearBoothRequest
    rw [named]
    exact if_neg (by rw [hm]; exact nofun)
  refine (ready.request_planned tag .boothClear _).trans ?_
  rw [bare, result]

theorem exec_boothCut (ready : Ready .console s) (tag : Byte) {booth : Byte} (named : boothOf booth = some b)
    (hm : s.boothSettings b = some m) (live : liveSeat s b = some h) : exec (.boothCut .console tag booth) s =
      .next (responds .console tag .done [] (dirAfter s (cutTurn b h (selectedChan m (s.booth b)) s))) := by
  refine (ready.request_planned tag .boothCut _).trans ?_
  unfold bare cutBoothRequest
  rw [named]
  dsimp only
  rw [hm]
  dsimp only
  rw [live]

theorem clearBoothRequest_refused {booth : Byte} : (boothOf booth = none → clearBoothRequest booth s = (.badArg, s)) ∧
    ∀ b, boothOf booth = some b → s.boothSettings b = none → clearBoothRequest booth s = (.notFound, s) := by
  unfold clearBoothRequest
  refine ⟨fun out => by rw [out], fun b named none => ?_⟩
  rw [named]
  exact if_pos (Option.isNone_iff_eq_none.mpr none)

theorem cutBoothRequest_refused {booth : Byte} : (boothOf booth = none → cutBoothRequest booth s = (.badArg, s)) ∧
    ∀ b, boothOf booth = some b → (s.boothSettings b = none → cutBoothRequest booth s = (.notFound, s)) ∧
      ∀ m, s.boothSettings b = some m → liveSeat s b = none → cutBoothRequest booth s = (.wrongState, s) := by
  unfold cutBoothRequest
  refine ⟨fun out => by rw [out], fun b named => ⟨fun none => ?_, fun m settings idle => ?_⟩⟩
  · rw [named]
    dsimp only
    rw [none]
  · rw [named]
    dsimp only
    rw [settings]
    dsimp only
    rw [idle]

/-- Settles O26. -/
theorem boothClearAndCut : Obligations.BoothClearAndCut := by
  intro s tag booth ready
  have refuseClear : ∀ {a}, clearBoothRequest booth s = (a, s) → exec (.boothClear .console tag booth) s =
      .next (responds .console tag a [] s) := fun result =>
    ready.planned_refused tag .boothClear (congrArg (fun x => (x.1, [], x.2)) result)
  have refuseCut : ∀ {a}, cutBoothRequest booth s = (a, s) → exec (.boothCut .console tag booth) s =
      .next (responds .console tag a [] s) := fun result =>
    ready.planned_refused tag .boothCut (congrArg (fun x => (x.1, [], x.2)) result)
  refine ⟨fun range => ⟨refuseClear (clearBoothRequest_refused.1 (boothOf_eq_none.mpr range)),
    refuseCut (cutBoothRequest_refused.1 (boothOf_eq_none.mpr range))⟩, fun b named => ?_⟩
  have named := boothOf_eq_some.mpr named.symm
  refine ⟨fun none => ⟨refuseClear (clearBoothRequest_refused.2 b named none),
    refuseCut ((cutBoothRequest_refused.2 b named).1 none)⟩,
    fun m hm agrees _ => ⟨?_, fun idle => refuseCut ((cutBoothRequest_refused.2 b named).2 m hm (liveSeat_eq_none.mpr idle)),
      fun k live => ⟨_, exec_boothCut ready tag named hm (agrees.liveSeat live), cutTurn_ended agrees live _ s⟩⟩⟩
  refine ⟨_, seatLoss b s, exec_boothClear ready tag named hm, seatLoss_taken agrees b, (seatLoss_says agrees b).port, ?_⟩
  obtain ⟨booths, frame⟩ := clearBooth_eq agrees b
  have moves := (seatLoss_moves b s).keeps
  generalize seatLoss b s = u at booths frame moves
  generalize clearBooth b s = v at booths frame
  have directory := dirAfter_directory s v
  generalize dirAfter s v = t at directory
  have same : t.booth = v.booth := by rw [directory]; rfl
  have arcs : relayArcs t = relayArcs v := by rw [directory]; rfl
  refine ⟨by rw [directory, frame], by rw [directory, frame], by rw [directory, frame], by rw [directory, frame], fun d => ?_, ?_,
    fun d other => ?_, ?_⟩
  · rw [directory, frame]
    exact (Bank.get_set ..).trans (if_congr eq_comm rfl rfl)
  · rw [same]
    exact (booths b).trans (if_pos rfl)
  · rw [same, arcs]
    exact (booths d).trans (if_neg other.symm)
  · unfold HallOnly
    rw [directory, frame, moves]

end Sys2Proof.Machine
end

section
/-! PROOF. RELAY_SET and RELAY_SELECT (O27). -/

namespace Sys2Proof.Machine
open Sys2Proof

variable {s t : State} {b : Booth} {k : BoothSettings} {r : Chan} {n booth : Byte} {rest : List ReplyEvent} {x : Listen}

/-! ## The parameters -/

theorem relayParam_channel (h : n.toNat = r.val + 1) : relayParam n = some (.channel r) := by
  have other : n ≠ 0 := fun e => by rw [e] at h; simp at h
  unfold relayParam
  rw [if_neg other, chanOf_eq_some.mpr h.symm]
  rfl

theorem relayParam_far (h : 24 < n.toNat) : relayParam n = none := by
  have other : n ≠ 0 := fun e => by rw [e] at h; simp at h
  unfold relayParam
  rw [if_neg other, chanOf_eq_none.mpr (.inr h)]
  rfl

theorem listenOf_channel (h : n.toNat = r.val + 1) : listenOf ⟨2, n⟩ = some (.channel r) := by
  show (chanOf n).map Listen.channel = _
  rw [chanOf_eq_some.mpr h.symm]
  rfl

theorem listenOf_far (h : n.toNat < 1 ∨ 24 < n.toNat) : listenOf ⟨2, n⟩ = none := by
  show (chanOf n).map Listen.channel = _
  rw [chanOf_eq_none.mpr h]
  rfl

theorem listenOf_unfit {source : SourceBytes} (h : (source.kind ≠ 0 ∧ source.kind ≠ 2) ∨ (source.kind = 0 ∧ source.number ≠ 0)) :
    listenOf source = none := by
  unfold listenOf
  split
  · next floor =>
    have kind : source.kind = 0 := BitVec.eq_of_toNat_eq floor
    rcases h with ⟨other, _⟩ | ⟨_, number⟩
    · exact absurd kind other
    · exact if_neg number
  · next channel =>
    have kind : source.kind = 2 := BitVec.eq_of_toNat_eq channel
    rcases h with ⟨_, other⟩ | ⟨floor, _⟩
    · exact absurd kind other
    · rw [kind] at floor
      cases floor
  · rfl

/-! ## The tests of R77 -/

section
variable (other : (s.booth b).chosen ≠ .channel r)
include other

theorem listenTests_notFound (fails : (s.settings r).slot = none ∨ produced (relayArcs s) r = false) :
    listenTests s b k (.channel r) = some .notFound := by
  unfold listenTests
  dsimp only
  rw [if_neg other.symm]
  by_cases slot : (s.settings r).slot = none
  · exact if_pos (Option.isNone_iff_eq_none.mpr slot)
  · rw [if_neg (mt Option.isNone_iff_eq_none.mp slot)]
    exact if_pos (by rw [fails.resolve_left slot]; rfl)

section
variable (slot : (s.settings r).slot ≠ none) (made : produced (relayArcs s) r = true)
include slot made

theorem listenTests_loop (fails : r = k.outputA ∨ k.outputB = some r ∨ hasCycle (withInput b (.channel r) (relayArcs s)) = true ∨
    withinHopLimit (withInput b (.channel r) (relayArcs s)) = false) : listenTests s b k (.channel r) = some .loop := by
  unfold listenTests
  dsimp only
  rw [if_neg other.symm, if_neg (mt Option.isNone_iff_eq_none.mp slot), if_neg (by rw [made]; exact nofun)]
  by_cases own : r = k.outputA ∨ some r = k.outputB
  · exact if_pos own
  · rw [if_neg own]
    by_cases cycle : hasCycle (withInput b (.channel r) (relayArcs s)) = true
    · exact if_pos cycle
    · rw [if_neg cycle]
      have limit := ((fails.resolve_left (own ∘ .inl)).resolve_left fun e => own (.inr e.symm)).resolve_left cycle
      exact if_pos (by rw [limit]; rfl)

theorem listenTests_pass (outA : r ≠ k.outputA) (outB : k.outputB ≠ some r)
    (acyclic : hasCycle (withInput b (.channel r) (relayArcs s)) = false)
    (limit : withinHopLimit (withInput b (.channel r) (relayArcs s)) = true) : listenTests s b k (.channel r) = none := by
  unfold listenTests
  dsimp only
  rw [if_neg other.symm, if_neg (mt Option.isNone_iff_eq_none.mp slot), if_neg (by rw [made]; exact nofun),
    if_neg (not_or.mpr ⟨outA, Ne.symm outB⟩), if_neg (by rw [acyclic]; exact nofun), if_neg (by rw [limit]; exact nofun)]

end
end

theorem listenTests_chosen (same : (s.booth b).chosen = .channel r) : listenTests s b k (.channel r) = none := if_pos same.symm

/-! ## What a change that passes writes -/

/-- A booth with the source `x`, chosen and in effect (R75). -/
def listening (s : State) (b : Booth) (k : BoothSettings) (x : Listen) : BoothLive :=
  { s.booth b with chosen := x, effective := (derivedListen k x s).1, autoHold := (derivedListen k x s).2 }

theorem chooseListen_eq (hm : s.boothSettings b = some k) (x : Listen) : chooseListen b x s = { s.setBooth b (listening s b k x) with
    gen.routeSending := (chooseListen b x s).gen.routeSending, gen.routeList := (chooseListen b x s).gen.routeList } := by
  have booths : (chooseListen b x s).gen.booths = s.gen.booths.set b (listening s b k x) := Bank.ext_get fun d => by
    refine Eq.trans ?_ (Bank.get_set ..).symm
    unfold chooseListen
    rw [hm]
    exact setListen_booth ..
  have listened := chooseListen_listened b x s
  generalize chooseListen b x s = t at booths listened
  unfold Listened at listened
  rw [booths] at listened
  exact listened

theorem listening_floor : listening s b k .floor = BoothLive.onFloor (s.booth b) := rfl

theorem listening_channel : listening s b k (.channel r) = { s.booth b with
    chosen := .channel r
    effective := if k.autoFloor = true ∧ (s.chan r).coverage = .uncovered then .floor else .channel r
    autoHold := decide (k.autoFloor = true ∧ (s.chan r).coverage = .uncovered) } := by
  unfold listening derivedListen
  dsimp only
  by_cases falls : k.autoFloor = true ∧ (s.chan r).coverage = .uncovered
  · rw [if_pos (by simp [falls]), if_pos falls, decide_eq_true falls]
  · rw [if_neg (by simpa using falls), if_neg falls, decide_eq_false falls]

/-- The choice of the source that a booth has already changes nothing. -/
theorem chooseListen_same (agrees : ListeningAgrees s) (hm : s.boothSettings b = some k) (same : (s.booth b).chosen = .channel r) :
    chooseListen b (.channel r) s = s := by
  have listens := agrees b
  rw [hm, same] at listens
  have derived : derivedListen k (.channel r) s = ((s.booth b).effective, (s.booth b).autoHold) := by
    unfold derivedListen
    dsimp only at listens ⊢
    by_cases falls : k.autoFloor = true ∧ (s.chan r).coverage = .uncovered
    · rw [if_pos falls] at listens
      rw [if_pos (by simp [falls]), listens.1, listens.2]
    · rw [if_neg falls] at listens
      rw [if_neg (by simpa using falls), listens.1, listens.2]
  unfold chooseListen
  rw [hm]
  dsimp only
  rw [derived, ← same]
  unfold setListen
  dsimp only
  rw [if_pos rfl]
  show { s with gen.booths := s.gen.booths.set b (s.gen.booths.get b) } = s
  rw [Bank.set_get]

/-! ## The commands -/

theorem exec_relaySelect (h : Handing s b k (.relaySelect n) rest) : exec (.relaySelect b n) s =
    .next (dirAfter s (relaySelectEvent b k (relayParam n) (handed s b rest))) := by
  dsimp only [exec, execRelaySelect]
  unfold event
  rw [taking_awake h.toAwake, handEvent_eq h]

theorem exec_relaySelect_refused (h : Handing s b k (.relaySelect n) rest)
    (refused : relaySelectEvent b k (relayParam n) (handed s b rest) = indicate b (some .relayRefused) (handed s b rest)) :
    exec (.relaySelect b n) s = .next (indicate b (some .relayRefused) (handed s b rest)) := by
  rw [exec_relaySelect h, refused]
  exact congrArg _ (dirAfter_still rfl rfl rfl rfl)

/-- A RELAY_SELECT that its tests pass. -/
theorem exec_relaySelect_chosen (h : Handing s b k (.relaySelect n) rest) (param : relayParam n = some x)
    (passes : listenTests s b k x = none) : exec (.relaySelect b n) s = .next (chooseListen b x (handed s b rest)) := by
  have tests : listenTests (handed s b rest) b k x = none := passes
  have event : relaySelectEvent b k (relayParam n) (handed s b rest) = chooseListen b x (handed s b rest) := by
    rw [param]
    unfold relaySelectEvent
    dsimp only
    rw [tests]
  rw [exec_relaySelect h, event]
  have listened := chooseListen_listened b x (handed s b rest)
  generalize chooseListen b x (handed s b rest) = t at listened
  rw [listened]
  exact congrArg _ (dirAfter_still rfl rfl rfl rfl)

theorem relaySelectEvent_refused {u : State} {a : Answer} (param : relayParam n = some x) (fails : listenTests u b k x = some a) :
    relaySelectEvent b k (relayParam n) u = indicate b (some .relayRefused) u := by
  rw [param]
  unfold relaySelectEvent
  dsimp only
  rw [fails]

section
variable {tag : Byte} {source : SourceBytes} (ready : Ready .console s) (named : boothOf booth = some b) (hm : s.boothSettings b = some k)
include ready named hm

theorem exec_relaySet_refused {a : Answer} (param : listenOf source = some x) (fails : listenTests s b k x = some a) :
    exec (.relaySet .console tag booth source) s = .next (responds .console tag a [] s) := by
  refine ready.respond_to tag .relaySet ?_
  unfold setRelayRequest
  rw [named]
  dsimp only
  rw [hm]
  dsimp only
  rw [param]
  dsimp only
  rw [fails]

theorem exec_relaySet_badArg (param : listenOf source = none) :
    exec (.relaySet .console tag booth source) s = .next (responds .console tag .badArg [] s) := by
  refine ready.respond_to tag .relaySet ?_
  unfold setRelayRequest
  rw [named]
  dsimp only
  rw [hm]
  dsimp only
  rw [param]

theorem exec_relaySet_chosen (param : listenOf source = some x) (passes : listenTests s b k x = none) :
    exec (.relaySet .console tag booth source) s = .next (responds .console tag .done
      (listenField x ++ listenField ((chooseListen b x s).booth b).effective ++
        u8 (inputHops (hops (relayArcs (chooseListen b x s))) x)) (chooseListen b x s)) := by
  refine ready.respond_to tag .relaySet ?_
  unfold setRelayRequest
  rw [named]
  dsimp only
  rw [hm]
  dsimp only
  rw [param]
  dsimp only
  rw [passes]
  rfl

end

theorem exec_relaySet_unnamed (ready : Ready .console s) (tag : Byte) (range : boothOf booth = none) (source : SourceBytes) :
    exec (.relaySet .console tag booth source) s = .next (responds .console tag .badArg [] s) := by
  refine ready.respond_to tag .relaySet ?_
  unfold setRelayRequest
  rw [range]

theorem exec_relaySet_unconfigured (ready : Ready .console s) (tag : Byte) (named : boothOf booth = some b)
    (hm : s.boothSettings b = none) (source : SourceBytes) :
    exec (.relaySet .console tag booth source) s = .next (responds .console tag .notFound [] s) := by
  refine ready.respond_to tag .relaySet ?_
  unfold setRelayRequest
  rw [named]
  dsimp only
  rw [hm]

theorem chooseListen_booth (hm : s.boothSettings b = some k) (x : Listen) : (chooseListen b x s).booth b = listening s b k x := by
  rw [chooseListen_eq hm]
  exact Bank.get_set_same ..

/-- Settles O27. -/
theorem listeningIsChosen : Obligations.ListeningIsChosen := by
  refine ⟨fun s tag booth b k r n rest named hm number other => ?_, fun s tag booth => ⟨fun ready range => ?_, fun b named => ?_⟩⟩
  · have named := boothOf_eq_some.mpr named.symm
    have param := relayParam_channel number
    have source := listenOf_channel number
    refine ⟨fun fails => ?_, fun slot made fails => ?_, fun slot made outA outB acyclic limit => ?_⟩
    · have tests := listenTests_notFound (k := k) other fails
      exact ⟨fun ready => exec_relaySet_refused ready named hm source tests,
        fun handing => exec_relaySelect_refused handing (relaySelectEvent_refused param tests)⟩
    · have tests := listenTests_loop (k := k) other slot made fails
      exact ⟨fun ready => exec_relaySet_refused ready named hm source tests,
        fun handing => exec_relaySelect_refused handing (relaySelectEvent_refused param tests)⟩
    · have tests := listenTests_pass other slot made outA outB acyclic limit
      refine ⟨_, rfl, fun ready => ⟨chooseListen b (.channel r) s, ?_, ?_⟩,
        fun handing => ⟨_, exec_relaySelect_chosen handing param tests, ?_⟩⟩
      · rw [exec_relaySet_chosen ready named hm source tests, chooseListen_booth hm, listening_channel]
        rfl
      · rw [← listening_channel]
        exact chooseListen_eq hm _
      · rw [← listening_channel]
        exact chooseListen_eq (s := handed s b rest) hm _
  · exact exec_relaySet_unnamed ready tag (boothOf_eq_none.mpr range)
  · have named := boothOf_eq_some.mpr named.symm
    refine ⟨fun ready hm source => exec_relaySet_unconfigured ready tag named hm source, fun k hm =>
      ⟨fun ready n range => exec_relaySet_badArg ready named hm (listenOf_far range),
        fun ready source unfit => exec_relaySet_badArg ready named hm (listenOf_unfit unfit),
        fun ready => ⟨chooseListen b .floor s, ?_, ?_⟩, fun rest handing => ⟨_, exec_relaySelect_chosen handing (x := .floor) rfl rfl, ?_⟩,
        fun n rest handing far => ?_, fun n r rest handing number same agrees => ?_, fun n r ready number same agrees => ?_⟩⟩
    · have payload : listenField .floor ++ listenField .floor ++ u8 0 = [0, 0, 0, 0, 0] := by decide
      rw [exec_relaySet_chosen ready named hm (x := .floor) rfl rfl, chooseListen_booth hm, ← payload]
      rfl
    · exact chooseListen_eq hm .floor
    · exact chooseListen_eq (s := handed s b rest) hm .floor
    · refine exec_relaySelect_refused handing ?_
      rw [relayParam_far far]
      rfl
    · rw [exec_relaySelect_chosen handing (relayParam_channel number) (listenTests_chosen same)]
      exact congrArg _ (chooseListen_same (s := handed s b rest) (k := k) agrees hm same)
    · rw [exec_relaySet_chosen ready named hm (listenOf_channel number) (listenTests_chosen same), chooseListen_same agrees hm same]
      rfl

end Sys2Proof.Machine
end

section
/-! PROOF. The booth line: the scan and the replies (O28), misses and absence (O29). -/

namespace Sys2Proof.Machine
open Sys2Proof

variable {s t u : State} {b d : Booth} {k : BoothSettings} {booth count : Byte} {events : List (Byte × Byte)} {bytes : List Byte}
  {cause : MissCause}

/-! ## The scan (R89) -/

/-- The least of the members of a sorted list that meet a test is found first. -/
theorem find?_of_least {l : List Booth} (sorted : l.Pairwise (· < ·)) {p : Booth → Bool} (mem : b ∈ l) (meets : p b = true)
    (least : ∀ d ∈ l, p d = true → b ≤ d) : l.find? p = some b := by
  induction l with
  | nil => cases mem
  | cons d l ih =>
    obtain ⟨first, rest⟩ := List.pairwise_cons.mp sorted
    cases hd : p d with
    | true =>
      rw [List.find?_cons_of_pos hd]
      rcases List.mem_cons.mp mem with rfl | later
      · rfl
      · exact absurd (least d List.mem_cons_self hd) (not_le.mpr (first b later))
    | false =>
      rw [List.find?_cons_of_neg (by rw [hd]; exact nofun)]
      rcases List.mem_cons.mp mem with rfl | later
      · rw [meets] at hd
        cases hd
      · exact ih rest later fun e he => least e (List.mem_cons_of_mem _ he)

theorem mem_configured : b ∈ configured s ↔ Configured s b := by
  simp [configured, Configured, Option.isSome_iff_ne_none]

theorem configured_sorted (s : State) : (configured s).Pairwise (· < ·) := (List.pairwise_lt_finRange 32).filter _

theorem head?_eq_find? (l : List Booth) : l.head? = l.find? fun _ => true := by cases l <;> rfl

theorem nextBooth_eq (next : PolledNext s b) : nextBooth s = some b := by
  obtain ⟨stands, order⟩ := next
  have mem := mem_configured.mpr stands
  have lowest : (∀ d, Configured s d → b ≤ d) → (configured s).head? = some b := fun least => by
    rw [head?_eq_find?]
    exact find?_of_least (configured_sorted s) mem rfl fun d hd _ => least d (mem_configured.mp hd)
  unfold nextBooth
  cases hp : s.gen.scanPos with
  | none =>
    rw [hp] at order
    exact lowest order
  | some p =>
    rw [hp] at order
    dsimp only
    rcases order with ⟨above, least⟩ | ⟨none, least⟩
    · rw [find?_of_least (configured_sorted s) mem (decide_eq_true above) fun d hd h =>
        least d (mem_configured.mp hd) (of_decide_eq_true h)]
    · rw [List.find?_eq_none.mpr fun d hd h => absurd (none d (mem_configured.mp hd)) (not_le.mpr (of_decide_eq_true h))]
      exact lowest least

theorem startPoll_still (closed : s.gen.cycle ≠ .idle ∨ ∀ b, ¬ Configured s b) : startPoll s = s := by
  unfold startPoll
  split
  · next idle =>
    have none := closed.resolve_left (not_not.mpr idle)
    have empty : configured s = [] := List.eq_nil_iff_forall_not_mem.mpr fun d hd => none d (mem_configured.mp hd)
    have next : nextBooth s = Option.none := by
      unfold nextBooth
      rw [empty]
      cases s.gen.scanPos <;> rfl
    rw [next]
  · rfl

theorem startPoll_polls (idle : s.gen.cycle = .idle) (next : PolledNext s b) (hm : s.boothSettings b = some k) :
    startPoll s = beginPoll b k s := by
  unfold startPoll
  rw [idle]
  dsimp only
  rw [nextBooth_eq next]
  dsimp only
  rw [hm]

theorem offerPending_iff : offerPending s b = true ↔ ∃ c o, s.offer c = some o ∧ o.holdBooth = b := by
  unfold offerPending
  simp only [List.any_eq_true, List.mem_finRange, true_and]
  refine exists_congr fun c => ?_
  cases s.offer c <;> simp

/-! ## Replies (R91, R92, R186) -/

theorem length_numBytes (w n : Nat) : (numBytes w n).length = w := by
  induction w with
  | zero => rfl
  | succ w ih => exact congrArg Nat.succ ih

theorem replyEvents_flatMap (events : List (Byte × Byte)) :
    replyEvents (events.flatMap fun e => [e.1, e.2]) = events.filterMap (fun e => replyEvent e.1 e.2) := by
  induction events with
  | nil => rfl
  | cons e events ih =>
    rw [List.flatMap_cons, List.filterMap_cons, ← ih]
    show (replyEvent e.1 e.2).toList ++ replyEvents _ = _
    cases replyEvent e.1 e.2 <;> rfl

theorem pairs_length (events : List (Byte × Byte)) : (events.flatMap fun e => [e.1, e.2]).length = 2 * events.length := by
  induction events with
  | nil => rfl
  | cons e events ih => simp only [List.flatMap_cons, List.length_append, List.length_cons, List.length_nil, ih]; omega

/-- Bytes in pairs. -/
theorem exists_pairs (n : Nat) (l : List Byte) (length : l.length = 2 * n) :
    ∃ events : List (Byte × Byte), events.length = n ∧ (events.flatMap fun e => [e.1, e.2]) = l := by
  induction n generalizing l with
  | zero => exact ⟨[], rfl, (List.eq_nil_of_length_eq_zero length).symm⟩
  | succ n ih =>
    match l with
    | [] | [_] => simp at length; try omega
    | x :: y :: l =>
      obtain ⟨events, count, flat⟩ := ih l (by simp at length; omega)
      exact ⟨(x, y) :: events, by rw [List.length_cons, count], by rw [List.flatMap_cons, flat]; rfl⟩

/-- A reply with as many events as it says passes the first test. -/
theorem classifyReply_replyBytes (length : events.length = count.toNat) : classifyReply b ((replyBytes booth count events).take 514) =
    if booth.toNat ≠ b.val + 1 then .error .wrongBooth
    else if 4 < count.toNat then .error .tooMany
    else .ok (events.filterMap (fun e => replyEvent e.1 e.2)) := by
  have pairs := pairs_length events
  rw [length] at pairs
  have bound := count.isLt
  unfold replyBytes
  dsimp only
  generalize hl : (events.flatMap fun e => [e.1, e.2]) = l at pairs
  generalize hc : numBytes 2 (crc16 (booth :: count :: l)).toNat = crc
  have short : crc.length = 2 := by rw [← hc]; exact length_numBytes ..
  rw [List.take_of_length_le (by simp; omega)]
  unfold classifyReply
  simp only [List.cons_append]
  have body : (l ++ crc).take (2 * count.toNat) = l := List.take_left' pairs
  have check : (l ++ crc).drop (2 * count.toNat) = crc := List.drop_left' pairs
  rw [body, check, if_pos ⟨by simp; omega, hc.symm⟩, ← hl, replyEvents_flatMap]
  rfl

/-- A reply of another form fails the first test. -/
theorem classifyReply_badCheck (short : bytes.length ≤ 514)
    (formless : ∀ booth count events, events.length = count.toNat → bytes ≠ replyBytes booth count events) :
    classifyReply b (bytes.take 514) = .error .badCheck := by
  rw [List.take_of_length_le short]
  unfold classifyReply
  split
  · next booth count rest =>
    refine if_neg fun ⟨length, check⟩ => ?_
    obtain ⟨events, number, flat⟩ := exists_pairs count.toNat (rest.take (2 * count.toNat)) (by simp at length ⊢; omega)
    refine formless booth count events number ?_
    unfold replyBytes
    dsimp only
    rw [flat, ← check, List.cons_append, List.cons_append, List.take_append_drop]
  · rfl

/-! ## The end of a window -/

theorem exec_boothReply (awake : Awake s) (window : s.gen.cycle = .window b false) (bytes : List Byte) :
    exec (.boothReply bytes) s = .next (dirAfter s (match classifyReply b (bytes.take 514) with
      | .ok events => goodReply b events { s with gen.cycle := .idle }
      | .error cause => miss b cause { s with gen.cycle := .idle })) := by
  dsimp only [exec, execBoothReply]
  unfold event
  rw [taking_awake awake]
  unfold closeWindow
  rw [window]
  rfl

theorem exec_boothReply_miss (awake : Awake s) (window : s.gen.cycle = .window b false)
    (fails : classifyReply b (bytes.take 514) = .error cause) :
    exec (.boothReply bytes) s = .next (dirAfter s (miss b cause { s with gen.cycle := .idle })) := by
  rw [exec_boothReply awake window, fails]

theorem exec_replyWindowExpiry (awake : Awake s) (window : s.gen.cycle = .window b false) :
    exec .replyWindowExpiry s = .next (dirAfter s (miss b .noReply { s with gen.cycle := .idle })) := by
  dsimp only [exec, execReplyWindowExpiry]
  unfold event
  rw [taking_awake awake]
  unfold closeWindow
  rw [window]
  rfl

/-- A good reply from a PRESENT booth: its events are to be handed on (R94, R95). -/
theorem goodReply_present {handing : List ReplyEvent} (present : (s.booth b).presence = .present) : goodReply b handing s =
    { s.setBooth b { s.booth b with misses := 0, lastGood := some s.clock } with
      gen.cycle := if handing = [] then s.gen.cycle else .handing b handing } := by
  unfold goodReply
  dsimp only
  rw [if_pos present, ← present]
  cases handing <;> rfl

theorem goodReply_away {handing : List ReplyEvent} (away : (s.booth b).presence ≠ .present) : goodReply b handing s =
    notify (.boothPresent b (s.booth b).presence)
      (s.setBooth b { s.booth b with misses := 0, lastGood := some s.clock, presence := .present }) := if_neg away

/-- Settles O28. -/
theorem boothsArePolled : Obligations.BoothsArePolled := by
  refine ⟨fun s b k awake idle next hm => ⟨tallyOf s b k, ?_, rfl, rfl, offerPending_iff, rfl, rfl, rfl, rfl, rfl, rfl, rfl, rfl⟩,
    fun s awake closed => ?_, fun s b tally voided awake sending => ?_, fun s b booth count events awake window length named few => ?_⟩
  · dsimp only [exec, execPollStart]
    rw [taking_awake awake, startPoll_polls idle next hm]
    rfl
  · dsimp only [exec, execPollStart]
    rw [taking_awake awake, startPoll_still closed]
  · dsimp only [exec, execPollSent]
    rw [taking_awake awake, sending]
  · have good := classifyReply_replyBytes (b := b) (booth := booth) length
    rw [if_neg (not_not.mpr named), if_neg (Nat.not_lt.mpr few)] at good
    have taken := exec_boothReply awake window (replyBytes booth count events)
    rw [good] at taken
    dsimp only at taken
    rw [taken]
    generalize events.filterMap (fun e => replyEvent e.1 e.2) = handing
    refine ⟨fun present => ?_, fun away => ?_⟩
    · rw [goodReply_present (s := { s with gen.cycle := .idle }) present]
      exact congrArg _ (dirAfter_still rfl rfl rfl rfl)
    · have absent : (s.booth b).presence ≠ .present := fun e => by
        rw [e] at away
        rcases away with e | e <;> cases e
      rw [goodReply_away (s := { s with gen.cycle := .idle }) absent]
      generalize hu : State.setBooth _ b _ = u
      have told := notify_port (.boothPresent b (State.booth { s with gen.cycle := .idle } b).presence) u
      have ports := notify_ports (.boothPresent b (State.booth { s with gen.cycle := .idle } b).presence) u
      generalize notify _ u = t at told ports
      refine ⟨t, congrArg _ ?_, ?_, ?_, ?_, ?_⟩
      · rw [ports, ← hu]
        exact dirAfter_still rfl rfl rfl rfl
      · rw [ports, ← hu]
        rfl
      · rw [ports, ← hu]
        exact Bank.get_set_same ..
      · rw [← hu] at told
        exact told
      · rw [ports, ← hu]
        simp [State.booth, State.setBooth, Bank.get_set_same]

/-! ## Misses (R93, R96) -/

/-- The booth as its third miss finds it and leaves it ABSENT, before its seats are taken. -/
def gone (b : Booth) (s : State) : State := s.setBooth b { s.booth b with presence := .absent, misses := 3 }

theorem gone_deeds (b : Booth) (s : State) : Deeds s (gone b s) := .booth b _ ⟨rfl, rfl, rfl, rfl⟩ rfl .refl

theorem gone_agrees (agrees : HallAgrees s) (b : Booth) : HallAgrees (gone b s) := by
  obtain ⟨placed, mutes⟩ := (hallAgrees_iff s).mp agrees
  exact (hallAgrees_iff _).mpr ⟨Placed.setBooth placed (by rfl) (by rfl), fun d => (gone_deeds b s).mutes (mutes d)⟩

theorem gone_booth (b d : Booth) (s : State) : (gone b s).booth d =
    if b = d then { s.booth b with presence := .absent, misses := 3 } else s.booth d := State.setBooth_booth ..

theorem becomeAbsent_eq (hm : s.boothSettings b = some k) : becomeAbsent b cause s = seatLoss b (notify
    (.boothAbsent b (s.booth b).presence cause (s.booth b).lastGood (liveSeat s b)
      ((liveSeat s b).map fun _ => selectedChan k (s.booth b))) (gone b s)) := by
  have live : liveNow s b = (liveSeat s b).map fun h => (h, selectedChan k (s.booth b)) := by
    unfold liveNow
    rw [hm]
    cases liveSeat s b <;> rfl
  unfold becomeAbsent
  dsimp only
  rw [live, Option.map_map, Option.map_map, show Prod.fst ∘ (fun h : Seat => (h, selectedChan k (s.booth b))) = id from rfl, Option.map_id]
  rfl

theorem seatLossNotices_congr (moves : Moves s t) (chosen : ∀ d, (t.booth d).chosen = (s.booth d).chosen)
    (selection : (t.booth b).selection = (s.booth b).selection) (live : liveSeat t b = liveSeat s b) (offer : ∀ c, t.offer c = s.offer c) :
    seatLossNotices b t = seatLossNotices b s := by
  unfold seatLossNotices selectedChan
  simp only [live, moves.boothSettings b, selection, offer, passNotice_of_moves moves, releaseNotices_of_moves moves chosen]

theorem miss_missed (agrees : HallAgrees s) (b : Booth) (cause : MissCause) : Missed b cause s (miss b cause s) := by
  unfold miss
  dsimp only
  refine ⟨fun absent => if_neg ?_, fun counts few => (if_pos counts).trans (if_pos (by simp [Config.missMax]; omega)), fun counts third m hm => ?_⟩
  · rw [absent]
    rintro (e | e) <;> cases e
  · rw [if_pos counts, if_neg (by simp [Config.missMax]; omega), becomeAbsent_eq hm]
    generalize hn : NoticeBody.boothAbsent .. = n
    have absent := gone_agrees agrees b
    have moved := (gone_deeds b s).moves
    have chosen := (gone_deeds b s).chosen
    have hush : Hush s (gone b s) := rfl
    have seat : ∀ j, (gone b s).seat b j = s.seat b j := fun j => by
      unfold State.seat
      rw [gone_booth, if_pos rfl]
    have selection : ((gone b s).booth b).selection = (s.booth b).selection := by rw [gone_booth, if_pos rfl]
    have same := seatLossNotices_congr moved chosen selection (liveSeat_congr fun j => by rw [seat]) fun _ => rfl
    show SeatsTaken b (gone b s) _ ∧ _
    generalize gone b s = u at absent moved hush same
    have ports := notify_ports n u
    have told := (hush.says.trans (notify_says n u))
    have heard := notify_moves n u
    generalize notify n u = v at ports told heard
    have absent' : HallAgrees v := absent.of_part ports rfl
    have taken := seatLoss_taken absent' b
    have says' := seatLoss_says absent' b
    have moves := seatLoss_moves b v
    generalize seatLoss b v = t at taken says' moves
    have still : SeatsTaken b v t = SeatsTaken b u t := by rw [ports]; rfl
    have notices : seatLossNotices b v = seatLossNotices b u := by rw [ports]; rfl
    rw [notices, same] at says'
    refine ⟨still ▸ taken, (told.trans says').port, ?_⟩
    have moved := (moved.trans heard).trans moves
    exact moved.hallOnly

/-- The directory's update after a miss. -/
theorem Missed.after (missed : Missed b cause s t) (same : s.gen.chans = u.gen.chans ∧ s.ret = u.ret ∧ s.gen.override = u.gen.override) :
    Missed b cause s (dirAfter u t) := by
  obtain ⟨absent, counted, third⟩ := missed
  obtain ⟨chans, ret, override⟩ := same
  refine ⟨fun e => ?_, fun e few => ?_, fun e few m hm => ?_⟩
  · rw [absent e]
    exact dirAfter_still chans (by rw [ret]) (by rw [ret]) override
  · rw [counted e few]
    exact dirAfter_still chans (congrArg Retained.plan ret) (congrArg Retained.slots ret) override
  · obtain ⟨taken, told, only⟩ := third e few m hm
    have directory := dirAfter_directory u t
    generalize dirAfter u t = v at directory
    refine ⟨?_, fun p => ?_, ?_⟩
    · rw [directory]
      exact taken
    · rw [directory]
      exact told p
    · unfold HallOnly at only ⊢
      rw [directory, only]

/-- Settles O29. -/
theorem missesAndAbsence : Obligations.MissesAndAbsence := by
  intro s b awake window agrees _
  have quiet : HallAgrees { s with gen.cycle := .idle } := agrees.of_part rfl rfl
  have missed : ∀ cause, Missed b cause { s with gen.cycle := .idle } (dirAfter s (miss b cause { s with gen.cycle := .idle })) := fun cause =>
    (miss_missed quiet b cause).after (u := s) ⟨rfl, rfl, rfl⟩
  refine ⟨⟨_, exec_replyWindowExpiry awake window, missed _⟩, fun bytes _ short formless =>
    ⟨_, exec_boothReply_miss awake window (classifyReply_badCheck short formless), missed _⟩,
    fun booth count events length => ⟨fun other => ⟨_, exec_boothReply_miss awake window ?_, missed _⟩,
      fun named many => ⟨_, exec_boothReply_miss awake window ?_, missed _⟩⟩⟩
  · exact (classifyReply_replyBytes length).trans (if_pos other)
  · exact (classifyReply_replyBytes length).trans ((if_neg (not_not.mpr named)).trans (if_pos many))

end Sys2Proof.Machine
end

section
/-! PROOF. The receiver register: reports that arrive and are taken (O30), and those of HIRED receivers (O31). -/

namespace Sys2Proof.Machine
open Sys2Proof

variable {s t u : State} {p : Report} {n : Nat} {r : Receiver} {link : HireLink} {h : Hire} {l : Line} {k : Slot} {language : Option Slot}

/-! ## The intake (R106, R107) -/

theorem inService_iff : inService r = true ↔ r.state = .stock ∨ r.state = .hired ∨ r.state = .lost := by
  simp [inService, or_assoc]

theorem not_inService_iff : inService r = false ↔ r.state = .unenrolled ∨ r.state = .withdrawn := by
  unfold inService
  cases r.state <;> decide

theorem reportPasses_iff {x : ReportBytes} : reportPasses s x = true ↔ crc16 x.covered = x.crc ∧ x.receiver.toNat < 4096 ∧
    x.battery.toNat ≤ 15 ∧ s.ret.hallCode ≠ 0 ∧ x.hall = s.ret.hallCode ∧ inService (s.receiver x.receiver.toNat) = true ∧
    (s.receiver x.receiver.toNat).serial = some x.serial := by
  unfold reportPasses
  simp only [Bool.and_eq_true, beq_iff_eq, bne_iff_ne, decide_eq_true_iff, and_assoc, eq_comm (a := x.hall)]
  rfl

theorem exec_collectorReport (awake : Awake s) (x : ReportBytes) : exec (.collectorReport x) s = .next
    (if reportPasses s x = true ∧ s.gen.intake.length < 64 then { s with
        gen.intakeFraming := .between
        gen.intake := s.gen.intake ++ [⟨x.receiver.toNat, x.serial, x.tag.toNat, x.battery.toNat, s.clock⟩] }
      else { s with gen.intakeFraming := .between }) := by
  dsimp only [exec, execCollectorReport]
  rw [taking_awake awake]
  unfold intakeReport
  dsimp only
  refine congrArg _ (if_congr ?_ rfl rfl)
  rw [Bool.and_eq_true, decide_eq_true_iff]
  rfl

/-! ## Taking a report (R108, R111, R112) -/

theorem exec_reportTaken (awake : Awake s) {rest : List Report} (intake : s.gen.intake = p :: rest) :
    exec .reportTaken s = .next (takeReport p { s with gen.intake := rest }) := by
  dsimp only [exec, execReportTaken]
  rw [taking_awake awake, intake]

theorem takeReport_unfit (unfit : inService (s.receiver p.receiver) = false ∨ (s.receiver p.receiver).serial ≠ some p.serial) :
    takeReport p s = s := by
  unfold takeReport
  dsimp only
  refine if_neg fun fits => ?_
  rw [Bool.and_eq_true, beq_iff_eq] at fits
  rcases unfit with e | e
  · exact nomatch e.symm.trans fits.1
  · exact e fits.2

/-- A receiver heard of, before what its state brings. -/
abbrev Receiver.heard (r : Receiver) (p : Report) : Receiver := { r with lastHeard := some p.arrival, battery := some p.battery }

section
variable (serial : (s.receiver p.receiver).serial = some p.serial)
include serial

theorem takeReport_stock (stock : (s.receiver p.receiver).state = .stock) : takeReport p s =
    if (s.receiver p.receiver).astray then s.setReceiver p.receiver { (s.receiver p.receiver).heard p with astray := true }
    else notify (.receiverAstray p.receiver p.serial p.arrival (s.receiver p.receiver).hireCount)
      (s.setReceiver p.receiver { (s.receiver p.receiver).heard p with astray := true }) := by
  unfold takeReport
  dsimp only
  rw [if_pos (by simp [inService, stock, serial])]
  split
  · next other => exact nomatch stock.symm.trans other
  · rfl
  · next other => exact nomatch stock.symm.trans other
  · next hiredless stockless lostless => exact absurd stock stockless

theorem takeReport_lost (lost : (s.receiver p.receiver).state = .lost) : takeReport p s =
    if (s.receiver p.receiver).sighted then s.setReceiver p.receiver { (s.receiver p.receiver).heard p with sighted := true }
    else notify (.receiverSighted p.receiver ((s.receiver p.receiver).link.map HireLink.ticket) p.arrival)
      (s.setReceiver p.receiver { (s.receiver p.receiver).heard p with sighted := true }) := by
  unfold takeReport
  dsimp only
  rw [if_pos (by simp [inService, lost, serial])]
  split
  · next other => exact nomatch lost.symm.trans other
  · next other => exact nomatch lost.symm.trans other
  · rfl
  · next hiredless stockless lostless => exact absurd lost lostless


end

/-- A notice that is sent or not. -/
theorem notify_unless {c : Prop} [Decidable c] {x : NoticeBody} (t : State) (h : t = if c then u else notify x u) :
    t = { u with gen.ports := t.gen.ports } ∧ Notified (if c then [] else [x]) u t := by
  by_cases hc : c
  · rw [if_pos hc] at h ⊢
    rw [h]
    exact ⟨rfl, fun _ => rfl⟩
  · rw [if_neg hc] at h ⊢
    rw [h]
    exact ⟨notify_ports x u, notify_port x u⟩

/-- Settles O30. -/
theorem reportsArriveAndAreTaken : Obligations.ReportsArriveAndAreTaken := by
  refine ⟨fun s x awake => ⟨fun ⟨crc, number, battery, code, hall, state, serial⟩ room => ?_, fun fails => ?_⟩,
    fun s p rest awake intake => ⟨fun unfit => ?_, fun stock serial => ?_, fun lost serial => ?_⟩⟩
  · rw [exec_collectorReport awake, if_pos ⟨reportPasses_iff.mpr ⟨crc, number, battery, code, hall, inService_iff.mpr state, serial⟩, room⟩]
  · rw [exec_collectorReport awake, if_neg]
    rintro ⟨passes, room⟩
    obtain ⟨crc, number, battery, code, hall, state, serial⟩ := reportPasses_iff.mp passes
    rcases fails with e | e | e | e | e | e | e | e | e
    · exact e crc
    · omega
    · omega
    · exact code e
    · exact e hall
    · exact nomatch state.symm.trans (not_inService_iff.mpr (.inl e))
    · exact nomatch state.symm.trans (not_inService_iff.mpr (.inr e))
    · exact e serial
    · omega
  · rw [exec_reportTaken awake intake, takeReport_unfit (s := { s with gen.intake := rest })]
    rcases unfit with e | e | e
    · exact .inl (not_inService_iff.mpr (.inl e))
    · exact .inl (not_inService_iff.mpr (.inr e))
    · exact .inr e
  · refine ⟨_, exec_reportTaken awake intake, ?_⟩
    obtain ⟨frame, told⟩ := notify_unless _ (takeReport_stock (s := { s with gen.intake := rest }) serial stock)
    exact ⟨frame, told⟩
  · refine ⟨_, exec_reportTaken awake intake, ?_⟩
    obtain ⟨frame, told⟩ := notify_unless _ (takeReport_lost (s := { s with gen.intake := rest }) serial lost)
    exact ⟨frame, told⟩

/-! ## A HIRED receiver (R109, R110, R114) -/

/-- The language that a report names is found. -/
theorem languageOf_eq {tag : Nat} (named : ∀ k, language = some k ↔ tag ≠ 0 ∧ (s.slot k).channel ≠ none ∧
    (s.slot k).name.map LangName.tag = some tag) : languageOf s tag = language := by
  unfold languageOf
  cases language with
  | none =>
    refine (ite_eq_left_iff.mpr fun tagged => List.find?_eq_none.mpr fun k _ => ?_)
    rw [Bool.and_eq_true, beq_iff_eq, Option.isSome_iff_ne_none]
    exact fun ⟨carried, name⟩ => nomatch (named k).mpr ⟨tagged, carried, name⟩
  | some k =>
    obtain ⟨tagged, carried, name⟩ := (named k).mp rfl
    rw [if_neg tagged]
    have meets : ∀ j, ((s.slot j).channel.isSome && (s.slot j).name.map LangName.tag == some tag) = true ↔ some k = some j := fun j => by
      rw [Bool.and_eq_true, beq_iff_eq, Option.isSome_iff_ne_none, named j]
      exact (and_iff_right tagged).symm
    cases found : (List.finRange 32).find? (fun k => (s.slot k).channel.isSome && (s.slot k).name.map LangName.tag == some tag) with
    | none => exact absurd ((meets k).mpr rfl) (List.find?_eq_none.mp found k (List.mem_finRange k))
    | some j => exact ((meets j).mp (List.find?_some (p := fun k => (s.slot k).channel.isSome && (s.slot k).name.map LangName.tag == some tag) found)).symm

theorem openCredit_receiver (n : Nat) (b : Slot) (s : State) (m : Nat) : (openCredit n b s).receiver m =
    if m = n then { s.receiver n with tuned := some ⟨b, (s.slot b).u⟩ } else s.receiver m :=
  (State.setReceiver_receiver ..).trans (if_congr eq_comm rfl rfl)

theorem openCredit_listeners (n : Nat) (b : Slot) (s : State) (k : Slot) : (openCredit n b s).ret.listeners.get k =
    if b = k then s.ret.listeners.get b + 1 else s.ret.listeners.get k := Bank.get_set ..

theorem openCredit_peaks (n : Nat) (b : Slot) (s : State) (k : Slot) : (openCredit n b s).ret.peaks.get k =
    if b = k then max (s.ret.peaks.get b) (s.ret.listeners.get b + 1) else s.ret.peaks.get k := Bank.get_modify ..

theorem closeCredit_other (linked : (s.receiver n).link = some link) {ticket : Nat} (other : ticket ≠ link.ticket) :
    (closeCredit n s).hire? ticket = s.hire? ticket := (closeCredit_hire linked ticket).trans (if_neg other.symm)

theorem updateLine_set (stands : h.lines[link.line]? = some l) (f : Line → Line) :
    updateLine h link.line f = { h with lines := h.lines.set link.line (f l) } := by
  unfold updateLine
  rw [stands]

/-- The record, the line and the counts of a receiver whose language changes, or stays. -/
theorem retune_eq (linked : (s.receiver n).link = some link) (hh : s.hire? link.ticket = some h) (hl : h.lines[link.line]? = some l)
    (run : t = retune n language s) :
    (t.receiver n = { s.receiver n with
      tuned := if (s.receiver n).tuned.map Tuning.slot = language then (s.receiver n).tuned
        else language.map (fun k => ⟨k, (s.slot k).u⟩) }) ∧
    (∀ m, m ≠ n → t.receiver m = s.receiver m) ∧
    t.hire? link.ticket = some (match (s.receiver n).tuned with
      | some m => if some m.slot = language then h
        else { h with lines := h.lines.set link.line { l with credit := creditUpTo l ((s.slot m.slot).u - m.mark) s.clock } }
      | none => h) ∧
    (∀ ticket, ticket ≠ link.ticket → t.hire? ticket = s.hire? ticket) ∧
    (∀ k, t.ret.listeners.get k = if (s.receiver n).tuned.map Tuning.slot = language then s.ret.listeners.get k
      else if language = some k then s.ret.listeners.get k + 1
      else if (s.receiver n).tuned.map Tuning.slot = some k then s.ret.listeners.get k - 1
      else s.ret.listeners.get k) ∧
    (∀ k, t.ret.peaks.get k = if language = some k ∧ (s.receiver n).tuned.map Tuning.slot ≠ language then
      max (s.ret.peaks.get k) (t.ret.listeners.get k) else s.ret.peaks.get k) ∧
    t = { s with ret.receivers := t.ret.receivers, ret.hires := t.ret.hires, ret.listeners := t.ret.listeners, ret.peaks := t.ret.peaks } := by
  by_cases same : (s.receiver n).tuned.map Tuning.slot = language
  · have still : t = s := run.trans (if_pos same)
    rw [still, hh]
    refine ⟨by rw [if_pos same], fun _ _ => rfl, ?_, fun _ _ => rfl, fun _ => (if_pos same).symm, fun k => (if_neg fun e => e.2 same).symm, rfl⟩
    cases hm : (s.receiver n).tuned with
    | none => rfl
    | some m =>
      rw [hm] at same
      exact congrArg some (if_pos same).symm
  · have closed : closeCredit n s = { s with
        ret.receivers := (closeCredit n s).ret.receivers, ret.hires := (closeCredit n s).ret.hires,
        ret.listeners := (closeCredit n s).ret.listeners } := closeCredit_frame n s
    have receiver := fun m => closeCredit_receiver n m s
    have hire : (closeCredit n s).hire? link.ticket = some (match (s.receiver n).tuned with
        | some m => if some m.slot = language then h
          else { h with lines := h.lines.set link.line { l with credit := creditUpTo l ((s.slot m.slot).u - m.mark) s.clock } }
        | none => h) := by
      rw [closeCredit_hire linked, if_pos rfl, hh]
      refine congrArg some ?_
      cases hm : (s.receiver n).tuned with
      | none => exact updateLine_id fun l => by rw [closedCredit_untuned hm]
      | some m =>
        rw [hm] at same
        refine (updateLine_set hl _).trans ?_
        rw [closedCredit_tuned hm]
        exact (if_neg same).symm
    have others := fun ticket (other : ticket ≠ link.ticket) => closeCredit_other (ticket := ticket) linked other
    have listeners := closeCredit_listeners n s
    have step : t = language.elim (closeCredit n s) fun b => openCredit n b (closeCredit n s) := by
      refine run.trans ((if_neg same).trans ?_)
      cases language <;> rfl
    generalize closeCredit n s = v at closed receiver hire others listeners step
    simp only [if_neg same]
    cases language with
    | none =>
      rw [step]
      dsimp only [Option.elim]
      refine ⟨(receiver n).trans (if_pos rfl), fun m other => (receiver m).trans (if_neg other), hire, others, fun k => ?_, fun k => ?_, ?_⟩
      · rw [if_neg nofun]
        exact listeners k
      · exact (congrArg (fun b : State => b.ret.peaks.get k) closed).trans (if_neg fun e => nomatch e.1).symm
      · rw [closed]
    | some b =>
      rw [step]
      dsimp only [Option.elim]
      have heard : ∀ k, (openCredit n b v).ret.listeners.get k = if some b = some k then s.ret.listeners.get k + 1
          else if (s.receiver n).tuned.map Tuning.slot = some k then s.ret.listeners.get k - 1 else s.ret.listeners.get k := fun k => by
        rw [openCredit_listeners, listeners, listeners]
        by_cases own : b = k
        · subst own
          rw [if_pos rfl, if_pos rfl, if_neg same]
        · rw [if_neg own, if_neg fun e => own (Option.some.inj e)]
      refine ⟨?_, fun m other => ?_, hire, others, heard, fun k => ?_, ?_⟩
      · rw [openCredit_receiver, if_pos rfl, receiver, if_pos rfl, closed]
        rfl
      · rw [openCredit_receiver, if_neg other, receiver, if_neg other]
      · rw [openCredit_peaks, heard]
        by_cases own : b = k
        · subst own
          rw [if_pos rfl, if_pos ⟨rfl, same⟩, if_pos rfl, listeners, if_neg same, closed]
        · rw [if_neg own, if_neg fun e => own (Option.some.inj e.1), closed]
      · unfold openCredit
        rw [closed]
        rfl

theorem notify_when {c : Prop} [Decidable c] {x : NoticeBody} (t : State) (h : t = if c then notify x u else u) :
    t = { u with gen.ports := t.gen.ports } ∧ Notified (if c then [x] else []) u t := by
  by_cases hc : c
  · rw [if_pos hc] at h ⊢
    rw [h]
    exact ⟨notify_ports x u, notify_port x u⟩
  · rw [if_neg hc] at h ⊢
    rw [h]
    exact ⟨rfl, fun _ => rfl⟩

/-- A HIRED receiver is heard, with BATTERY_LOW on a fall, before its language is looked at. -/
theorem takeReport_hired (hired : (s.receiver p.receiver).state = .hired) (serial : (s.receiver p.receiver).serial = some p.serial)
    (linked : (s.receiver p.receiver).link = some link) :
    ∃ u, takeReport p s = retune p.receiver (languageOf u p.tag) u ∧
      u = { s.setReceiver p.receiver ((s.receiver p.receiver).heard p) with gen.ports := u.gen.ports } ∧
      Notified (if p.battery ≤ 2 ∧ ∀ b ∈ (s.receiver p.receiver).battery, 2 < b then [.batteryLow p.receiver p.battery link.ticket] else [])
        s u := by
  have ticket : ((s.receiver p.receiver).link.map HireLink.ticket).getD 0 = link.ticket := by rw [linked]; rfl
  refine ⟨_, ?_, notify_when _ rfl⟩
  unfold takeReport
  dsimp only
  rw [if_pos (by simp [inService, hired, serial]), ticket]
  split
  · rfl
  · next other => exact nomatch hired.symm.trans other
  · next other => exact nomatch hired.symm.trans other
  · next hiredless stockless lostless => exact absurd hired hiredless

/-- Settles O31. -/
theorem reportsForHired : Obligations.ReportsForHired := by
  intro s p rest link h l language awake intake hired serial linked hh hl named
  refine ⟨_, exec_reportTaken awake intake, ?_⟩
  obtain ⟨u, run, frame, told⟩ := takeReport_hired (s := { s with gen.intake := rest }) hired serial linked
  rw [run]
  have reads : ∀ m, u.receiver m = if p.receiver = m then (s.receiver p.receiver).heard p else s.receiver m := fun m => by
    rw [frame]
    exact State.setReceiver_receiver ..
  have own : u.receiver p.receiver = (s.receiver p.receiver).heard p := (reads _).trans (if_pos rfl)
  have language' : languageOf u p.tag = language := languageOf_eq fun k => by
    rw [named, frame]
    rfl
  have same : u = { s with ret.receivers := u.ret.receivers, gen.intake := rest, gen.ports := u.gen.ports } := by
    rw [frame]
    rfl
  have slots : ∀ k, u.slot k = s.slot k := fun k => by rw [frame]; rfl
  have clock : u.clock = s.clock := by rw [frame]; rfl
  have counts : u.ret.listeners = s.ret.listeners ∧ u.ret.peaks = s.ret.peaks := by rw [frame]; exact ⟨rfl, rfl⟩
  rw [language']
  obtain ⟨receiver, others, hire, hires, listeners, peaks, rest'⟩ := retune_eq (n := p.receiver) (s := u) (link := link) (h := h) (l := l)
    (language := language) (by rw [own]; exact linked) (by rw [same]; exact hh) hl rfl
  generalize retune p.receiver language u = t at receiver others hire hires listeners peaks rest'
  rw [own] at receiver hire
  simp only [own] at listeners peaks
  refine ⟨fun q => ?_, ?_, fun n other => ?_, ?_, fun ticket other => ?_, fun k => ?_, fun k => ?_, ?_⟩
  · rw [rest']
    refine (told q).trans (congrArg (fun l => List.foldl _ _ l) (if_congr (and_congr_right' ?_) rfl rfl))
    show (∀ b ∈ (s.receiver p.receiver).battery, 2 < b) ↔ _
    cases (s.receiver p.receiver).battery <;> simp
  · rw [receiver]
    simp only [slots]
  · rw [others n other, reads, if_neg other.symm]
  · rw [hire]
    cases (s.receiver p.receiver).tuned with
    | none => rfl
    | some m => simp only [slots, clock]
  · rw [hires ticket other, same]
    rfl
  · rw [listeners, counts.1]
  · rw [peaks, counts.2]
  · rw [rest', same]

end Sys2Proof.Machine
end

section
/-! PROOF. HIRE_OPEN and ISSUE (O33). -/

namespace Sys2Proof.Machine
open Sys2Proof

variable {s t : State} {p : Port} {h : Hire} {r : Receiver} {n : Nat}

/-- A request that every port may make, on a ready port: the response carries what its owner answers. -/
theorem Ready.request_any (ready : Ready p s) (tag : Byte) {code : ReqCode} (open' : code.console = false) (f : State → Result) :
    request p tag code (respond p tag f) s = .next (responds p tag (f s).1 (f s).2.1 (f s).2.2) := by
  rw [request_ready ready tag code _ fun e => nomatch open'.symm.trans e]
  exact congrArg _ (respond_eq ..)

theorem Ready.answers (ready : Ready p s) (tag : Byte) {code : ReqCode} (open' : code.console = false) {f : State → Result} {a : Answer}
    {payload : List Byte} (result : f s = (a, payload, t)) :
    request p tag code (respond p tag f) s = .next (responds p tag a payload t) := by
  rw [ready.request_any tag open', result]

/-! ## Tickets (R122) -/

/-- The ticket `i` places on from `t`, round from 65,535 to 1. -/
def ticketFrom (t i : Nat) : Nat := (t - 1 + i) % 65535 + 1

/-- How far ticket `u` lies on from `t`. -/
def ticketsOn (t u : Nat) : Nat := (u + 65535 - t) % 65535

section
variable {t : Nat} (low : 1 ≤ t) (high : t ≤ 65535)
include low high

theorem ticketFrom_zero : ticketFrom t 0 = t := by
  unfold ticketFrom
  omega

theorem ticketsOn_ticketFrom {i : Nat} (near : i < 65535) : ticketsOn t (ticketFrom t i) = i := by
  unfold ticketsOn ticketFrom
  omega

theorem ticketFrom_ticketsOn {u : Nat} (low' : 1 ≤ u) (high' : u ≤ 65535) : ticketFrom t (ticketsOn t u) = u := by
  unfold ticketsOn ticketFrom
  omega

end

theorem ticketFrom_range (t i : Nat) : 1 ≤ ticketFrom t i ∧ ticketFrom t i ≤ 65535 := by
  unfold ticketFrom
  omega

theorem ticketAfter_ticketFrom (t i : Nat) : ticketAfter (ticketFrom t i) = ticketFrom t (i + 1) := by
  have value : ∀ u, ticketAfter u = if u < 65535 then u + 1 else 1 := fun _ => rfl
  rw [value]
  unfold ticketFrom
  by_cases last : (t - 1 + i) % 65535 + 1 < 65535
  · rw [if_pos last]
    omega
  · rw [if_neg last]
    omega

/-- The search passes tickets that are held, and ends at one that is free or when its tries are spent. -/
theorem freeTicket_passes (hires : Table Hire) (t tries i : Nat) : ∃ j ≤ tries,
    freeTicket hires tries (ticketFrom t i) = ticketFrom t (i + j) ∧
    (∀ k < j, hires.find? (ticketFrom t (i + k)) ≠ none) ∧ (j < tries → hires.find? (ticketFrom t (i + j)) = none) := by
  induction tries generalizing i with
  | zero => exact ⟨0, Nat.le_refl 0, rfl, nofun, nofun⟩
  | succ tries ih =>
    unfold freeTicket
    cases held : hires.find? (ticketFrom t i) with
    | none => exact ⟨0, Nat.zero_le _, rfl, nofun, fun _ => held⟩
    | some x =>
      rw [Option.isSome_some, if_pos rfl, ticketAfter_ticketFrom]
      obtain ⟨j, le, result, passed, ended⟩ := ih (i + 1)
      refine ⟨j + 1, Nat.succ_le_succ le, by rw [result, Nat.add_right_comm]; rfl, fun k hk => ?_, fun lt => ?_⟩
      · cases k with
        | zero =>
          rw [Nat.add_zero, held]
          exact nofun
        | succ k =>
          rw [show i + (k + 1) = i + 1 + k by omega]
          exact passed k (by omega)
      · rw [show i + (j + 1) = i + 1 + j by omega]
        exact ended (by omega)

/-- A table does not hold more tickets than it has hires. -/
theorem exists_free {hires : Table Hire} (count : hires.length < 65535) {t : Nat} (low : 1 ≤ t) (high : t ≤ 65535) :
    ¬ ∀ k ≤ hires.length, hires.find? (ticketFrom t k) ≠ none := fun held => by
  have inj : ((List.range (hires.length + 1)).map (ticketFrom t)).Nodup :=
    List.Nodup.map_on (fun i hi j hj same => by
      rw [List.mem_range] at hi hj
      rw [← ticketsOn_ticketFrom low high (i := i) (by omega), same, ticketsOn_ticketFrom low high (by omega)]) List.nodup_range
  have keys : (List.range (hires.length + 1)).map (ticketFrom t) ⊆ hires.map Prod.fst := fun u hu => by
    obtain ⟨i, hi, rfl⟩ := List.mem_map.mp hu
    obtain ⟨x, hx⟩ := Option.ne_none_iff_exists'.mp (held i (Nat.lt_succ_iff.mp (List.mem_range.mp hi)))
    exact List.mem_map.mpr ⟨_, Table.mem_of_find? hx, rfl⟩
  have few := (inj.subperm keys).length_le
  simp at few

/-- The search from `t` ends at the first ticket from there on that no hire holds. -/
theorem freeTicket_first {hires : Table Hire} (count : hires.length < 65535) {t : Nat} (low : 1 ≤ t) (high : t ≤ 65535) :
    ∃ ticket, freeTicket hires hires.length t = ticket ∧ 1 ≤ ticket ∧ ticket ≤ 65535 ∧ hires.find? ticket = none ∧
      ∀ u, 1 ≤ u → u ≤ 65535 → ticketsOn t u < ticketsOn t ticket → hires.find? u ≠ none := by
  obtain ⟨j, le, result, passed, ended⟩ := freeTicket_passes hires t hires.length 0
  rw [ticketFrom_zero low high] at result
  simp only [Nat.zero_add] at result passed ended
  refine ⟨_, result, (ticketFrom_range t j).1, (ticketFrom_range t j).2, ?_, fun u lowU highU nearer => ?_⟩
  · rcases Nat.lt_or_eq_of_le le with lt | rfl
    · exact ended lt
    · by_contra held
      exact exists_free count low high fun k hk => (Nat.lt_or_eq_of_le hk).elim (passed k) fun e => e ▸ held
  · rw [ticketsOn_ticketFrom low high (by omega)] at nearer
    rw [← ticketFrom_ticketsOn low high lowU highU]
    exact passed _ nearer

/-! ## HIRE_OPEN (R123) -/

theorem classOf_eq_some {x : Byte} {k : TClass} : classOf x = some k ↔ x.toNat = k.val := fromZero_eq_some.trans eq_comm
theorem classOf_eq_none {x : Byte} : classOf x = none ↔ 8 ≤ x.toNat := fromZero_eq_none

section
variable {tariffClass : Byte} {k : TClass} {deposit : Word} {due : Option Word}

theorem openHire_badArg (far : 8 ≤ tariffClass.toNat) : openHire p tariffClass deposit due s = (.badArg, [], s) := by
  unfold openHire
  rw [classOf_eq_none.mpr far]

variable (named : tariffClass.toNat = k.val)
include named

theorem openHire_wrongState (undefined : (s.tariff k).terms = none) : openHire p tariffClass deposit due s = (.wrongState, [], s) := by
  unfold openHire
  rw [classOf_eq_some.mpr named]
  exact if_pos (Option.isNone_iff_eq_none.mpr undefined)

theorem openHire_full (defined : (s.tariff k).terms ≠ none) (full : 512 ≤ s.ret.hires.length) :
    openHire p tariffClass deposit due s = (.full, [], s) := by
  unfold openHire
  rw [classOf_eq_some.mpr named]
  exact (if_neg (mt Option.isNone_iff_eq_none.mp defined)).trans (if_pos full)

/-- The state with a hire opened under the ticket given. -/
theorem openHire_done (defined : (s.tariff k).terms ≠ none) (room : s.ret.hires.length < 512) {ticket : Nat}
    (free : freeTicket s.ret.hires s.ret.hires.length s.ret.nextTicket = ticket) : openHire p tariffClass deposit due s =
      (.done, u16 ticket ++ u32 s.clock ++ optField 4 (due.map BitVec.toNat),
        { s with
          ret.hires := s.ret.hires.put ticket ⟨k, deposit.toNat, p, s.clock, due.map BitVec.toNat, false, 0, []⟩
          ret.nextTicket := if ticket < 65535 then ticket + 1 else 1
          ret.counters := { s.ret.counters with
            opened := if s.ret.session.state = .opened then min 4294967295 (s.ret.counters.opened + 1) else s.ret.counters.opened } }) := by
  unfold openHire
  rw [classOf_eq_some.mpr named]
  refine (if_neg (mt Option.isNone_iff_eq_none.mp defined)).trans ((if_neg (Nat.not_le.mpr room)).trans ?_)
  rw [free]
  by_cases opened : s.ret.session.state = .opened
  · rw [if_pos opened]
    refine congrArg (fun x => (Answer.done, u16 ticket ++ u32 s.clock ++ optField 4 (due.map BitVec.toNat), x)) ?_
    exact if_pos opened
  · rw [if_neg opened]
    refine congrArg (fun x => (Answer.done, u16 ticket ++ u32 s.clock ++ optField 4 (due.map BitVec.toNat), x)) ?_
    exact if_neg opened

end

/-! ## ISSUE (R124, R125) -/

theorem receiverOf_eq_some {number : Half} (h : number.toNat < 4096) : receiverOf number = some number.toNat := if_pos h

theorem ticketOf_eq_some {ticket : Half} (h : ticket ≠ 0) : ticketOf ticket = some ticket.toNat :=
  if_neg fun e => h (BitVec.eq_of_toNat_eq e)

section
variable {ticket number : Half}

theorem issueReceiver_badArg (range : ticket = 0 ∨ 4096 ≤ number.toNat) : issueReceiver ticket number s = (.badArg, [], s) := by
  unfold issueReceiver
  rcases range with rfl | far
  · rfl
  · rw [receiverOf_of_le far]
    cases ticketOf ticket <;> rfl

variable (given : ticket ≠ 0) (enrolled : number.toNat < 4096)
include given enrolled

theorem issueReceiver_notFound (none : s.hire? ticket.toNat = none) : issueReceiver ticket number s = (.notFound, [], s) := by
  unfold issueReceiver
  rw [ticketOf_eq_some given, receiverOf_eq_some enrolled]
  dsimp only
  rw [none]

variable (hh : s.hire? ticket.toNat = some h)
include hh

theorem issueReceiver_unknown (state : (s.receiver number.toNat).state = .unenrolled ∨ (s.receiver number.toNat).state = .withdrawn) :
    issueReceiver ticket number s = (.notFound, [], s) := by
  unfold issueReceiver
  rw [ticketOf_eq_some given, receiverOf_eq_some enrolled]
  dsimp only
  rw [hh]
  dsimp only
  rcases state with e | e <;> rw [e]

theorem issueReceiver_wrongState (state : (s.receiver number.toNat).state = .hired ∨ (s.receiver number.toNat).state = .lost) :
    issueReceiver ticket number s = (.wrongState, [], s) := by
  unfold issueReceiver
  rw [ticketOf_eq_some given, receiverOf_eq_some enrolled]
  dsimp only
  rw [hh]
  dsimp only
  rcases state with e | e <;> rw [e]

variable (stock : (s.receiver number.toNat).state = .stock)
include stock

theorem issueReceiver_full (full : 16 ≤ h.lines.length) : issueReceiver ticket number s = (.full, [], s) := by
  unfold issueReceiver
  rw [ticketOf_eq_some given, receiverOf_eq_some enrolled]
  dsimp only
  rw [hh]
  dsimp only
  rw [stock]
  exact if_pos full

theorem issueReceiver_done (room : h.lines.length < 16) : issueReceiver ticket number s =
    (.done, u16 ticket.toNat ++ u8 h.lines.length ++ u32 s.clock ++ u32 (nextChange h.changeCount),
      (s.setHire ticket.toNat { h with
        lines := h.lines ++ [⟨number.toNat, s.clock, none, .out, 0⟩], changeCount := nextChange h.changeCount }).setReceiver
          number.toNat { s.receiver number.toNat with
            state := .hired, link := some ⟨ticket.toNat, h.lines.length⟩, tuned := none, astray := false
            hireCount := min 65535 ((s.receiver number.toNat).hireCount + 1) }) := by
  unfold issueReceiver
  rw [ticketOf_eq_some given, receiverOf_eq_some enrolled]
  dsimp only
  rw [hh]
  dsimp only
  split
  · next e => exact nomatch stock.symm.trans e
  · next e => exact nomatch stock.symm.trans e
  · next e => exact nomatch stock.symm.trans e
  · next e => exact nomatch stock.symm.trans e
  · exact if_neg (Nat.not_le.mpr room)

end

/-- Settles O33. -/
theorem hiresOpenAndReceiversIssue : Obligations.HiresOpenAndReceiversIssue := by
  refine ⟨fun s p tag tariffClass deposit due ready => ⟨fun far => ready.answers tag rfl (openHire_badArg far), fun k named =>
    ⟨fun undefined => ready.answers tag rfl (openHire_wrongState named undefined),
      fun defined full => ready.answers tag rfl (openHire_full named defined full), fun defined room lawful => ?_⟩⟩,
    fun s p tag ticket number ready => ⟨fun range => ready.answers tag rfl (issueReceiver_badArg range), ?_⟩⟩
  · obtain ⟨ticket, found, low, high, free, first⟩ := freeTicket_first (hires := s.ret.hires) (by omega) lawful.next.1 lawful.next.2
    exact ⟨ticket, low, high, free, first, ready.answers tag rfl (openHire_done named defined room found)⟩
  · rintro given enrolled _ rfl
    refine ⟨fun none => ready.answers tag rfl (issueReceiver_notFound given enrolled none), fun h hh =>
      ⟨fun state => ready.answers tag rfl (issueReceiver_unknown given enrolled hh state),
        fun state => ready.answers tag rfl (issueReceiver_wrongState given enrolled hh state),
        fun stock full => ready.answers tag rfl (issueReceiver_full given enrolled hh stock full),
        fun stock room => ready.answers tag rfl (issueReceiver_done given enrolled hh stock room)⟩⟩

end Sys2Proof.Machine
end

section
/-! PROOF. RETURN and LOST (O34). -/

namespace Sys2Proof.Table
open Sys2Proof

variable {α : Type}

/-- The second of two writes of one record stands. -/
theorem put_put (t : Table α) (n : Nat) (x y : α) : put (put t n x) n y = put t n y := by
  induction t with
  | nil => simp [put]
  | cons e t ih =>
    obtain ⟨k, z⟩ := e
    rcases Nat.lt_trichotomy n k with before | rfl | after
    · simp [put, before]
    · simp [put]
    · have apart : ¬ n < k := by omega
      have other : ¬ n = k := by omega
      simp [put, apart, other, ih]

end Sys2Proof.Table

namespace Sys2Proof.Machine
open Sys2Proof

variable {s t : State} {p : Port} {h : Hire} {l : Line} {link : HireLink} {n : Nat} {number : Half}

/-! ## The end of a line (R116, R126, R129) -/

theorem closeCredit_put_receiver (n : Nat) (s : State) (r : Receiver) :
    (closeCredit n s).ret.receivers.put n r = s.ret.receivers.put n r := by
  cases on : (s.receiver n).tuned with
  | none => rw [closeCredit_untuned on]
  | some m =>
    rw [closeCredit_tuned on, credited_hires]
    exact Table.put_put ..

theorem closeCredit_put_hire (linked : (s.receiver n).link = some link) (h : Hire) :
    (closeCredit n s).ret.hires.put link.ticket h = s.ret.hires.put link.ticket h := by
  cases on : (s.receiver n).tuned with
  | none => rw [closeCredit_untuned on]
  | some m =>
    rw [closeCredit_tuned on]
    show (credited n m s).ret.hires.put link.ticket h = _
    unfold credited
    rw [linked]
    unfold addCredit
    dsimp only
    split
    · exact Table.put_put ..
    · rfl

/-- A line that has ended at the clock, its credit closed. -/
def endedLine (s : State) (n : Nat) (state : LineState) (l : Line) : Line :=
  { l with state := state, ended := some s.clock, credit := closedCredit s n l }

/-- A hire with one line changed, and its change count raised. -/
def changedHire (h : Hire) (i : Nat) (l : Line) : Hire := { h with lines := h.lines.set i l, changeCount := nextChange h.changeCount }

section
variable (linked : (s.receiver n).link = some link) (hh : s.hire? link.ticket = some h) (hl : h.lines[link.line]? = some l)
include linked hh hl

theorem endLine_eq (state : LineState) : endLine n link state s =
    { s.setHire link.ticket (changedHire h link.line (endedLine s n state l)) with
      ret.receivers := (closeCredit n s).ret.receivers, ret.listeners := (closeCredit n s).ret.listeners } := by
  have frame : closeCredit n s = { s with
      ret.receivers := (closeCredit n s).ret.receivers, ret.listeners := (closeCredit n s).ret.listeners
      ret.hires := (closeCredit n s).ret.hires } := closeCredit_frame n s
  have hire : (closeCredit n s).hire? link.ticket =
      some { h with lines := h.lines.set link.line { l with credit := closedCredit s n l } } := by
    rw [closeCredit_hire linked, if_pos rfl, hh]
    exact congrArg some (updateLine_set hl _)
  have put := closeCredit_put_hire linked (changedHire h link.line (endedLine s n state l))
  unfold endLine
  dsimp only
  generalize closeCredit n s = v at frame hire put
  rw [hire]
  dsimp only
  have stands : (h.lines.set link.line { l with credit := closedCredit s n l })[link.line]? = some { l with credit := closedCredit s n l } := by
    obtain ⟨there, _⟩ := List.getElem?_eq_some_iff.mp hl
    rw [List.getElem?_set_self there]
  have same : raiseCount (updateLine { h with lines := h.lines.set link.line { l with credit := closedCredit s n l } } link.line
      (fun l => { l with state := state, ended := some v.clock })) = changedHire h link.line (endedLine s n state l) := by
    rw [updateLine_set stands, List.set_set, show v.clock = s.clock by rw [frame]]
    rfl
  rw [same]
  unfold State.setHire
  rw [put]
  rw [frame]

/-- The receiver of an ended line in its new state. -/
theorem endLine_setReceiver (state : LineState) (r : Receiver) : (endLine n link state s).setReceiver n r =
    { (s.setHire link.ticket (changedHire h link.line (endedLine s n state l))).setReceiver n r with
      ret.listeners := (closeCredit n s).ret.listeners } := by
  rw [endLine_eq linked hh hl]
  have put := closeCredit_put_receiver n s r
  unfold State.setReceiver
  dsimp only
  rw [put]
  rfl

theorem endLine_receiver (state : LineState) : (endLine n link state s).receiver n = { s.receiver n with tuned := none } := by
  rw [endLine_eq linked hh hl]
  exact (closeCredit_receiver n n s).trans (if_pos rfl)

end

theorem line_of_changed {u : State} {x : Line} (hh : u.hire? link.ticket = some (changedHire h link.line x)) (hl : h.lines[link.line]? = some l) :
    linkedLine u link = some (changedHire h link.line x, x) := by
  obtain ⟨there, _⟩ := List.getElem?_eq_some_iff.mp hl
  unfold linkedLine
  rw [hh]
  show ((h.lines.set link.line x)[link.line]?).map _ = _
  rw [List.getElem?_set_self there]
  rfl

theorem fields_of_changed {u : State} {x : Line} (hh : u.hire? link.ticket = some (changedHire h link.line x))
    (hl : h.lines[link.line]? = some l) : endField u link = u32 (x.ended.getD 0) ∧ creditField u link = u32 x.credit ∧
      firmField u link = flag ((h.lines.set link.line x).all (fun l => l.state != .out)) := by
  unfold endField creditField firmField
  rw [line_of_changed hh hl, hh]
  exact ⟨rfl, rfl, rfl⟩

/-! ## The requests -/

section
variable (enrolled : number.toNat < 4096)
include enrolled

theorem returnOf_hired (hired : (s.receiver number.toNat).state = .hired) (linked : (s.receiver number.toNat).link = some link) :
    returnOf p number s = returnHired number.toNat link s := by
  unfold returnOf
  rw [receiverOf_eq_some enrolled]
  dsimp only
  rw [hired, linked]

theorem returnOf_lost (lost : (s.receiver number.toNat).state = .lost) (linked : (s.receiver number.toNat).link = some link) :
    returnOf p number s = reverseLoss number.toNat link s := by
  unfold returnOf
  rw [receiverOf_eq_some enrolled]
  dsimp only
  rw [lost, linked]

theorem returnOf_found (lost : (s.receiver number.toNat).state = .lost) (linked : (s.receiver number.toNat).link = none) :
    returnOf p number s = foundAfterClose p number.toNat s := by
  unfold returnOf
  rw [receiverOf_eq_some enrolled]
  dsimp only
  rw [lost, linked]

theorem returnOf_unknown (state : (s.receiver number.toNat).state = .unenrolled ∨ (s.receiver number.toNat).state = .withdrawn) :
    returnOf p number s = (.notFound, [], s) := by
  unfold returnOf
  rw [receiverOf_eq_some enrolled]
  dsimp only
  rcases state with e | e <;> rw [e]

theorem returnOf_stock (stock : (s.receiver number.toNat).state = .stock) : returnOf p number s = (.wrongState, [], s) := by
  unfold returnOf
  rw [receiverOf_eq_some enrolled]
  dsimp only
  rw [stock]

theorem loseReceiver_refused (other : (s.receiver number.toNat).state ≠ .hired) : loseReceiver number s = (.wrongState, [], s) := by
  unfold loseReceiver
  rw [receiverOf_eq_some enrolled]
  dsimp only
  split
  · next hired _ => exact absurd hired other
  · rfl

end

theorem returned_badArg (far : 4096 ≤ number.toNat) : returnOf p number s = (.badArg, [], s) ∧ loseReceiver number s = (.badArg, [], s) := by
  unfold returnOf loseReceiver
  rw [receiverOf_of_le far]
  exact ⟨rfl, rfl⟩

theorem reverseLoss_eq (hh : s.hire? link.ticket = some h) (hl : h.lines[link.line]? = some l) : reverseLoss n link s =
    (.done, u16 n ++ u16 link.ticket ++ u8 link.line ++ u32 (l.ended.getD 0) ++ u32 l.credit,
      (s.setHire link.ticket (changedHire h link.line { l with state := .back })).setReceiver n
        { s.receiver n with state := .stock, link := none, sighted := false }) := by
  unfold reverseLoss
  dsimp only
  rw [hh]
  dsimp only
  rw [updateLine_set hl]
  have hire : ((s.setHire link.ticket (changedHire h link.line { l with state := .back })).setReceiver n
      { s.receiver n with state := .stock, link := none, sighted := false }).hire? link.ticket =
        some (changedHire h link.line { l with state := .back }) := (State.setHire_hire ..).trans (if_pos rfl)
  obtain ⟨ended, credit, _⟩ := fields_of_changed hire hl
  refine congrArg (fun x => (Answer.done, x, _)) ?_
  refine congrArg₂ (· ++ ·) (congrArg₂ (· ++ ·) rfl ended) credit

section
variable (linked : (s.receiver n).link = some link) (hh : s.hire? link.ticket = some h) (hl : h.lines[link.line]? = some l)
include linked hh hl

theorem endedHire (state : LineState) (r : Receiver) : ((endLine n link state s).setReceiver n r).hire? link.ticket =
    some (changedHire h link.line (endedLine s n state l)) := by
  rw [endLine_setReceiver linked hh hl]
  exact (State.setHire_hire ..).trans (if_pos rfl)

theorem returnHired_eq : returnHired n link s =
    (.done, u16 n ++ u16 link.ticket ++ u8 link.line ++ u32 s.clock ++ u32 (closedCredit s n l) ++
      flag ((h.lines.set link.line (endedLine s n .back l)).all (fun x => x.state != .out)),
      { (s.setHire link.ticket (changedHire h link.line (endedLine s n .back l))).setReceiver n
          { s.receiver n with state := .stock, link := none, tuned := none } with
        ret.listeners := (closeCredit n s).ret.listeners }) := by
  unfold returnHired
  dsimp only
  rw [endLine_receiver linked hh hl]
  obtain ⟨ended, credit, firm⟩ := fields_of_changed
    (endedHire linked hh hl .back { s.receiver n with state := .stock, link := none, tuned := none }) hl
  dsimp only at ended credit firm ⊢
  rw [ended, credit, firm, endLine_setReceiver linked hh hl]
  rfl

theorem loseReceiver_eq {number : Half} (enrolled : number.toNat < 4096) (own : n = number.toNat) (hired : (s.receiver n).state = .hired) :
    loseReceiver number s = (.done, u16 n ++ u16 link.ticket ++ u8 link.line ++ u32 s.clock,
      { (s.setHire link.ticket (changedHire h link.line (endedLine s n .lost l))).setReceiver n
          { s.receiver n with state := .lost, tuned := none, sighted := false } with
        ret.listeners := (closeCredit n s).ret.listeners }) := by
  subst own
  unfold loseReceiver
  rw [receiverOf_eq_some enrolled]
  dsimp only
  split
  · next link' _ linked' =>
    cases linked.symm.trans linked'
    rw [endLine_receiver linked hh hl]
    obtain ⟨ended, _⟩ := fields_of_changed
      (endedHire linked hh hl .lost { s.receiver number.toNat with state := .lost, tuned := none, sighted := false }) hl
    dsimp only at ended ⊢
    rw [ended, endLine_setReceiver linked hh hl]
    rfl
  · next other => exact absurd linked (other link hired)

end

/-- Settles O34. -/
theorem receiversReturnedOrLost : Obligations.ReceiversReturnedOrLost := by
  refine ⟨?_, ?_⟩
  · rintro s p tag number r link h l ready enrolled rfl hired linked hh hl
    have left := closeCredit_listeners number.toNat s
    exact ⟨⟨_, endedLine s number.toNat .back l, rfl,
        ready.answers tag rfl ((returnOf_hired enrolled hired linked).trans (returnHired_eq linked hh hl)), left, rfl⟩,
      ⟨_, endedLine s number.toNat .lost l, rfl,
        ready.answers tag rfl (loseReceiver_eq linked hh hl enrolled rfl hired), left, rfl⟩⟩
  · rintro s p tag number r ready rfl
    refine ⟨fun far => ⟨ready.answers tag rfl (returned_badArg far).1, ready.answers tag rfl (returned_badArg (p := p) far).2⟩, fun enrolled =>
      ⟨fun state => ready.answers tag rfl (returnOf_unknown enrolled state), fun stock => ready.answers tag rfl (returnOf_stock enrolled stock),
        fun other => ready.answers tag rfl (loseReceiver_refused enrolled other), fun link h l lost linked hh hl =>
          ready.answers tag rfl ((returnOf_lost enrolled lost linked).trans (reverseLoss_eq hh hl)), fun lost unlinked => ?_⟩⟩
    generalize hu : s.setReceiver number.toNat { s.receiver number.toNat with state := .stock, sighted := false } = u
    refine ⟨notify (.foundAfterClose number.toNat ((s.receiver number.toNat).serial.getD 0) (s.receiver number.toNat).lastHeard p) u,
      ready.answers tag rfl ((returnOf_found enrolled lost unlinked).trans ?_), ?_, ?_⟩
    · rw [← hu]
      rfl
    · rw [← hu]
      exact notify_port _ _
    · rw [notify_ports]

end Sys2Proof.Machine
end

section
/-! PROOF. DEPOSIT_ADJUST, HIRE_DUE and the due alarm (O35). -/

namespace Sys2Proof.Table
open Sys2Proof

variable {α : Type}

/-- A record that stands is written in its place. -/
theorem put_at {pre post : Table α} {n : Nat} {y : α} (sorted : Sorted (pre ++ (n, y) :: post)) (x : α) :
    put (pre ++ (n, y) :: post) n x = pre ++ (n, x) :: post := by
  induction pre with
  | nil => simp [put]
  | cons e pre ih =>
    obtain ⟨k, z⟩ := e
    obtain ⟨first, rest⟩ := List.pairwise_cons.mp sorted
    have before : k < n := first (n, y) (by simp)
    show (if n < k then _ else if n = k then _ else _) = _
    rw [if_neg (by omega), if_neg (by omega)]
    exact congrArg ((k, z) :: ·) (ih rest)

end Sys2Proof.Table

namespace Sys2Proof.Machine
open Sys2Proof

variable {s t u : State} {p : Port} {h : Hire} {ticket : Half}

/-! ## Deposits (R131) -/

theorem ticketOf_zero : ticketOf 0 = none := rfl

theorem adjustDeposit_refused {minus : Bool} {magnitude : Word} (given : ticket ≠ 0) (none : s.hire? ticket.toNat = none) :
    adjustDeposit ticket minus magnitude s = (.notFound, [], s) := by
  unfold adjustDeposit
  rw [ticketOf_eq_some given]
  dsimp only
  rw [none]

section
variable {minus : Bool} {magnitude : Word} {delta : Int} (given : ticket ≠ 0) (hh : s.hire? ticket.toNat = some h)
  (signed : delta = if minus then -(magnitude.toNat : Int) else (magnitude.toNat : Int))
include given hh signed

theorem adjustDeposit_badArg (within : h.deposit ≤ 4294967295)
    (leaves : (h.deposit : Int) + delta < 0 ∨ 4294967295 < (h.deposit : Int) + delta) :
    adjustDeposit ticket minus magnitude s = (.badArg, [], s) := by
  unfold adjustDeposit
  rw [ticketOf_eq_some given]
  dsimp only
  rw [hh]
  refine if_pos ?_
  cases minus with
  | true =>
    have signed : delta = -(magnitude.toNat : Int) := signed
    exact .inl ⟨rfl, by omega⟩
  | false =>
    have signed : delta = magnitude.toNat := signed
    exact .inr ⟨rfl, by simp only [Config.amountLimit]; omega⟩

theorem adjustDeposit_done (low : 0 ≤ (h.deposit : Int) + delta) (high : (h.deposit : Int) + delta ≤ 4294967295) :
    adjustDeposit ticket minus magnitude s = (.done,
      u32 ((h.deposit : Int) + delta).toNat ++ u32 (nextChange h.changeCount),
      s.setHire ticket.toNat { h with deposit := ((h.deposit : Int) + delta).toNat, changeCount := nextChange h.changeCount }) := by
  have applied : (if minus then h.deposit - magnitude.toNat else h.deposit + magnitude.toNat) = ((h.deposit : Int) + delta).toNat := by
    cases minus with
    | true =>
      have signed : delta = -(magnitude.toNat : Int) := signed
      show h.deposit - magnitude.toNat = _
      omega
    | false =>
      have signed : delta = magnitude.toNat := signed
      show h.deposit + magnitude.toNat = _
      omega
  unfold adjustDeposit
  rw [ticketOf_eq_some given]
  dsimp only
  rw [hh]
  dsimp only
  rw [if_neg, applied]
  · rfl
  · cases minus with
    | true =>
      have signed : delta = -(magnitude.toNat : Int) := signed
      rintro (⟨_, short⟩ | ⟨other, _⟩)
      · omega
      · cases other
    | false =>
      have signed : delta = magnitude.toNat := signed
      rintro (⟨other, _⟩ | ⟨_, past⟩)
      · cases other
      · simp only [Config.amountLimit] at past
        omega

end

/-! ## Due times and the alarm (R132, R133, R135) -/

theorem alarmReady_eq (s : State) (h : Hire) : alarmReady s.clock h = alarmDue s h := by
  have out : decide (0 < outLines h) = h.lines.any (fun l => l.state == .out) := by
    rw [Bool.eq_iff_iff, decide_eq_true_iff]
    exact List.countP_pos_iff.trans List.any_eq_true.symm
  unfold alarmReady alarmDue
  rw [out]
  cases h.due <;> rfl

theorem becomeOverdue_eq (n : Nat) (h : Hire) (s : State) : becomeOverdue n h s =
    { s.setHire n { h with overdue := true } with gen.ports := (becomeOverdue n h s).gen.ports } := notify_ports ..

theorem becomeOverdue_says (n : Nat) (h : Hire) (s : State) :
    Says [.hireOverdue n (h.due.getD 0) (outLines h) h.openedBy] s (becomeOverdue n h s) :=
  Says.trans (l := []) (t := s.setHire n { h with overdue := true }) (.of_ports rfl rfl) (notify_says ..)

theorem setDue_refused {due : Option Word} (given : ticket ≠ 0) (none : s.hire? ticket.toNat = none) :
    setDue ticket due s = (.notFound, [], s) := by
  unfold setDue
  rw [ticketOf_eq_some given]
  dsimp only
  rw [none]

theorem setDue_done {due : Option Word} {h' : Hire} (given : ticket ≠ 0) (hh : s.hire? ticket.toNat = some h)
    (changed : h' = { h with due := due.map BitVec.toNat, overdue := false }) :
    ∃ t, setDue ticket due s = (.done, optField 4 h'.due ++ flag (alarmDue s h'), t) ∧
      t = { s.setHire ticket.toNat { h' with overdue := alarmDue s h' } with gen.ports := t.gen.ports } ∧
      Notified (if alarmDue s h' then [.hireOverdue ticket.toNat (h'.due.getD 0) (outLines h') h'.openedBy] else []) s t := by
  have same : { h' with overdue := false } = h' := by rw [changed]
  have given' : h'.due = due.map BitVec.toNat := by rw [changed]
  have result : setDue ticket due s = (.done, optField 4 h'.due ++ flag (alarmDue s h'),
      if alarmDue s h' then becomeOverdue ticket.toNat h' (s.setHire ticket.toNat h') else s.setHire ticket.toNat h') := by
    unfold setDue
    rw [ticketOf_eq_some given]
    dsimp only
    rw [hh]
    dsimp only
    rw [← changed, alarmReady_eq, given']
  refine ⟨_, result, ?_⟩
  cases late : alarmDue s h' with
  | false =>
    rw [if_neg Bool.false_ne_true, same]
    exact ⟨rfl, fun _ => rfl⟩
  | true =>
    refine ⟨?_, (Says.trans (l := []) (t := s.setHire ticket.toNat h') (.of_ports rfl rfl) (becomeOverdue_says ..)).port⟩
    refine (becomeOverdue_eq ..).trans ?_
    unfold State.setHire
    dsimp only
    rw [Table.put_put]
    rfl

/-- A hire once the due alarm has been taken. -/
def alarmed (s : State) (e : Nat × Hire) : Nat × Hire := (e.1, { e.2 with overdue := e.2.overdue || alarmDue s e.2 })

/-- The notices of the due alarm for the hires `es`. -/
def alarmNotices (s : State) (es : Table Hire) : List NoticeBody :=
  (es.filter fun e => alarmDue s e.2).map fun e => .hireOverdue e.1 (e.2.due.getD 0) (outLines e.2) e.2.openedBy

/-- The hires of `es` in turn, those before them taken already. -/
theorem dueAlarm_run (es pre : Table Hire) (u : State) (stands : u.ret.hires = pre ++ es) (sorted : Table.Sorted (pre ++ es)) (clock : u.clock = s.clock) :
    let t := es.foldl (fun s e => if alarmReady s.clock e.2 then becomeOverdue e.1 e.2 s else s) u
    t.ret.hires = pre ++ es.map (alarmed s) ∧ Says (alarmNotices s es) u t ∧
      t = { u with ret.hires := t.ret.hires, gen.ports := t.gen.ports } := by
  induction es generalizing pre u with
  | nil => exact ⟨stands, .refl u, rfl⟩
  | cons e es ih =>
    obtain ⟨n, h⟩ := e
    dsimp only
    rw [List.foldl_cons]
    dsimp only
    have ready : alarmReady u.clock h = alarmDue s h := by rw [clock, alarmReady_eq]
    rw [ready]
    have keys : ∀ x, Table.Sorted (pre ++ [(n, x)] ++ es) := fun x => by
      rw [Table.sorted_iff_keys] at sorted ⊢
      simpa using sorted
    unfold alarmNotices
    cases late : alarmDue s h with
    | false =>
      rw [if_neg Bool.false_ne_true, List.filter_cons_of_neg (by rw [late]; exact nofun)]
      obtain ⟨hires, told, frame⟩ := ih (pre ++ [(n, h)]) u (by rw [stands, List.append_assoc]; rfl) (keys h) clock
      refine ⟨hires.trans ?_, told, frame⟩
      rw [List.append_assoc, List.map_cons, alarmed, late, Bool.or_false]
      rfl
    | true =>
      rw [if_pos rfl, List.filter_cons_of_pos (p := fun e : Nat × Hire => alarmDue s e.2) (a := (n, h)) late]
      have put : (becomeOverdue n h u).ret.hires = pre ++ [(n, { h with overdue := true })] ++ es := by
        rw [becomeOverdue_eq]
        show u.ret.hires.put n { h with overdue := true } = _
        rw [stands, Table.put_at sorted, List.append_assoc]
        rfl
      obtain ⟨hires, told, frame⟩ := ih (pre ++ [(n, { h with overdue := true })]) (becomeOverdue n h u) put (keys _)
        (by rw [becomeOverdue_eq]; exact clock)
      refine ⟨hires.trans ?_, (becomeOverdue_says n h u).trans told, ?_⟩
      · rw [List.append_assoc, List.map_cons, alarmed, late, Bool.or_true]
        rfl
      · rw [frame, becomeOverdue_eq]
        rfl

/-- Settles O35. -/
theorem depositsAndDueTimes : Obligations.DepositsAndDueTimes := by
  refine ⟨fun s p tag ticket minus magnitude ready => ⟨?_, fun given none => ready.answers tag rfl (adjustDeposit_refused given none),
      fun given h delta hh within signed => ⟨fun leaves => ready.answers tag rfl (adjustDeposit_badArg given hh signed within leaves),
        fun low high => ready.answers tag rfl (adjustDeposit_done given hh signed low high)⟩⟩,
    fun s p tag ticket due ready => ⟨?_, fun given none => ready.answers tag rfl (setDue_refused given none),
      fun given h h' hh changed => ?_⟩, fun s running due lawful => ?_⟩
  · rintro rfl
    exact ready.answers tag rfl rfl
  · rintro rfl
    exact ready.answers tag rfl rfl
  · obtain ⟨t, result, frame, told⟩ := setDue_done given hh changed
    exact ⟨t, ready.answers tag rfl result, frame, told⟩
  · have run := dueAlarm_run (s := s) s.ret.hires [] { s with gen.due := s.gen.due.erase .alarm } rfl lawful.sorted rfl
    dsimp only at run
    obtain ⟨hires, told, frame⟩ := run
    exact ⟨_, takeOne_due running due, hires, told.port, frame⟩

end Sys2Proof.Machine
end

section
/-! PROOF. TARIFF_SET, SESSION_OPEN and ACCOUNTS_CLEAR (O38). -/

namespace Sys2Proof.Machine
open Sys2Proof

variable {s t : State} {tariffClass : Byte} {args : TariffArgs} {k : TClass}

/-! ## TARIFF_SET (R143) -/

theorem setTariff_badArg (fails : 8 ≤ tariffClass.toNat ∨ (args.defined = true ∧
    (args.quantum.toNat < 60 ∨ 14400 < args.quantum.toNat ∨ 3600 < args.grace.toNat))) :
    setTariff tariffClass args s = (.badArg, [], s) := by
  unfold setTariff
  cases hk : classOf tariffClass with
  | none => rfl
  | some k =>
    have within := k.isLt
    have named := classOf_eq_some.mp hk
    obtain ⟨defined, range⟩ := fails.resolve_left (by omega)
    exact if_pos ⟨defined, fun ⟨low, high, grace, _⟩ => by omega⟩

/-- The record that a TARIFF_SET writes. -/
def tariffOf (args : TariffArgs) (generation : Nat) : Tariff := ⟨if args.defined then
  some ⟨args.quantum.toNat, args.grace.toNat, args.rate.toNat, args.dayCap.toNat, args.lossFee.toNat⟩ else none, generation⟩

theorem setTariff_done (named : tariffClass.toNat = k.val)
    (range : args.defined = true → 60 ≤ args.quantum.toNat ∧ args.quantum.toNat ≤ 14400 ∧ args.grace.toNat ≤ 3600) {generation : Nat}
    (next : generation = (if (s.tariff k).generation < 65535 then (s.tariff k).generation + 1 else 0)) :
    setTariff tariffClass args s = (.done, u8 k.val ++ u16 generation,
      notify (.tariffChanged k generation args.defined) { s with ret.tariffs := s.ret.tariffs.set k (tariffOf args generation) }) := by
  unfold setTariff
  rw [classOf_eq_some.mpr named]
  dsimp only
  rw [if_neg, show wrapNext Config.smallMax (s.tariff k).generation = generation from next.symm]
  · rfl
  · rintro ⟨defined, out⟩
    obtain ⟨low, high, grace⟩ := range defined
    exact out ⟨low, high, grace, Nat.le_of_lt_succ args.rate.isLt⟩

/-! ## SESSION_OPEN (R165, R30, R54, R114, R166) -/

theorem openSession_done (closed : s.ret.session.state ≠ .opened) {number : Nat}
    (next : number = (if s.ret.session.number < 65535 then s.ret.session.number + 1 else 1)) :
    openSession s = (.done, u16 number ++ u32 s.clock, { s with
      ret.session := ⟨.opened, number, some s.clock, none⟩
      ret.slots := s.ret.slots.map (fun k => { k with uMark := k.u, vMark := k.v })
      ret.peaks := s.ret.listeners
      ret.seatAcc := Bank.fill 32 (Bank.fill 3 SeatAcc.zero)
      ret.counters := SessionCounters.zero }) := by
  rw [next]
  exact if_neg closed

/-- Settles O38. -/
theorem tariffsAndSessions : Obligations.TariffsAndSessions := by
  refine ⟨fun s tag tariffClass args ready => ⟨fun fails => ready.respond_to tag .tariffSet (setTariff_badArg fails),
      fun k generation named range next => ?_⟩,
    fun s tag ready => ⟨fun opened => ready.respond_to tag .sessionOpen (if_pos opened), fun closed number next => ?_,
      ready.respond_to tag .accountsClear rfl⟩⟩
  · generalize hu : ({ s with ret.tariffs := s.ret.tariffs.set k (tariffOf args generation) } : State) = u
    refine ⟨notify (.tariffChanged k generation args.defined) u, ready.respond_to tag .tariffSet (hu ▸ setTariff_done named range next), ?_, ?_⟩
    · rw [← hu]
      exact notify_port _ _
    · rw [notify_ports, ← hu]
      rfl
  · refine ⟨_, ready.respond_to tag .sessionOpen (openSession_done closed next), rfl, fun k => Bank.get_map .., fun k => rfl,
      fun b k => ?_, rfl, rfl⟩
    exact (congrArg (Bank.get · k) (Bank.get_fill ..)).trans (Bank.get_fill ..)

end Sys2Proof.Machine
end

section
/-! PROOF. The job list and the run of a QUOTE (O39), with the start of a job and its work copy, which a CLOSE shares. -/

namespace Sys2Proof.Machine
open Sys2Proof

variable {s : State} {p : Port} {r : InProgress} {rest : List Job}

/-! ## Answering the request in progress (R173) -/

theorem finish_answered (busy : (s.port p).inProgress = some r) (a : Answer) (payload : List Byte) :
    finish p a payload s = answered p r a payload s := by
  rcases finish_cases p a payload s with ⟨free, _⟩ | ⟨q, found, e⟩
  · nomatch free.symm.trans busy
  · obtain rfl : r = q := Option.some.inj (busy.symm.trans found)
    exact e

/-! ## The start of the oldest job (R155, R156) -/

/-- What the start of job `j` does once it has left the list. -/
def startOf (j : Job) (s : State) : State :=
  match j.request with
  | .quote ticket first => startQuote j.port ticket first s
  | .close args => startClose j.port args s
  | .snapshot => startSnapshot j.port s
  | .sessionClose => startSessionClose j.port s

theorem startJob_eq {j : Job} (idle : s.gen.flight = none) (front : s.gen.jobs = j :: rest) :
    startJob s = startOf j { s with gen.jobs := rest } := by
  unfold startJob
  split
  next j' rest' _ found =>
    obtain ⟨rfl, rfl⟩ := List.cons.inj (front.symm.trans found)
    rfl
  next none_waits => exact absurd front (none_waits j rest idle)

theorem startJob_still (still : s.gen.flight ≠ none ∨ s.gen.jobs = []) : startJob s = s := by
  unfold startJob
  split
  next idle found =>
    rcases still with flying | empty
    · exact absurd idle flying
    · nomatch found.symm.trans empty
  next => rfl

theorem jobStart_starts {j : Job} (awake : Awake s) (idle : s.gen.flight = none) (front : s.gen.jobs = j :: rest) :
    exec .jobStart s = .next (startOf j { s with gen.jobs := rest }) := by
  rw [← startJob_eq idle front]
  exact taking_awake awake _

/-! ## The work copy (R141, R158) -/

theorem creditToDate_out {l : Line} (out : l.state = .out) : creditToDate s l = closedCredit s l.receiver l := by
  unfold creditToDate
  rw [if_pos out]
  cases tuned : (s.receiver l.receiver).tuned with
  | none =>
    have nothing : openPart s l = 0 := by
      unfold openPart
      rw [tuned]
    rw [closedCredit_untuned tuned, nothing, creditUpTo, Nat.zero_min, Nat.add_zero]
  | some m =>
    have heard : openPart s l = (s.slot m.slot).u - m.mark := by
      unfold openPart
      rw [tuned]
    rw [closedCredit_tuned tuned, heard]

theorem copyLine_copies (s : State) (l : Line) : CopyOf s l (copyLine s l) := by
  refine ⟨rfl, rfl, rfl, fun ended => ⟨if_neg ended, fun e at_ => ?_⟩, fun out => ⟨if_pos out, creditToDate_out out⟩⟩
  exact (if_neg ended).trans (by rw [at_, Option.getD_some])

theorem workCopy_copies (s : State) (ticket : Nat) (h : Hire) (terms : Terms) :
    WorkCopyOf s ticket h terms (workCopy s ticket h terms) :=
  ⟨rfl, rfl, rfl, rfl, rfl, rfl, rfl, List.forall₂_map_right_iff.mpr (List.forall₂_same.mpr fun l _ => copyLine_copies s l)⟩

/-! ## The start of a QUOTE (R156) -/

variable {ticket : Half} {first : Byte} {h : Hire}

theorem startQuote_badArg (busy : (s.port p).inProgress = some r) (fails : ticket = 0 ∨ 16 ≤ first.toNat) :
    startQuote p ticket first s = answered p r .badArg [] s := by
  rw [← finish_answered busy]
  unfold startQuote
  rcases fails with rfl | high
  · rw [ticketOf_zero]
  · rw [show fromZero Config.lineMax first.toNat = none from fromZero_eq_none.mpr high]
    cases ticketOf ticket with
    | none => rfl
    | some _ => rfl

section
variable (named : ticket ≠ 0) (low : first.toNat < 16)
include named low

theorem startQuote_notFound (busy : (s.port p).inProgress = some r) (missing : s.hire? ticket.toNat = none) :
    startQuote p ticket first s = answered p r .notFound [] s := by
  rw [← finish_answered busy]
  unfold startQuote
  rw [ticketOf_eq_some named, show fromZero Config.lineMax first.toNat = some ⟨_, low⟩ from fromZero_eq_some.mpr rfl]
  simp only [missing]

theorem startQuote_undefined (busy : (s.port p).inProgress = some r) (found : s.hire? ticket.toNat = some h)
    (undefined : (s.tariff h.tariffClass).terms = none) :
    startQuote p ticket first s = answered p r .wrongState [] s := by
  rw [← finish_answered busy]
  unfold startQuote
  rw [ticketOf_eq_some named, show fromZero Config.lineMax first.toNat = some ⟨_, low⟩ from fromZero_eq_some.mpr rfl]
  simp only [found, undefined]

theorem startQuote_flies {terms : Terms} (found : s.hire? ticket.toNat = some h)
    (defined : (s.tariff h.tariffClass).terms = some terms) :
    startQuote p ticket first s =
      { s with gen.flight := some ⟨p, .quote ticket first, workCopy s ticket.toNat h terms⟩ } := by
  unfold startQuote
  rw [ticketOf_eq_some named, show fromZero Config.lineMax first.toNat = some ⟨_, low⟩ from fromZero_eq_some.mpr rfl]
  simp only [found, defined]

end

/-! ## The quote record (R187) -/

theorem length_lineEntry (i : Nat) (l : LineCharge) : (lineEntry i l).length = 33 := by
  simp [lineEntry, u8, u16, u32, length_numBytes]

theorem length_flatMap_const {α β : Type} {f : α → List β} {n : Nat} (l : List α) (each : ∀ x, (f x).length = n) :
    (l.flatMap f).length = n * l.length := by
  rw [List.length_flatMap, funext each, List.map_const', List.sum_replicate, smul_eq_mul, Nat.mul_comm]

theorem length_quoteRecord (w : WorkCopy) (first : Nat) :
    (quoteRecord w first 0).length = 37 + 33 * min 6 (w.lines.length - first) := by
  have lines : (hireCharge w).lines.length = w.lines.length := List.length_map _
  have room : (Config.payloadMax - 0 - 37) / 33 = 6 := rfl
  simp only [quoteRecord, List.length_append, length_flatMap_const _ (fun e : LineCharge × Nat => length_lineEntry e.2 e.1),
    u8, u16, u32, flag, length_numBytes, List.length_cons, List.length_nil, List.length_zipIdx, List.length_take,
    List.length_drop, fits, lines, room]
  omega

/-! ## The settling theorem -/

/-- Settles O39. -/
theorem jobsQueueAndQuotesRun : Obligations.JobsQueueAndQuotesRun := by
  refine ⟨fun s p tag ready => ⟨fun ticket first => request_ready ready tag .quote _ (nomatch ·),
      fun args => request_ready ready tag .close _ (nomatch ·), request_ready ready tag .snapshot _ (nomatch ·),
      fun console => request_ready ready tag .sessionClose _ fun _ => console⟩,
    fun s p ticket first rest r awake idle front busy => ?_, fun s p ticket first w r awake flying busy => ⟨?_, ?_⟩,
    fun s awake still => ?_⟩
  · rw [jobStart_starts awake idle front]
    refine ⟨fun fails => ?_, fun named low => ⟨fun missing => ?_, fun h found =>
      ⟨fun undefined => ?_, fun terms defined => ⟨_, workCopy_copies { s with gen.jobs := rest } _ h terms, ?_⟩⟩⟩⟩
    · exact congrArg _ (startQuote_badArg (s := { s with gen.jobs := rest }) busy fails)
    · exact congrArg _ (startQuote_notFound (s := { s with gen.jobs := rest }) named low busy missing)
    · exact congrArg _ (startQuote_undefined (s := { s with gen.jobs := rest }) named low busy found undefined)
    · exact congrArg _ (startQuote_flies named low found defined)
  · have completes : completeQuote s = finish p .done (quoteRecord w first.toNat 0) { s with gen.flight := none } := by
      unfold completeQuote
      rw [flying]
    rw [← finish_answered (s := { s with gen.flight := none }) busy, ← completes]
    exact taking_awake awake _
  · exact length_quoteRecord w first.toNat
  · exact (taking_awake awake _).trans (congrArg _ (startJob_still still))

end Sys2Proof.Machine
end

section
/-! PROOF. The start of a CLOSE, its completion and its commit (O40). -/

namespace Sys2Proof.Machine
open Sys2Proof

variable {s : State} {p : Port} {r : InProgress} {rest : List Job} {a : CloseArgs} {h : Hire} {w : WorkCopy} {k : Condition}

/-! ## The start (R160) -/

theorem conditionOf_eq_none {b : Byte} (high : 6 < b.toNat) : conditionOf b = none := by
  obtain ⟨m, e⟩ : ∃ m, b.toNat = m + 7 := ⟨b.toNat - 7, by omega⟩
  unfold conditionOf
  rw [e]
  rfl

theorem conditionOf_named {b : Byte} (low : b.toNat ≤ 6) : ∃ k, conditionOf b = some k := by
  unfold conditionOf
  generalize b.toNat = n at low
  interval_cases n <;> exact ⟨_, rfl⟩

theorem firm_eq_true (ended : ∀ l ∈ h.lines, l.state ≠ .out) : firm h = true :=
  List.all_eq_true.mpr fun l mem => bne_iff_ne.mpr (ended l mem)

theorem firm_eq_false (out : ∃ l ∈ h.lines, l.state = .out) : firm h = false := by
  obtain ⟨l, mem, out⟩ := out
  exact List.all_eq_false.mpr ⟨l, mem, by rw [out]; decide⟩

theorem startClose_badArg (busy : (s.port p).inProgress = some r)
    (fails : a.ticket = 0 ∨ 16 ≤ a.first.toNat ∨ 6 < a.condition.toNat) :
    startClose p a s = answered p r .badArg [] s := by
  rw [← finish_answered busy]
  unfold startClose
  rcases fails with unnamed | high | high
  · rw [unnamed, ticketOf_zero]
  · rw [show fromZero Config.lineMax a.first.toNat = none from fromZero_eq_none.mpr high]
    cases ticketOf a.ticket with
    | none => rfl
    | some _ => rfl
  · rw [conditionOf_eq_none high]
    cases ticketOf a.ticket with
    | none => rfl
    | some _ =>
      cases fromZero Config.lineMax a.first.toNat with
      | none => rfl
      | some _ => rfl

/-- The rest of a CLOSE's start once its parameters are in range. -/
theorem startClose_inRange (named : a.ticket ≠ 0) (low : a.first.toNat < 16) (known : a.condition.toNat ≤ 6) :
    startClose p a s = match s.hire? a.ticket.toNat with
      | none => finish p .notFound [] s
      | some h =>
        if !firm h then finish p .wrongState [] s
        else
          match (s.tariff h.tariffClass).terms with
          | none => finish p .wrongState [] s
          | some terms =>
            if a.changeCount.toNat ≠ h.changeCount ∨ a.generation.toNat ≠ (s.tariff h.tariffClass).generation then
              finish p .stale [] s
            else { s with gen.flight := some ⟨p, .close a, workCopy s a.ticket.toNat h terms⟩ } := by
  obtain ⟨k, cond⟩ := conditionOf_named known
  unfold startClose
  rw [ticketOf_eq_some named, show fromZero Config.lineMax a.first.toNat = some ⟨_, low⟩ from fromZero_eq_some.mpr rfl, cond]
    <;> rfl

section
variable (named : a.ticket ≠ 0) (low : a.first.toNat < 16) (known : a.condition.toNat ≤ 6)
include named low known

theorem startClose_notFound (busy : (s.port p).inProgress = some r) (missing : s.hire? a.ticket.toNat = none) :
    startClose p a s = answered p r .notFound [] s := by
  rw [startClose_inRange named low known, ← finish_answered busy]
  simp only [missing]

theorem startClose_wrongState (busy : (s.port p).inProgress = some r) (found : s.hire? a.ticket.toNat = some h)
    (fails : (∃ l ∈ h.lines, l.state = .out) ∨ (s.tariff h.tariffClass).terms = none) :
    startClose p a s = answered p r .wrongState [] s := by
  rw [startClose_inRange named low known, ← finish_answered busy]
  simp only [found]
  rcases fails with out | undefined
  · exact if_pos (by rw [firm_eq_false out]; rfl)
  · simp only [undefined, ite_self]

variable {terms : Terms} (found : s.hire? a.ticket.toNat = some h) (ended : ∀ l ∈ h.lines, l.state ≠ .out)
  (defined : (s.tariff h.tariffClass).terms = some terms)
include found ended defined

theorem startClose_stale (busy : (s.port p).inProgress = some r)
    (moved : a.changeCount.toNat ≠ h.changeCount ∨ a.generation.toNat ≠ (s.tariff h.tariffClass).generation) :
    startClose p a s = answered p r .stale [] s := by
  rw [startClose_inRange named low known, ← finish_answered busy]
  simp only [found, defined, firm_eq_true ended, if_pos moved, Bool.not_true, Bool.false_eq_true, if_false]

theorem startClose_flies (count : a.changeCount.toNat = h.changeCount)
    (generation : a.generation.toNat = (s.tariff h.tariffClass).generation) :
    startClose p a s = { s with gen.flight := some ⟨p, .close a, workCopy s a.ticket.toNat h terms⟩ } := by
  rw [startClose_inRange named low known]
  simp only [found, defined, firm_eq_true ended, Bool.not_true, Bool.false_eq_true, if_false]
  exact if_neg (not_or.mpr ⟨not_not.mpr count, not_not.mpr generation⟩)

end

/-! ## The commit (R138, R162, R164, R166) -/

/-- The HIRE_CLOSED notice of a commit by port `p`. -/
def closeNotice (p : Port) (w : WorkCopy) : NoticeBody :=
  .hireClosed w.ticket p (hireCharge w).total (hireCharge w).flags.settlement (hireCharge w).amount
    (w.lines.countP (fun l => l.state == .lost))

/-- A receiver once hire `ticket` is removed: a LOST one linked to it loses the link. -/
def unlinked (ticket : Nat) (x : Receiver) : Receiver :=
  if x.state = .lost ∧ x.link.map HireLink.ticket = some ticket then { x with link := none } else x

/-- The books once port `p` has committed the close of `w`. -/
def committed (p : Port) (w : WorkCopy) (s : State) : State :=
  { s with
    ret.hires := s.ret.hires.remove w.ticket
    ret.receivers := s.ret.receivers.map (fun e => (e.1, unlinked w.ticket e.2))
    ret.accounts := raiseAccounts p w.deposit (hireCharge w) s.ret.accounts
    ret.counters :=
      if s.ret.session.state = .opened then raiseCounters (hireCharge w) s.ret.counters else s.ret.counters }

theorem removeHire_eq (ticket : Nat) (s : State) :
    removeHire ticket s = { s with
      ret.hires := s.ret.hires.remove ticket
      ret.receivers := s.ret.receivers.map (fun e => (e.1, unlinked ticket e.2)) } := by
  have each : (fun e : Nat × Receiver => if e.2.state = .lost ∧ e.2.link.map HireLink.ticket = some ticket then
      (e.1, { e.2 with link := none }) else e) = fun e => (e.1, unlinked ticket e.2) := by
    funext e
    unfold unlinked
    split
    · rfl
    · rfl
  unfold removeHire
  rw [each]

theorem commitClose_eq (p : Port) (w : WorkCopy) (s : State) :
    commitClose p w s = notifyExcept (some p) (closeNotice p w) (committed p w s) := by
  unfold commitClose
  dsimp only
  rw [removeHire_eq]
  unfold committed
  by_cases opened : s.ret.session.state = .opened
  · simp only [if_pos opened]
    rfl
  · simp only [if_neg opened]
    rfl

theorem unlinked_eq (ticket : Nat) (x : Receiver) : unlinked ticket x = { x with
    link := if x.state = .lost ∧ x.link.map HireLink.ticket = some ticket then none else x.link } := by
  unfold unlinked
  split
  · rfl
  · rfl

theorem committed_receiver (p : Port) (w : WorkCopy) (s : State) (n : Nat) :
    (committed p w s).receiver n = unlinked w.ticket (s.receiver n) := by
  have found := Table.find?_map s.ret.receivers (fun _ => unlinked w.ticket) n
  show (Table.find? (s.ret.receivers.map fun e => (e.1, unlinked w.ticket e.2)) n).getD _ = _
  rw [found]
  unfold State.receiver
  cases s.ret.receivers.find? n with
  | none => rfl
  | some x => rfl

theorem commitClose_port (p q : Port) (w : WorkCopy) (s : State) :
    (commitClose p w s).port q = if p = q then s.port q else noticed ⟨s.clock, closeNotice p w⟩ (s.port q) := by
  rw [commitClose_eq, notifyExcept_port]
  exact if_congr Option.some_inj rfl rfl

theorem commitClose_frame (p : Port) (w : WorkCopy) (s : State) :
    commitClose p w s = { committed p w s with gen.ports := (commitClose p w s).gen.ports } := by
  rw [commitClose_eq]
  exact notifyExcept_ports ..

/-! ## The completion (R161) -/

theorem tokenCurrent_moved (moved : ∀ x, s.hire? w.ticket = some x →
    x.changeCount ≠ w.changeCount ∨ (s.tariff w.tariffClass).generation ≠ w.generation) : tokenCurrent s w = false := by
  unfold tokenCurrent
  cases found : s.hire? w.ticket with
  | none => rfl
  | some x => exact Bool.and_eq_false_iff.mpr ((moved x found).imp beq_false_of_ne beq_false_of_ne)

theorem tokenCurrent_stands {x : Hire} (found : s.hire? w.ticket = some x) (count : x.changeCount = w.changeCount)
    (generation : (s.tariff w.tariffClass).generation = w.generation) : tokenCurrent s w = true := by
  unfold tokenCurrent
  rw [found]
  exact Bool.and_eq_true_iff.mpr ⟨beq_iff_eq.mpr count, beq_iff_eq.mpr generation⟩

theorem completeClose_eq (flying : s.gen.flight = some ⟨p, .close a, w⟩) (cond : conditionOf a.condition = some k) :
    completeClose s =
      if tokenCurrent s w = false then finish p .stale (0 :: quoteRecord w a.first.toNat 1) { s with gen.flight := none }
      else if conditionHolds k (hireCharge w).flags = false then
        finish p .conditionFalse (0 :: quoteRecord w a.first.toNat 1) { s with gen.flight := none }
      else
        finish p .done (1 :: quoteRecord w a.first.toNat 1) (commitClose p w { s with gen.flight := none }) := by
  unfold completeClose
  rw [flying]
  dsimp only
  rw [cond, show tokenCurrent { s with gen.flight := none } w = tokenCurrent s w from rfl]
  refine if_congr (by rw [Bool.not_eq_true']) rfl (if_congr ?_ rfl rfl)
  rw [Bool.not_eq_true']
  rfl

/-- Settles O40. -/
theorem closesStartAndComplete : Obligations.ClosesStartAndComplete := by
  refine ⟨fun s p a rest r awake idle front busy => ?_, fun s p a w r k h awake flying busy unwaited cond charge => ?_⟩
  · rw [jobStart_starts awake idle front]
    refine ⟨fun fails => ?_, fun named low known => ⟨fun missing => ?_, fun h found => ⟨fun fails => ?_,
      fun terms ended defined => ⟨fun moved => ?_, fun count generation =>
        ⟨_, workCopy_copies { s with gen.jobs := rest } _ h terms, ?_⟩⟩⟩⟩⟩
    · exact congrArg _ (startClose_badArg (s := { s with gen.jobs := rest }) busy fails)
    · exact congrArg _ (startClose_notFound (s := { s with gen.jobs := rest }) named low known busy missing)
    · exact congrArg _ (startClose_wrongState (s := { s with gen.jobs := rest }) named low known busy found fails)
    · exact congrArg _ (startClose_stale (s := { s with gen.jobs := rest }) named low known found ended defined busy moved)
    · exact congrArg _ (startClose_flies named low known found ended defined count generation)
  · subst charge
    have completes : exec .closeCompletion s = .next (completeClose s) := taking_awake awake _
    rw [completes, completeClose_eq flying cond]
    refine ⟨fun moved => ?_, fun x found count generation => ⟨fun fails => ?_, fun holds owed refund owing refunding => ?_⟩⟩
    · rw [if_pos (tokenCurrent_moved moved)]
      exact congrArg _ (finish_answered (s := { s with gen.flight := none }) busy _ _)
    · rw [if_neg (by rw [tokenCurrent_stands found count generation]; decide), if_pos fails]
      exact congrArg _ (finish_answered (s := { s with gen.flight := none }) busy _ _)
    · rw [if_neg (by rw [tokenCurrent_stands found count generation]; decide), if_neg (by rw [holds]; decide)]
      subst owing refunding
      generalize landed : ({ s with gen.flight := none } : State) = u
      have own : (commitClose p w u).port p = s.port p := by
        rw [commitClose_port, if_pos rfl, ← landed]
        rfl
      have frame := commitClose_frame p w u
      rw [finish_answered (own ▸ busy)]
      refine ⟨_, rfl, ?_, fun q other => ?_, ?_, fun n => ?_, ?_, ?_, ?_⟩
      · rw [answered, State.setPort_same, own]
      · rw [answered, State.setPort_port, if_neg other.symm, commitClose_port, if_neg other.symm, ← landed]
        rfl
      · rw [frame, ← landed]
        rfl
      · rw [frame]
        refine (committed_receiver p w u n).trans ?_
        rw [unlinked_eq, ← landed]
        rfl
      · rw [frame, ← landed]
        rfl
      · rw [frame, ← landed]
        rfl
      · rw [frame, ← landed]
        rfl

end Sys2Proof.Machine
end

section
/-! PROOF. The statement copy, and SNAPSHOT_READ (O41). -/

namespace Sys2Proof.Machine
open Sys2Proof

variable {s : State} {p : Port} {r : InProgress} {c : Statement}

/-! ## The statement copy (R168) -/

theorem mem_statementLanguages (s : State) (e : StatementLang) :
    e ∈ statementLanguages s ↔ (s.slot e.slot).channel = some e.channel ∧
      e.covered = (s.slot e.slot).v - (s.slot e.slot).vMark ∧ e.uncovered = (s.slot e.slot).u - (s.slot e.slot).uMark ∧
      e.peak = s.ret.peaks.get e.slot ∧ e.listeners = s.ret.listeners.get e.slot ∧
      e.tag = ((s.slot e.slot).name.map LangName.tag).getD 0 ∧
      e.label = ((s.slot e.slot).name.map LangName.label).getD [] := by
  unfold statementLanguages
  rw [List.mem_filterMap]
  constructor
  · rintro ⟨k, _, shown⟩
    obtain ⟨c, carries, rfl⟩ := Option.map_eq_some_iff.mp shown
    exact ⟨carries, rfl, rfl, rfl, rfl, rfl, rfl⟩
  · rintro ⟨carries, covered, uncovered, peak, listeners, tag, label⟩
    refine ⟨e.slot, List.mem_finRange _, Option.map_eq_some_iff.mpr ⟨e.channel, carries, ?_⟩⟩
    rw [← covered, ← uncovered, ← peak, ← listeners, ← tag, ← label]

theorem statementLanguages_sorted (s : State) : ((statementLanguages s).map StatementLang.slot).Pairwise (· < ·) := by
  unfold statementLanguages
  rw [List.pairwise_map, List.pairwise_filterMap]
  refine (List.pairwise_lt_finRange 32).imp fun {k j} less e shown f shown' => ?_
  obtain ⟨_, _, rfl⟩ := Option.map_eq_some_iff.mp shown
  obtain ⟨_, _, rfl⟩ := Option.map_eq_some_iff.mp shown'
  exact less

/-- The seats of booth `b` in a statement. -/
def seatsOf (s : State) (b : Booth) : List StatementSeat :=
  match s.boothSettings b with
  | none => []
  | some m => ((List.finRange 3).filter (fun i => decide (i.val < m.seats))).map (fun i => ⟨b, i, s.acc b i⟩)

theorem mem_seatsOf (s : State) (b : Booth) (e : StatementSeat) :
    e ∈ seatsOf s b ↔ e.booth = b ∧ e.acc = s.acc b e.seat ∧ ∃ m, s.boothSettings b = some m ∧ e.seat.val < m.seats := by
  unfold seatsOf
  cases settings : s.boothSettings b with
  | none => simp
  | some m =>
    simp only [List.mem_map, List.mem_filter, List.mem_finRange, true_and, decide_eq_true_eq, Option.some_inj, exists_eq_left']
    constructor
    · rintro ⟨i, has, rfl⟩
      exact ⟨rfl, rfl, has⟩
    · rintro ⟨rfl, acc, has⟩
      exact ⟨e.seat, has, by rw [← acc]⟩

theorem seatsOf_sorted (s : State) (b : Booth) : (seatsOf s b).Pairwise (fun e f => e.seat < f.seat) := by
  unfold seatsOf
  cases s.boothSettings b with
  | none => exact .nil
  | some m => exact List.pairwise_map.mpr ((List.pairwise_lt_finRange 3).filter _)

theorem statementSeats_eq (s : State) : statementSeats s = (List.finRange 32).flatMap (seatsOf s) := rfl

theorem mem_statementSeats (s : State) (e : StatementSeat) :
    e ∈ statementSeats s ↔ e.acc = s.acc e.booth e.seat ∧ ∃ m, s.boothSettings e.booth = some m ∧ e.seat.val < m.seats := by
  simp only [statementSeats_eq, List.mem_flatMap, List.mem_finRange, true_and, mem_seatsOf, exists_eq_left']

theorem statementSeats_sorted (s : State) :
    ((statementSeats s).map (fun e => 3 * e.booth.val + e.seat.val)).Pairwise (· < ·) := by
  rw [List.pairwise_map, statementSeats_eq, List.pairwise_flatMap]
  refine ⟨fun b _ => (seatsOf_sorted s b).imp_of_mem fun {e f} here there less => ?_,
    (List.pairwise_lt_finRange 32).imp fun {b d} less e here f there => ?_⟩
  · obtain ⟨rfl, _⟩ := (mem_seatsOf s b e).mp here
    obtain ⟨same, _⟩ := (mem_seatsOf s _ f).mp there
    rw [same]
    exact Nat.add_lt_add_left less _
  · obtain ⟨rfl, _⟩ := (mem_seatsOf s b e).mp here
    obtain ⟨rfl, _⟩ := (mem_seatsOf s d f).mp there
    have := e.seat.isLt
    have : e.booth.val < f.booth.val := less
    omega

/-! ## The start of a statement job (R167) -/

/-- What a statement job leaves beside its answer, once it has taken its copy. -/
theorem startSnapshot_done (busy : (s.port p).inProgress = some r) (opened : s.ret.session.state = .opened) :
    startSnapshot p s = answered p r .done (u32 s.clock ++ u8 (statementLanguages s).length ++ u8 (statementSeats s).length)
      { s with gen.snapshot := some (statementCopy .opened s) } := by
  unfold startSnapshot
  rw [if_pos opened]
  exact finish_answered (s := { s with gen.snapshot := some (statementCopy .opened s) }) busy _ _

theorem startSnapshot_closed (busy : (s.port p).inProgress = some r) (closed : s.ret.session.state ≠ .opened) :
    startSnapshot p s = answered p r .wrongState [] s := by
  unfold startSnapshot
  rw [if_neg closed, finish_answered busy]

theorem startSessionClose_done (busy : (s.port p).inProgress = some r) (opened : s.ret.session.state = .opened) :
    startSessionClose p s = answered p r .done
      (u16 s.ret.session.number ++ u32 (s.ret.session.openTime.getD 0) ++ u32 s.clock)
      { s with
        gen.snapshot := some (statementCopy .closed s)
        ret.session := { s.ret.session with state := .closed, closeTime := some s.clock } } := by
  unfold startSessionClose
  rw [if_pos opened]
  exact finish_answered (s := { s with
    gen.snapshot := some (statementCopy .closed s)
    ret.session := { s.ret.session with state := .closed, closeTime := some s.clock } }) busy _ _

theorem startSessionClose_closed (busy : (s.port p).inProgress = some r) (closed : s.ret.session.state ≠ .opened) :
    startSessionClose p s = answered p r .wrongState [] s := by
  unfold startSessionClose
  rw [if_neg closed, finish_answered busy]

/-! ## SNAPSHOT_READ (R169) -/

theorem isStatementJob_iff (q : JobRequest) : isStatementJob q = true ↔ q = .snapshot ∨ q = .sessionClose := by
  cases q <;> simp [isStatementJob]

theorem statementPending_waits (waits : ∃ j ∈ s.gen.jobs, j.request = .snapshot ∨ j.request = .sessionClose) :
    statementPending s = true := by
  obtain ⟨j, mem, is⟩ := waits
  exact Bool.or_eq_true_iff.mpr (.inl (List.any_eq_true.mpr ⟨j, mem, (isStatementJob_iff _).mpr is⟩))

theorem statementPending_none (jobs : JobsAgree s)
    (none_waits : ∀ j ∈ s.gen.jobs, j.request ≠ .snapshot ∧ j.request ≠ .sessionClose) : statementPending s = false := by
  refine Bool.or_eq_false_iff.mpr ⟨List.any_eq_false.mpr fun j mem is => ?_, ?_⟩
  · obtain ⟨other, another⟩ := none_waits j mem
    exact ((isStatementJob_iff _).mp is).elim other another
  · cases flying : s.gen.flight with
    | none => rfl
    | some f => exact jobs.flight f flying

variable {part start count : Byte}

theorem readSnapshot_badArg (high : 2 < part.toNat) : readSnapshot part start count s = (.badArg, []) := if_pos high

theorem readSnapshot_busy (low : part.toNat ≤ 2) (pending : statementPending s = true) :
    readSnapshot part start count s = (.busy, []) := by
  unfold readSnapshot
  rw [if_neg (Nat.not_lt.mpr low), if_pos pending]

theorem readSnapshot_empty (low : part.toNat ≤ 2) (settled : statementPending s = false) (empty : s.gen.snapshot = none) :
    readSnapshot part start count s = (.wrongState, []) := by
  unfold readSnapshot
  rw [if_neg (Nat.not_lt.mpr low), if_neg (by rw [settled]; decide), empty]

theorem sectionEntries_eq (low : part.toNat ≤ 2) : ∃ size, sectionEntries c part = some (size,
      if part = 0 then [summaryEntry c] else if part = 1 then c.languages.map statementLangEntry
      else c.seats.map statementSeatEntry) ∧
    (Config.payloadMax - 7) / size = if part = 0 then 7 else if part = 1 then 8 else 29 := by
  rcases byte_cases part with rfl | rfl | rfl | high
  · exact ⟨31, rfl, rfl⟩
  · exact ⟨29, rfl, rfl⟩
  · exact ⟨8, rfl, rfl⟩
  · omega

theorem readSnapshot_done (low : part.toNat ≤ 2) (settled : statementPending s = false) (taken : s.gen.snapshot = some c)
    {entries : List (List Byte)} {n : Nat}
    (shown : entries = if part = 0 then [summaryEntry c] else if part = 1 then c.languages.map statementLangEntry
      else c.seats.map statementSeatEntry)
    (number : n = min (min count.toNat (entries.length - start.toNat)) (if part = 0 then 7 else if part = 1 then 8 else 29)) :
    readSnapshot part start count s =
      (.done, u32 c.time ++ u16 c.number ++ u8 n ++ ((entries.drop start.toNat).take n).flatten) := by
  obtain ⟨size, section_, room⟩ := sectionEntries_eq (c := c) low
  rw [← shown] at section_
  unfold readSnapshot
  rw [if_neg (Nat.not_lt.mpr low), if_neg (by rw [settled]; decide), taken]
  dsimp only
  rw [section_]
  dsimp only
  rw [fits, room, List.length_drop, ← number]

/-- Settles O41. -/
theorem statementsAreTakenAndRead : Obligations.StatementsAreTakenAndRead := by
  refine ⟨fun s p rest r request awake idle front busy kind => ⟨fun closed => ?_, fun opened => ?_⟩,
    fun s p tag part start count ready => ⟨fun high => ?_, fun low => ⟨fun waits => ?_, fun jobs none_waits => ⟨fun empty => ?_,
      fun c entries n taken shown number => ?_⟩⟩⟩⟩
  · rw [jobStart_starts awake idle front]
    rcases kind with rfl | rfl
    · exact congrArg _ (startSnapshot_closed (s := { s with gen.jobs := rest }) busy closed)
    · exact congrArg _ (startSessionClose_closed (s := { s with gen.jobs := rest }) busy closed)
  · refine ⟨statementCopy (if request = .snapshot then .opened else .closed) s, rfl, rfl, rfl, rfl, rfl, statementLanguages_sorted s,
      mem_statementLanguages s, mem_statementSeats s, statementSeats_sorted s, fun is => ?_, fun is => ?_⟩
    · subst is
      rw [jobStart_starts awake idle front]
      exact congrArg _ (startSnapshot_done (s := { s with gen.jobs := rest }) busy opened)
    · subst is
      rw [jobStart_starts awake idle front]
      exact congrArg _ (startSessionClose_done (s := { s with gen.jobs := rest }) busy opened)
  · exact ready.answers tag rfl (by rw [readSnapshot_badArg high])
  · exact ready.answers tag rfl (by rw [readSnapshot_busy low (statementPending_waits waits)])
  · exact ready.answers tag rfl (by rw [readSnapshot_empty low (statementPending_none jobs none_waits) empty])
  · exact ready.answers tag rfl (by rw [readSnapshot_done low (statementPending_none jobs none_waits) taken shown number])

end Sys2Proof.Machine
end

section
/-! PROOF. STATUS and READ_TABLE (O42). -/

namespace Sys2Proof.Machine
open Sys2Proof

variable {s : State} {table : Byte} {start : Half} {count : Byte} {ticket : Half} {lo hi size : Nat}

/-! ## The widths of the fields (R184) -/

@[simp] theorem length_u8 (n : Nat) : (u8 n).length = 1 := length_numBytes ..
@[simp] theorem length_u16 (n : Nat) : (u16 n).length = 2 := length_numBytes ..
@[simp] theorem length_u32 (n : Nat) : (u32 n).length = 4 := length_numBytes ..
@[simp] theorem length_u48 (n : Nat) : (u48 n).length = 6 := length_numBytes ..
@[simp] theorem length_flag (v : Bool) : (flag v).length = 1 := rfl

@[simp] theorem length_optField (width : Nat) (v : Option Nat) : (optField width v).length = width + 1 := by
  cases v with
  | none => exact congrArg (· + 1) (length_numBytes ..)
  | some n => exact congrArg (· + 1) (length_numBytes ..)

theorem length_labelField {label : List Byte} (short : label.length ≤ 12) : (labelField label).length = 13 := by
  simp only [labelField, List.length_append, length_u8, List.length_replicate]
  omega

@[simp] theorem length_sourceField (source : Source) : (sourceField source).length = 2 := by
  cases source <;> rfl

@[simp] theorem length_slotField (slot : Option Slot) : (slotField slot).length = 1 := by
  cases slot <;> rfl

@[simp] theorem length_holderField (holder : Option Holder) : (holderField holder).length = 3 := by
  cases holder <;> rfl

@[simp] theorem length_linkField (link : Option HireLink) : (linkField link).length = 4 := by
  cases link <;> rfl

@[simp] theorem length_boothSettingsFields (m : Option BoothSettings) : (boothSettingsFields m).length = 8 := by
  cases m with
  | none => rfl
  | some m => simp [boothSettingsFields]

@[simp] theorem length_portTotalsFields (totals : PortTotals) : (portTotalsFields totals).length = 18 := by
  simp [portTotalsFields]

/-! ## The sizes of the entries (section 12.5) -/

theorem length_languageEntry (plan : PlanAgrees s.ret) (k : Slot) (listeners peak : Nat) :
    (languageEntry (s.slot k) listeners peak).length = 38 := by
  have short : (((s.slot k).name.map LangName.label).getD []).length ≤ 12 := by
    cases named : (s.slot k).name with
    | none => exact Nat.zero_le _
    | some n =>
      obtain ⟨_, _, _, short⟩ := plan.entries k n named
      exact short
  simp [languageEntry, length_labelField short]

theorem length_channelEntry (m : ChanSettings) (l : ChanLive) : (channelEntry m l).length = 13 := by
  simp [channelEntry, fallbackField]

theorem length_boothEntry (m : Option BoothSettings) (l : BoothLive) : (boothEntry m l).length = 23 := by
  simp [boothEntry, listenField]

theorem length_seatEntry (i : Nat) (state : SeatState) (acc : SeatAcc) : (seatEntry i state acc).length = 8 := by
  simp [seatEntry]

theorem length_offerEntry (c : Chan) (o : Option Offer) : (offerEntry c o).length = 7 := by
  cases o with
  | none => rfl
  | some o => simp [offerEntry]

theorem length_receiverEntry (n : Nat) (x : Receiver) : (receiverEntry n x).length = 27 := by
  cases charge : x.battery with
  | none => simp [receiverEntry, charge]
  | some b => simp [receiverEntry, charge]

theorem length_tariffEntry (k : TClass) (x : Tariff) : (tariffEntry k x).length = 18 := by
  simp [tariffEntry]

theorem length_accountsEntry (a : Accounts) : (accountsEntry a).length = 90 := by
  simp [accountsEntry]

theorem length_hiresEntry (n : Nat) (h : Hire) : (hiresEntry n h).length = 12 := by
  simp [hiresEntry]

theorem length_hireRecord (n : Nat) (h : Hire) : (hireRecord n h).length = 23 := by
  simp [hireRecord]

theorem length_hireLineEntry (i : Nat) (l : Line) : (hireLineEntry i l).length = 17 := by
  simp [hireLineEntry]

/-! ## The tables whose entries all exist (R175) -/

theorem entryAt_eq {n : Nat} (f : Fin n → List Byte) {i : Nat} (low : i < n) : entryAt f i = f ⟨i, low⟩ := by
  unfold entryAt
  rw [show fromZero n i = some ⟨i, low⟩ from fromZero_eq_some.mpr rfl]

theorem seatEntryAt_eq (s : State) {i : Nat} (booth : i / 3 < 32) (seat : i % 3 < 3) :
    seatEntryAt s i = seatEntry i (s.seat ⟨i / 3, booth⟩ ⟨i % 3, seat⟩) (s.acc ⟨i / 3, booth⟩ ⟨i % 3, seat⟩) := by
  unfold seatEntryAt
  rw [show fromZero 32 (i / 3) = some ⟨_, booth⟩ from fromZero_eq_some.mpr rfl,
    show fromZero 3 (i % 3) = some ⟨_, seat⟩ from fromZero_eq_some.mpr rfl]

theorem table_of_toNat {n : Nat} (number : table.toNat = n) : table = BitVec.ofNat 8 n := by
  rw [← number, BitVec.ofNat_toNat, BitVec.setWidth_eq]

theorem readTableOf_dense (start : Half) (count : Byte) (ticket : Half) (dense : denseTable table = some (lo, hi, size)) :
    ∃ entry : Nat → List Byte,
      readTableOf s table start count ticket = (.done, readDense lo hi size entry start.toNat count.toNat) ∧
      ∀ key, lo ≤ key → key ≤ hi → TableEntry s table key (entry key) := by
  unfold denseTable at dense
  split at dense <;> cases dense
  next number =>
    obtain rfl := table_of_toNat number
    exact ⟨_, rfl, fun key _ high => ⟨⟨key, Nat.lt_succ_of_le high⟩, rfl, entryAt_eq _ (Nat.lt_succ_of_le high)⟩⟩
  next number =>
    obtain rfl := table_of_toNat number
    exact ⟨_, rfl, fun key low high => ⟨⟨key - 1, by omega⟩, (Nat.sub_add_cancel low).symm, entryAt_eq _ (by omega)⟩⟩
  next number =>
    obtain rfl := table_of_toNat number
    exact ⟨_, rfl, fun key low high => ⟨⟨key - 1, by omega⟩, (Nat.sub_add_cancel low).symm, entryAt_eq _ (by omega)⟩⟩
  next number =>
    obtain rfl := table_of_toNat number
    exact ⟨_, rfl, fun key _ high => ⟨⟨key / 3, by omega⟩, ⟨key % 3, by omega⟩, (Nat.div_add_mod key 3).symm, seatEntryAt_eq s _ _⟩⟩
  next number =>
    obtain rfl := table_of_toNat number
    exact ⟨_, rfl, fun key low high => ⟨⟨key - 1, by omega⟩, (Nat.sub_add_cancel low).symm, entryAt_eq _ (by omega)⟩⟩
  next number =>
    obtain rfl := table_of_toNat number
    exact ⟨_, rfl, fun key _ _ => rfl⟩
  next number =>
    obtain rfl := table_of_toNat number
    exact ⟨_, rfl, fun key _ high => ⟨⟨key, Nat.lt_succ_of_le high⟩, rfl, entryAt_eq _ (Nat.lt_succ_of_le high)⟩⟩
  next number =>
    obtain rfl := table_of_toNat number
    exact ⟨_, rfl, fun key _ _ => rfl⟩

theorem TableEntry.length {key : Nat} {e : List Byte} (entry : TableEntry s table key e) (plan : PlanAgrees s.ret)
    (dense : denseTable table = some (lo, hi, size)) : e.length = size := by
  unfold TableEntry at entry
  unfold denseTable at dense
  split at dense <;> cases dense
  next number =>
    rw [number] at entry
    obtain ⟨k, _, rfl⟩ := entry
    exact length_languageEntry plan ..
  next number =>
    rw [number] at entry
    obtain ⟨c, _, rfl⟩ := entry
    exact length_channelEntry ..
  next number =>
    rw [number] at entry
    obtain ⟨b, _, rfl⟩ := entry
    exact length_boothEntry ..
  next number =>
    rw [number] at entry
    obtain ⟨b, k, _, rfl⟩ := entry
    exact length_seatEntry ..
  next number =>
    rw [number] at entry
    obtain ⟨c, _, rfl⟩ := entry
    exact length_offerEntry ..
  next number =>
    rw [number] at entry
    obtain rfl : e = _ := entry
    exact length_receiverEntry ..
  next number =>
    rw [number] at entry
    obtain ⟨k, _, rfl⟩ := entry
    exact length_tariffEntry ..
  next number =>
    rw [number] at entry
    obtain rfl : e = _ := entry
    exact length_accountsEntry ..

/-! ## The payloads -/

theorem tablePayload_eq (n : Nat) (next : Option Nat) (body : List Byte) :
    tablePayload n next body = u8 n ++ nextField next ++ body := by
  cases next with
  | none => rfl
  | some key => rfl

theorem readDense_eq (entry : Nat → List Byte) (start count : Nat) {first n : Nat} (from_ : first = max lo start)
    (number : n = min (min count (hi + 1 - first)) (236 / size)) :
    readDense lo hi size entry start count = u8 n ++ nextField (if first + n < hi + 1 then some (first + n) else none) ++
      ((List.range n).map (fun i => entry (first + i))).flatten := by
  unfold readDense
  dsimp only
  rw [tablePayload_eq, ← from_, show fits (Config.payloadMax - 4) size count (hi + 1 - first) = n from number.symm,
    List.flatMap_def]
  have more : n < hi + 1 - first ↔ first + n < hi + 1 := by omega
  simp only [more]

theorem readHires_eq {start count : Nat} {shown rest : Table Hire}
    (split_ : s.ret.hires.filter (fun e => decide (start ≤ e.1)) = shown ++ rest)
    (number : shown.length = min (min count (shown ++ rest).length) 19) :
    readHires s start count =
      u8 shown.length ++ nextField (rest.head?.map Prod.fst) ++ shown.flatMap (fun e => hiresEntry e.1 e.2) := by
  unfold readHires
  dsimp only
  rw [split_, show fits (Config.payloadMax - 4) 12 count (shown ++ rest).length = shown.length from number.symm,
    List.drop_left, List.take_left, tablePayload_eq]

theorem readHire_eq {n start count : Nat} {h : Hire} {shown rest : List Line} (split_ : h.lines.drop start = shown ++ rest)
    (number : shown.length = min (min count (shown ++ rest).length) 12) :
    readHire n h start count =
      u8 shown.length ++ nextField (rest.head?.map (fun _ => start + shown.length)) ++ hireRecord n h ++
        (shown.mapIdx (fun i l => hireLineEntry (start + i) l)).flatten := by
  have next : (if shown.length < (shown ++ rest).length then some (start + shown.length) else none) =
      rest.head?.map fun _ => start + shown.length := by
    cases rest with
    | nil => simp
    | cons l rest => simp
  unfold readHire
  dsimp only
  rw [split_, show fits (Config.payloadMax - 4 - 23) 17 count (shown ++ rest).length = shown.length from number.symm, next,
    List.take_left, tablePayload_eq, List.append_assoc, List.append_assoc, List.append_assoc, List.mapIdx_eq_zipIdx_map,
    List.zipIdx_eq_map_add, List.flatMap_map, List.flatMap_def]

/-! ## The settling theorem -/

theorem length_jobPorts (s : State) : s.queueDepth = (jobPorts s).length := by
  unfold State.queueDepth jobPorts
  rw [List.length_append, List.length_map, List.length_map, Nat.add_comm]
  cases s.gen.flight with
  | none => rfl
  | some f => rfl

theorem readTableOf_badArg (high : 9 < table.toNat) : readTableOf s table start count ticket = (.badArg, []) := by
  obtain ⟨m, e⟩ : ∃ m, table.toNat = m + 10 := ⟨table.toNat - 10, by omega⟩
  unfold readTableOf
  rw [e]
  rfl

theorem readTableOf_hire (ticket : Half) : readTableOf s 7 start count ticket = match s.hire? ticket.toNat with
    | none => (.notFound, [])
    | some h => (.done, readHire ticket.toNat h start.toNat count.toNat) := rfl

/-- Settles O42. -/
theorem statusAndTables : Obligations.StatusAndTables := by
  intro s p tag ready
  refine ⟨ready.answers tag rfl (by rw [← length_jobPorts]; rfl), fun table start count ticket => ⟨fun high => ?_,
    fun lo hi size first n dense from_ number => ?_, fun is shown rest split_ number => ⟨?_, fun e _ => length_hiresEntry ..⟩,
    fun is missing => ?_, fun is h shown rest found split_ number =>
      ⟨?_, length_hireRecord .., fun i l _ => length_hireLineEntry ..⟩⟩⟩
  · exact ready.answers tag rfl (by rw [readTableOf_badArg high])
  · obtain ⟨entry, reads, keyed⟩ := readTableOf_dense (s := s) start count ticket dense
    have inTable : ∀ i < n, TableEntry s table (first + i) (entry (first + i)) := fun i less =>
      keyed _ (by omega) (by omega)
    refine ⟨(List.range n).map (fun i => entry (first + i)), by simp, fun i e at_ => ?_, ?_, fun plan e mem => ?_⟩
    · obtain ⟨j, here, rfl⟩ := Option.map_eq_some_iff.mp ((List.getElem?_map ..).symm.trans at_)
      obtain ⟨less, rfl⟩ := List.getElem?_eq_some_iff.mp here
      rw [List.getElem_range]
      exact inTable i (by simpa using less)
    · exact ready.answers tag rfl (by rw [reads, readDense_eq entry start.toNat count.toNat from_ number])
    · obtain ⟨i, less, rfl⟩ := List.mem_map.mp mem
      exact (inTable i (List.mem_range.mp less)).length plan dense
  · subst is
    exact ready.answers tag rfl (by rw [← readHires_eq split_ number]; rfl)
  · subst is
    exact ready.answers tag rfl (by rw [readTableOf_hire]; simp only [missing])
  · subst is
    exact ready.answers tag rfl (by rw [readTableOf_hire]; simp only [found, readHire_eq split_ number])

end Sys2Proof.Machine
end

section
/-! PROOF. Frames that are admitted or answered (O45), with what the request parser can spell. -/

namespace Sys2Proof.Machine
open Sys2Proof

variable {s : State} {i : Instr} {p : Port} {tag : Byte} {code : ReqCode} {params content : List Byte}

/-! ## What a frame's content can spell (R172, R184) -/

/-- A request reaches its body through the tests of its port. -/
theorem request_taken (spelled : i.request = some (p, tag, code, params)) :
    ∃ body, ∀ s, exec i s = request p tag code body s ∧ runRequest i s = some (exec i s) := by
  cases i <;> cases spelled <;> exact ⟨_, fun _ => ⟨rfl, rfl⟩⟩

/-- The layouts, by the number of their parameter bytes; a list of another length spells nothing. -/
theorem parseParams_spells (spelled : parseParams p tag code params = some i) :
    ∃ params, i.request = some (p, tag, code, params) := by
  cases code
  case status | noticeFetch | deviceReset | routeRefresh | snapshot | sessionOpen | sessionClose | accountsClear =>
    rcases params with _ | ⟨_, _⟩ <;> cases spelled
    exact ⟨_, rfl⟩
  case noticeWait | langRemove | boothClear | boothCut =>
    rcases params with _ | ⟨_, _ | ⟨_, _⟩⟩ <;> cases spelled
    exact ⟨_, rfl⟩
  case subscribe | receiverWithdraw | receiverReinstate | receiverClearFlags | hallSet | returnReceiver | lost =>
    rcases params with _ | ⟨_, _ | ⟨_, _ | ⟨_, _⟩⟩⟩ <;> cases spelled
    exact ⟨_, rfl⟩
  case relaySet | quote | snapshotRead =>
    rcases params with _ | ⟨_, _ | ⟨_, _ | ⟨_, _ | ⟨_, _⟩⟩⟩⟩ <;> cases spelled
    exact ⟨_, rfl⟩
  case clockSet | issue =>
    rcases params with _ | ⟨_, _ | ⟨_, _ | ⟨_, _ | ⟨_, _ | ⟨_, _⟩⟩⟩⟩⟩ <;> cases spelled
    exact ⟨_, rfl⟩
  case readTable | receiverEnrol =>
    rcases params with _ | ⟨_, _ | ⟨_, _ | ⟨_, _ | ⟨_, _ | ⟨_, _ | ⟨_, _ | ⟨_, _⟩⟩⟩⟩⟩⟩⟩ <;> cases spelled
    exact ⟨_, rfl⟩
  case chanAssign =>
    rcases params with _ | ⟨_, _ | ⟨_, _ | ⟨_, _ | ⟨_, _ | ⟨_, _ | ⟨_, _ | ⟨_, _ | ⟨_, _⟩⟩⟩⟩⟩⟩⟩⟩ <;> cases spelled
    exact ⟨_, rfl⟩
  case close =>
    rcases params with
      _ | ⟨_, _ | ⟨_, _ | ⟨_, _ | ⟨_, _ | ⟨_, _ | ⟨_, _ | ⟨_, _ | ⟨_, _ | ⟨_, _ | ⟨_, _ | ⟨_, _⟩⟩⟩⟩⟩⟩⟩⟩⟩⟩⟩ <;> cases spelled
    exact ⟨_, rfl⟩
  case langDefine =>
    rcases params with _ | ⟨_, _ | ⟨_, _ | ⟨_, _ | ⟨_, label⟩⟩⟩⟩
    any_goals cases spelled
    obtain ⟨_, spelled⟩ := Option.ite_none_right_eq_some.mp spelled
    cases spelled
    exact ⟨_, rfl⟩
  case override =>
    rcases params with _ | ⟨_, _ | ⟨_, _⟩⟩
    any_goals cases spelled
    obtain ⟨_, _, rfl⟩ := Option.map_eq_some_iff.mp spelled
    exact ⟨_, rfl⟩
  case depositAdjust | hireDue =>
    rcases params with _ | ⟨_, _ | ⟨_, _ | ⟨_, _ | ⟨_, _ | ⟨_, _ | ⟨_, _ | ⟨_, _ | ⟨_, _⟩⟩⟩⟩⟩⟩⟩⟩
    any_goals cases spelled
    obtain ⟨_, _, rfl⟩ := Option.map_eq_some_iff.mp spelled
    exact ⟨_, rfl⟩
  case boothSet =>
    rcases params with _ | ⟨_, _ | ⟨_, _ | ⟨_, _ | ⟨_, _ | ⟨_, _ | ⟨_, _ | ⟨_, _ | ⟨_, _ | ⟨_, _⟩⟩⟩⟩⟩⟩⟩⟩⟩
    any_goals cases spelled
    obtain ⟨_, _, rfl⟩ := Option.map_eq_some_iff.mp spelled
    exact ⟨_, rfl⟩
  case hireOpen =>
    rcases params with
      _ | ⟨_, _ | ⟨_, _ | ⟨_, _ | ⟨_, _ | ⟨_, _ | ⟨_, _ | ⟨_, _ | ⟨_, _ | ⟨_, _ | ⟨_, _ | ⟨_, _⟩⟩⟩⟩⟩⟩⟩⟩⟩⟩⟩
    any_goals cases spelled
    obtain ⟨_, _, rfl⟩ := Option.map_eq_some_iff.mp spelled
    exact ⟨_, rfl⟩
  case tariffSet =>
    rcases params with
      _ | ⟨_, _ | ⟨_, _ | ⟨_, _ | ⟨_, _ | ⟨_, _ | ⟨_, _ | ⟨_, _ | ⟨_, _ | ⟨_, _ | ⟨_, _ | ⟨_, _ | ⟨_, _ | ⟨_, _ | ⟨_, _ | ⟨_, _ | ⟨_, _ | ⟨_, _⟩⟩⟩⟩⟩⟩⟩⟩⟩⟩⟩⟩⟩⟩⟩⟩⟩
    any_goals cases spelled
    obtain ⟨_, _, rfl⟩ := Option.map_eq_some_iff.mp spelled
    exact ⟨_, rfl⟩

theorem parseContent_spells (spelled : parseContent p content = some i) :
    ∃ tag code params, i.request = some (p, tag, code, params) := by
  rcases content with _ | ⟨tag, _ | ⟨code, params⟩⟩
  · cases spelled
  · cases spelled
  · obtain ⟨_, spelled⟩ := Option.ite_none_right_eq_some.mp spelled
    obtain ⟨c, _, spelled⟩ := Option.bind_eq_some_iff.mp spelled
    obtain ⟨params, is⟩ := parseParams_spells spelled
    exact ⟨_, _, _, is⟩

/-! ## A frame's arrival (R11, R171, R181) -/

theorem unknownRequest_parsed (spelled : parseContent p content = some i) (s : State) :
    exec (.unknownRequest p content) s = exec i s := by
  obtain ⟨_, _, _, is⟩ := parseContent_spells spelled
  obtain ⟨_, taken⟩ := request_taken is
  have runs : (parseContent p content).bind (fun i => runRequest i s) = some (exec i s) := by
    rw [spelled]
    exact (taken s).2
  show execUnknownRequest p content s = _
  unfold execUnknownRequest
  rw [runs]

theorem unknownRequest_unparsed (unspelled : parseContent p content = none) (s : State) :
    exec (.unknownRequest p content) s = frameArrives p (refuseFrame p content) s := by
  show execUnknownRequest p content s = _
  unfold execUnknownRequest
  rw [unspelled, Option.bind_none]

theorem request_arrives (spelled : i.request = some (p, tag, code, params)) : ∃ f, ∀ s, exec i s = frameArrives p f s := by
  obtain ⟨body, taken⟩ := request_taken spelled
  exact ⟨admitted p tag code body, fun s => (taken s).1⟩

theorem unknownRequest_arrives (p : Port) (content : List Byte) :
    ∃ f, ∀ s, exec (.unknownRequest p content) s = frameArrives p f s := by
  cases parsed : parseContent p content with
  | none => exact ⟨_, unknownRequest_unparsed parsed⟩
  | some i =>
    obtain ⟨_, _, _, spelled⟩ := parseContent_spells parsed
    obtain ⟨f, arrives⟩ := request_arrives spelled
    exact ⟨f, fun s => (unknownRequest_parsed parsed s).trans (arrives s)⟩

theorem badCrcFrame_awake (awake : Awake s) : exec (.badCrcFrame p content) s =
    .next (if s.breaks.get p then s else s.setPort p { s.port p with framing := .between }) :=
  taking_awake awake (fun s => if s.breaks.get p then s else s.setPort p { s.port p with framing := .between })

variable {r : InProgress} {w : Wait} {f : State → State}

theorem frameArrives_broken (awake : Awake s) (broken : s.breaks.get p = true) : frameArrives p f s = .next s := by
  unfold frameArrives
  rw [taking_awake awake, if_pos broken]

section
variable (awake : Awake s) (unbroken : s.breaks.get p = false) (between : (s.port p).framing = .between)
include awake unbroken between

theorem frameArrives_between : frameArrives p f s = .next (f (endWait p .cancelled s)) := by
  have stands : ({ s.port p with framing := .between } : PortState) = s.port p := by rw [← between]
  unfold frameArrives
  rw [taking_awake awake, if_neg (by rw [unbroken]; decide), stands, State.setPort_self]

theorem frameArrives_unwaited (unwaited : (s.port p).inProgress.bind InProgress.wait = none) : frameArrives p f s = .next (f s) := by
  rw [frameArrives_between awake unbroken between]
  rcases endWait_cases p .cancelled s with ⟨_, _, _, waits, _⟩ | ⟨_, same⟩
  · rw [waits] at unwaited
    nomatch unwaited
  · rw [same]

/-- A frame that meets a pending wait is decided as if the wait had been cancelled before it came. -/
theorem frameArrives_waiting (pending : (s.port p).inProgress = some r) (waits : r.wait = some w) :
    frameArrives p f s = frameArrives p f (answered p r .cancelled (u8 w.applied) s) := by
  rw [frameArrives_between awake unbroken between, endWait_pending pending waits]
  refine (frameArrives_unwaited (s := answered p r .cancelled (u8 w.applied) s) ⟨awake.running, awake.settled⟩ unbroken
    ?_ ?_).symm
  · rw [answered, State.setPort_same]
    exact between
  · rw [answered, State.setPort_same]
    rfl

theorem request_admitted (unwaited : (s.port p).inProgress.bind InProgress.wait = none) (body : State → State) :
    request p tag code body s = .next (admitted p tag code body s) :=
  frameArrives_unwaited awake unbroken between unwaited

end

/-! ## The answer to a frame that spells no request (R172) -/

theorem frameRefusal_malformed (wrong : content.length < 2 ∨ 32 < content.length) : frameRefusal p content s = .malformed := by
  rcases content with _ | ⟨tag, _ | ⟨code, params⟩⟩
  · rfl
  · rfl
  · refine if_pos ?_
    simp only [List.length_cons] at wrong
    omega

variable {c : ReqCode} {byte : Byte}

theorem frameRefusal_unknown (room : params.length ≤ 30) (unknown : ReqCode.ofByte byte = none) :
    frameRefusal p (tag :: byte :: params) s = .unknown := by
  refine (if_neg (Nat.not_lt.mpr room)).trans ?_
  rw [unknown]

theorem frameRefusal_known (room : params.length ≤ 30) (known : ReqCode.ofByte byte = some c) :
    frameRefusal p (tag :: byte :: params) s =
      if (s.port p).inProgress.isSome then .busy else if c.console && p != .console then .denied else .malformed := by
  refine (if_neg (Nat.not_lt.mpr room)).trans ?_
  rw [known]

theorem isSome_of_busy (busy : (s.port p).inProgress ≠ none) : (s.port p).inProgress.isSome = true :=
  Option.isSome_iff_ne_none.mpr busy

theorem isSome_of_free (free : (s.port p).inProgress = none) : ¬ (s.port p).inProgress.isSome = true := by
  rw [free]
  decide

theorem console_denied (only : c.console = true) (desk : p ≠ .console) : (c.console && p != .console) = true :=
  Bool.and_eq_true_iff.mpr ⟨only, bne_iff_ne.mpr desk⟩

theorem console_allowed (allowed : c.console = true → p = .console) : ¬ (c.console && p != .console) = true := by
  intro denied
  obtain ⟨only, desk⟩ := Bool.and_eq_true_iff.mp denied
  exact bne_iff_ne.mp desk (allowed only)

/-- Settles O45. -/
theorem framesAreAdmittedOrAnswered : Obligations.FramesAreAdmittedOrAnswered := by
  refine ⟨fun s p content awake unbroken => ?_, fun s p content awake broken => ⟨?_, ?_⟩,
    fun s p content r w awake unbroken between pending waits => ?_, fun s p content i spelled => unknownRequest_parsed spelled s,
    fun s p content awake unbroken between unwaited unspelled => ?_,
    fun s i p tag code params awake spelled unbroken between => ?_⟩
  · rw [badCrcFrame_awake awake, if_neg (by rw [unbroken]; decide)]
  · rw [badCrcFrame_awake awake, if_pos broken]
  · obtain ⟨f, arrives⟩ := unknownRequest_arrives p content
    rw [arrives, frameArrives_broken awake broken]
  · obtain ⟨f, arrives⟩ := unknownRequest_arrives p content
    rw [arrives, arrives]
    exact frameArrives_waiting awake unbroken between pending waits
  · have answers {a : Answer} (refusal : frameRefusal p content s = a) :
        exec (.unknownRequest p content) s = .next (responds p (content.headD 0) a [] s) := by
      rw [unknownRequest_unparsed unspelled, frameArrives_unwaited awake unbroken between unwaited, refuseFrame, refusal, answer_eq]
    refine ⟨fun wrong => answers (frameRefusal_malformed wrong), fun tag byte params is room => ?_⟩
    subst is
    refine ⟨fun unknown => answers (frameRefusal_unknown room unknown), fun c known => ⟨fun busy => answers ?_,
      fun free only desk => answers ?_, fun free allowed => answers ?_⟩⟩
    · rw [frameRefusal_known room known, if_pos (isSome_of_busy busy)]
    · rw [frameRefusal_known room known, if_neg (isSome_of_free free), if_pos (console_denied only desk)]
    · rw [frameRefusal_known room known, if_neg (isSome_of_free free), if_neg (console_allowed allowed)]
  · obtain ⟨body, taken⟩ := request_taken spelled
    refine ⟨fun r busy unwaited => ?_, fun free only desk => ?_, fun r w pending waits => ?_⟩
    · rw [(taken s).1, request_admitted awake unbroken between (by rw [busy]; exact unwaited), admitted,
        if_pos (isSome_of_busy (by rw [busy]; exact Option.some_ne_none r)), answer_eq]
    · rw [(taken s).1, request_admitted awake unbroken between (by rw [free]; rfl), admitted, if_neg (isSome_of_free free),
        if_pos (console_denied only desk), answer_eq]
    · rw [(taken s).1, (taken _).1]
      exact frameArrives_waiting awake unbroken between pending waits

end Sys2Proof.Machine
end

section
/-! PROOF. A request's frame is read back byte by byte (O46). -/

namespace Sys2Proof.Machine
open Sys2Proof

variable {i : Instr} {p : Port} {tag : Byte} {code : ReqCode} {params content : List Byte}

/-! ## Numbers and optional fields read back (R184) -/

theorem half_bytes (h : Half) : half (BitVec.ofNat 8 (h.toNat / 256 ^ 1)) (BitVec.ofNat 8 (h.toNat / 256 ^ 0)) = h := by
  apply BitVec.eq_of_toNat_eq
  have := h.isLt
  simp only [half, BitVec.toNat_ofNat]
  omega

theorem word_bytes (w : Word) : word (BitVec.ofNat 8 (w.toNat / 256 ^ 3)) (BitVec.ofNat 8 (w.toNat / 256 ^ 2))
    (BitVec.ofNat 8 (w.toNat / 256 ^ 1)) (BitVec.ofNat 8 (w.toNat / 256 ^ 0)) = w := by
  apply BitVec.eq_of_toNat_eq
  have := w.isLt
  simp only [word, BitVec.toNat_ofNat]
  omega

@[simp] theorem length_halfBytes (h : Half) : (halfBytes h).length = 2 := length_numBytes ..
@[simp] theorem length_wordBytes (w : Word) : (wordBytes w).length = 4 := length_numBytes ..

@[simp] theorem length_optionalByte (v : Option Byte) : (optionalByte v).length = 2 := by
  cases v <;> rfl

@[simp] theorem length_optionalWord (v : Option Word) : (optionalWord v).length = 5 := by
  cases v <;> rfl

/-! ## A request's parameters read back (R172, R185) -/

theorem ofByte_byte (code : ReqCode) : ReqCode.ofByte code.byte = some code := by
  cases code <;> rfl

theorem params_fit (lawful : WellFormed i = true) (spelled : i.request = some (p, tag, code, params)) : params.length ≤ 30 := by
  cases i <;> cases spelled
  case langDefine =>
    have short := of_decide_eq_true lawful
    simp
    omega
  all_goals simp

theorem parseParams_reads (lawful : WellFormed i = true) (spelled : i.request = some (p, tag, code, params)) :
    parseParams p tag code params = some i := by
  cases i <;> cases spelled
  case status | noticeFetch | noticeWait | deviceReset | langRemove | chanAssign | routeRefresh | boothClear | boothCut
    | relaySet | snapshot | snapshotRead | sessionOpen | sessionClose | accountsClear => rfl
  case override on => cases on <;> rfl
  case boothSet booth args =>
    obtain ⟨seats, a, output, mode, offer, auto⟩ := args
    cases output <;> rfl
  case subscribe => exact congrArg (fun k => some (Instr.subscribe p tag k)) (half_bytes _)
  case receiverWithdraw => exact congrArg (fun n => some (Instr.receiverWithdraw p tag n)) (half_bytes _)
  case receiverReinstate => exact congrArg (fun n => some (Instr.receiverReinstate p tag n)) (half_bytes _)
  case receiverClearFlags => exact congrArg (fun n => some (Instr.receiverClearFlags p tag n)) (half_bytes _)
  case hallSet => exact congrArg (fun c => some (Instr.hallSet p tag c)) (half_bytes _)
  case returnReceiver => exact congrArg (fun n => some (Instr.returnReceiver p tag n)) (half_bytes _)
  case lost => exact congrArg (fun n => some (Instr.lost p tag n)) (half_bytes _)
  case quote => exact congrArg (fun t => some (Instr.quote p tag t _)) (half_bytes _)
  case clockSet => exact congrArg (fun v => some (Instr.clockSet p tag v)) (word_bytes _)
  case readTable => exact congrArg₂ (fun a t => some (Instr.readTable p tag _ a _ t)) (half_bytes _) (half_bytes _)
  case issue => exact congrArg₂ (fun t n => some (Instr.issue p tag t n)) (half_bytes _) (half_bytes _)
  case receiverEnrol => exact congrArg₂ (fun n w => some (Instr.receiverEnrol p tag n w)) (half_bytes _) (word_bytes _)
  case langDefine slot langTag label =>
    have short : label.length ≤ 26 := of_decide_eq_true lawful
    have counted : label.length = (BitVec.ofNat 8 label.length).toNat := by
      rw [BitVec.toNat_ofNat]
      omega
    exact (if_pos counted).trans (congrArg (fun t => some (Instr.langDefine p tag slot t label)) (half_bytes _))
  case hireOpen k deposit due =>
    cases due with
    | none => exact congrArg (fun d => some (Instr.hireOpen p tag k d none)) (word_bytes _)
    | some _ => exact congrArg₂ (fun d e => some (Instr.hireOpen p tag k d (some e))) (word_bytes _) (word_bytes _)
  case hireDue ticket due =>
    cases due with
    | none => exact congrArg (fun t => some (Instr.hireDue p tag t none)) (half_bytes _)
    | some _ => exact congrArg₂ (fun t d => some (Instr.hireDue p tag t (some d))) (half_bytes _) (word_bytes _)
  case depositAdjust ticket minus magnitude =>
    cases minus with
    | false => exact congrArg₂ (fun t m => some (Instr.depositAdjust p tag t false m)) (half_bytes _) (word_bytes _)
    | true => exact congrArg₂ (fun t m => some (Instr.depositAdjust p tag t true m)) (half_bytes _) (word_bytes _)
  case close args =>
    show some (Instr.close p tag ⟨half _ _, word _ _ _ _, half _ _, _, _⟩) = _
    rw [half_bytes, half_bytes, word_bytes]
  case tariffSet k args =>
    obtain ⟨defined, quantum, grace, rate, dayCap, lossFee⟩ := args
    cases defined with
    | false =>
      show some (Instr.tariffSet p tag k ⟨false, half _ _, half _ _, half _ _, word _ _ _ _, word _ _ _ _⟩) = _
      rw [half_bytes, half_bytes, half_bytes, word_bytes, word_bytes]
    | true =>
      show some (Instr.tariffSet p tag k ⟨true, half _ _, half _ _, half _ _, word _ _ _ _, word _ _ _ _⟩) = _
      rw [half_bytes, half_bytes, half_bytes, word_bytes, word_bytes]

theorem parseContent_reads (lawful : WellFormed i = true) (spelled : i.request = some (p, tag, code, params)) :
    parseContent p (tag :: code.byte :: params) = some i := by
  refine (if_pos (params_fit lawful spelled)).trans ?_
  rw [ofByte_byte, Option.bind_some, parseParams_reads lawful spelled]

/-! ## A frame on the line (R171) -/

theorem portByte_within (p : Port) (l : Byte) (got : List Byte) (b : Byte) :
    portByte p (.within (l :: got)) b =
      if (got ++ [b]).length = l.toNat + 2 then
        (.between, some (frameCommand p ((got ++ [b]).take l.toNat)
          (half ((got ++ [b]).getD l.toNat 0) ((got ++ [b]).getD (l.toNat + 1) 0))))
      else (.within (l :: (got ++ [b])), none) := rfl

theorem portLine_cons (p : Port) (f : Framing) (b : Byte) (bs : List Byte) :
    portLine p f (b :: bs) =
      ((portLine p (portByte p f b).1 bs).1, (portByte p f b).2.toList ++ (portLine p (portByte p f b).1 bs).2) := rfl

/-- The bytes that complete a frame of length `l` make its command, and leave the line between frames. -/
theorem portLine_completes (p : Port) (l : Byte) (bs got : List Byte) (some_ : bs ≠ []) (whole : (got ++ bs).length = l.toNat + 2) :
    portLine p (.within (l :: got)) bs = (.between, [frameCommand p ((got ++ bs).take l.toNat)
      (half ((got ++ bs).getD l.toNat 0) ((got ++ bs).getD (l.toNat + 1) 0))]) := by
  induction bs generalizing got with
  | nil => exact absurd rfl some_
  | cons b bs ih =>
    have onward : got ++ b :: bs = got ++ [b] ++ bs := by rw [List.append_assoc, List.singleton_append]
    rw [onward] at whole ⊢
    rw [portLine_cons, portByte_within]
    cases bs with
    | nil =>
      rw [List.append_nil] at whole ⊢
      rw [if_pos whole]
      rfl
    | cons c bs =>
      rw [if_neg (by simp only [List.length_append, List.length_cons] at whole ⊢; omega), ih _ (List.cons_ne_nil _ _) whole]
      rfl

theorem portLine_frame (p : Port) (room : content.length < 256) :
    portLine p .between (frameBytes content) =
      (.between, [frameCommand p content (crc16 (BitVec.ofNat 8 content.length :: content))]) := by
  have length : (BitVec.ofNat 8 content.length).toNat = content.length := by
    rw [BitVec.toNat_ofNat, Nat.mod_eq_of_lt room]
  generalize check : crc16 (BitVec.ofNat 8 content.length :: content) = crc
  have opens : portLine p .between (frameBytes content) =
      portLine p (.within [BitVec.ofNat 8 content.length]) (content ++ numBytes 2 crc.toNat) := by
    rw [← check]
    rfl
  rw [opens, portLine_completes p _ _ [] (by simp [numBytes]) (by simp [length, length_numBytes]), List.nil_append, length,
    List.take_left]
  have first : (content ++ numBytes 2 crc.toNat).getD content.length 0 = BitVec.ofNat 8 (crc.toNat / 256 ^ 1) := by
    simp [numBytes]
  have second : (content ++ numBytes 2 crc.toNat).getD (content.length + 1) 0 = BitVec.ofNat 8 (crc.toNat / 256 ^ 0) := by
    simp [numBytes]
  rw [first, second, half_bytes]

/-- Settles O46. -/
theorem framesAreReadAsWritten : Obligations.FramesAreReadAsWritten := by
  intro i p tag code params lawful spelled
  have written : i.content = tag :: code.byte :: params := by
    unfold Instr.content
    rw [spelled]
  have short := params_fit lawful spelled
  rw [written, portLine_frame p (by simp only [List.length_cons]; omega)]
  unfold frameCommand
  rw [if_pos rfl, parseContent_reads lawful spelled]

end Sys2Proof.Machine
end
